-- ==== Sys2Proof/Word.lean ====
section
/-! DEFINITION. The words of the machine and the sparse store that holds registers and memory. -/

namespace Sys2Proof

/-- A 32-bit register, instruction or header word (R9, R27). -/
abbrev Word := BitVec 32

/-- A 64-bit value: a register pair, a pointer (R211). -/
abbrev DWord := BitVec 64

/-- The smallest addressable unit of memory (R21). -/
abbrev Byte := BitVec 8

/-- A sparse store of `w`-bit cells: pairs of key and value with strictly rising keys and no entry equal to 0.
A key that is not listed reads as 0. Memory is `Store 8`; a register file is `Store 32`. -/
abbrev Store (w : Nat) := List (Nat × BitVec w)

/-- A lane mask: bit l is lane l (R126). -/
abbrev LaneMask := BitVec 32

/-- The number of lanes of a group (R126). -/
def laneCount : Nat := 32

/-- The value of a lane mask with one lane. -/
def laneBit (l : Nat) : LaneMask := BitVec.ofNat 32 (2 ^ l)

end Sys2Proof
end

