-- ==== Sys2Proof/Syntax.lean ====
section
/-! DEFINITION. The instruction set as data: operands (R29), modifiers (R38), and one constructor per row of the opcode table. -/

namespace Sys2Proof

/-- What a 7-bit operand code names (R29). Code 119 is reserved and names nothing. `q` stands for a port q0–q7. -/
inductive Operand where
  | v (n : Fin 96) | s (n : Fin 16) | zero | lane | grpx | wb | mask | tidx | lit | q (n : Fin 8)
  deriving DecidableEq, Repr

/-- A predicate p0–p7 (R9, R30). -/
abbrev PredReg := Fin 8
/-- A base translation slot bt0–bt7 (R218). -/
abbrev BtSlot := Fin 8
/-- A path number as a raw immediate (R254). -/
abbrev PathNo := Fin 11
/-- An accumulator tile number (R278). -/
abbrev Tile := Fin 64
/-- The first register of a range (R163, R364). -/
abbrev FirstReg := Fin 96
/-- The number of registers of a range, 1 to 96 (R163, R364); 0 is ill-formed. -/
abbrev RegCount := Fin 97
/-- A 7-bit raw immediate: a system-register number or a BKPT code (R376, R377). -/
abbrev SrNum := Fin 128
/-- A level of the program's hierarchy (R172). -/
abbrev Level := Fin 8
/-- A barrier or rendezvous id (R163, R165). -/
abbrev BarId := Fin 16
/-- A cluster barrier id (R167). -/
abbrev CbarId := Fin 4
/-- LEA's shift count (R86). -/
abbrev Shift := Fin 16
/-- DQCVT's element index (R125). -/
abbrev Elem := Fin 8

/-- 32-bit or 64-bit operation (R82, R87). -/
inductive Wide where | w32 | w64
  deriving DecidableEq, Repr
/-- Unsigned or signed (R88). -/
inductive Sgn where | uns | sgn
  deriving DecidableEq, Repr
/-- The type codes 0–3 (R38). -/
inductive IType where | i32 | n32 | i64 | n64
  deriving DecidableEq, Repr
/-- The type codes 0–5 (R38). -/
inductive AType where | i32 | n32 | i64 | n64 | i32sat | n32sat
  deriving DecidableEq, Repr
/-- The relations of ICMP and FCMP (R38, R110). -/
inductive Rel where | eq | ne | lt | le
  deriving DecidableEq, Repr
/-- ICMP's modifier (R85). -/
structure ICond where
  rel : Rel
  uns : Bool
  w64 : Bool
  deriving DecidableEq, Repr
/-- SEL's predicate with its inversion (R82). -/
structure PredSel where
  p : PredReg
  inv : Bool
  deriving DecidableEq, Repr
/-- A transfer's predicate with its inversion (R93); p7 inverted is reserved. -/
structure XferPred where
  p : PredReg
  inv : Bool
  deriving DecidableEq, Repr
/-- PLOP's operations (R90). -/
inductive PlopOp where | and | or | xor | andn | orn | not | copy
  deriving DecidableEq, Repr
/-- IDP4's signedness of a and b (R84). -/
inductive Idp4Sign where | i8i8 | n8n8 | i8n8 | n8i8
  deriving DecidableEq, Repr
/-- Load widths (R38, R102). -/
inductive LWidth where | n8 | i8 | n16 | i16 | n32 | n64 | n128
  deriving DecidableEq, Repr
/-- Store widths (R102). -/
inductive SWidth where | n8 | n16 | n32 | n64 | n128
  deriving DecidableEq, Repr
/-- Atomic operations (R38, R250). -/
inductive AtomicOp where
  | add | mini | maxi | minn | maxn | and | or | xor | exch | cas | faddF32 | faddBf16x2 | inc
  deriving DecidableEq, Repr
/-- The atomic operations REDG accepts (R38): no EXCH and no CAS. -/
inductive RedOp where
  | add | mini | maxi | minn | maxn | and | or | xor | faddF32 | faddBf16x2 | inc
  deriving DecidableEq, Repr
/-- Memory scopes (R38, R225). -/
inductive Scope where | grp | wg | cl | die | pnl | sys
  deriving DecidableEq, Repr
/-- FENCE kinds (R253). -/
inductive FenceKind where | acq | rel | acqrel | sc
  deriving DecidableEq, Repr
/-- PREF's target (R259). -/
inductive PrefLevel where | l1 | l2
  deriving DecidableEq, Repr
/-- Rounding modes 0–3 (R38, R60). -/
inductive Rnd where | rne | rtz | rdn | rup
  deriving DecidableEq, Repr
/-- Rounding modes 0–4, RSR included (R38, R63). -/
inductive QRnd where | rne | rtz | rdn | rup | rsr
  deriving DecidableEq, Repr
/-- FMIN and FMAX: number preferred or NaN propagated (R109). -/
inductive NanMode where | number | nan
  deriving DecidableEq, Repr
/-- FCMP's modifier (R110). -/
structure FCond where
  rel : Rel
  unord : Bool
  deriving DecidableEq, Repr
/-- The two half formats (R118). -/
inductive HFmt where | fp16 | bf16
  deriving DecidableEq, Repr
/-- CVTF's formats (R120). -/
inductive FFmt where | fp32 | fp16 | bf16
  deriving DecidableEq, Repr
structure CvtFmts where
  src : FFmt
  dst : FFmt
  deriving DecidableEq, Repr
/-- F2I's and I2F's modifier (R122, R123). -/
structure IntCvt where
  rnd : Rnd
  uns : Bool
  w64 : Bool
  deriving DecidableEq, Repr
/-- PACK2's modifier (R121). -/
structure PackMode where
  rnd : QRnd
  fmt : HFmt
  deriving DecidableEq, Repr
/-- The format codes QCVT and DQCVT accept (R34, R39). -/
inductive QFmt where | e4m3 | e5m2 | e2m1 | lg6 | int8 | int4
  deriving DecidableEq, Repr
/-- MMA's multicast bits (R287). -/
structure MultiCast where
  b : Bool
  a : Bool
  deriving DecidableEq, Repr
/-- The engine ports a queue port can bind (R264). -/
inductive EnginePort where | gather | mrow | rayhit | rayisect | msample | fabrx | cpycmd | tracecmd
  deriving DecidableEq, Repr
/-- SHFL's modes (R158). -/
inductive ShflMode where | idx | up | down | xor
  deriving DecidableEq, Repr
/-- The scan operations (R156). -/
inductive ScanOp where | add | fadd | mini | maxi | minn | maxn | and | or
  deriving DecidableEq, Repr
/-- SCAN's modifier (R159). -/
structure ScanMode where
  op : ScanOp
  excl : Bool
  deriving DecidableEq, Repr
/-- PHASEEND's operations (R171). -/
inductive PhaseOp where | or | maxn | add
  deriving DecidableEq, Repr
/-- COLL's operations (R422). -/
inductive CollOp where | addF32 | addBf16 | max | copy
  deriving DecidableEq, Repr

/-- The access paths (R18). -/
inductive Path where | lane | scr | clu | die | glb | cpy | mat | gat | ray | fab | rnd
  deriving DecidableEq, Repr

/-- A clause header (R28): N − 1, WAIT, SETX, SETY, guard sense and guard predicate. -/
structure Header where
  n1 : Fin 16
  wait : BitVec 12
  setx : Fin 16
  sety : Fin 16
  sense : Bool
  pred : PredReg
  deriving DecidableEq, Repr

def AType.is64 : AType → Bool
  | .i64 | .n64 => true
  | _ => false
def IType.is64 : IType → Bool
  | .i64 | .n64 => true
  | _ => false
def Wide.is64 (w : Wide) : Bool := w = .w64
def ICond.is64 (c : ICond) : Bool := c.w64
def IntCvt.is64 (c : IntCvt) : Bool := c.w64

/-- One constructor per row of the opcode table: the clause header, the instructions of R34, and the steps of the machine's
other agents that have no encoding (events). -/
inductive Instr where
  /-- CLAUSE_HEADER (R11). -/
  | clauseHeader (h : Header)
  /-- LONG_LATENCY_COMPLETE (R14). -/
  | longLatencyComplete (g : Nat) (f : Nat)
  /-- PATH_COMPLETION (R18). -/
  | pathCompletion (g : Nat) (p : Nat)
  /-- WATCHDOG_MEMWAIT (R256). -/
  | watchdogMemwait (g : Nat) (p : Nat)
  /-- WAITMEM_WAKE (R256). -/
  | waitmemWake (g : Nat) (p : Nat)
  /-- WAITMEM_RECHECK (R256). -/
  | waitmemRecheck (g : Nat) (p : Nat)
  /-- MOV (R82). -/
  | mov (w : Wide) (d : Operand) (a : Operand)
  /-- SEL (R82). -/
  | sel (p : PredSel) (d : Operand) (a : Operand) (b : Operand)
  /-- IADD (R83). -/
  | iadd (t : AType) (d : Operand) (a : Operand) (b : Operand)
  /-- ISUB (R83). -/
  | isub (t : AType) (d : Operand) (a : Operand) (b : Operand)
  /-- IMUL (R83). -/
  | imul (t : IType) (d : Operand) (a : Operand) (b : Operand)
  /-- IMULH (R83). -/
  | imulh (t : IType) (d : Operand) (a : Operand) (b : Operand)
  /-- IMAD (R83). -/
  | imad (t : AType) (d : Operand) (a : Operand) (b : Operand)
  /-- IDIV (R83). -/
  | idiv (t : IType) (d : Operand) (a : Operand) (b : Operand)
  /-- IREM (R83). -/
  | irem (t : IType) (d : Operand) (a : Operand) (b : Operand)
  /-- IMIN (R83). -/
  | imin (t : IType) (d : Operand) (a : Operand) (b : Operand)
  /-- IMAX (R83). -/
  | imax (t : IType) (d : Operand) (a : Operand) (b : Operand)
  /-- ICMP (R85). -/
  | icmp (c : ICond) (pd : PredReg) (a : Operand) (b : Operand)
  /-- LEA (R86). -/
  | lea (k : Shift) (d : Operand) (a : Operand) (b : Operand)
  /-- AND (R87). -/
  | land (w : Wide) (d : Operand) (a : Operand) (b : Operand)
  /-- OR (R87). -/
  | lor (w : Wide) (d : Operand) (a : Operand) (b : Operand)
  /-- XOR (R87). -/
  | lxor (w : Wide) (d : Operand) (a : Operand) (b : Operand)
  /-- ANDN (R87). -/
  | landn (w : Wide) (d : Operand) (a : Operand) (b : Operand)
  /-- SHL (R87). -/
  | shl (w : Wide) (d : Operand) (a : Operand) (b : Operand)
  /-- SHR (R87). -/
  | shr (w : Wide) (d : Operand) (a : Operand) (b : Operand)
  /-- SAR (R87). -/
  | sar (w : Wide) (d : Operand) (a : Operand) (b : Operand)
  /-- ROTL (R87). -/
  | rotl (w : Wide) (d : Operand) (a : Operand) (b : Operand)
  /-- BFE (R88). -/
  | bfe (sg : Sgn) (d : Operand) (a : Operand) (b : Operand)
  /-- BFI (R88). -/
  | bfi (d : Operand) (a : Operand) (b : Operand)
  /-- POPC (R89). -/
  | popc (d : Operand) (a : Operand)
  /-- CLZ (R89). -/
  | clz (d : Operand) (a : Operand)
  /-- CTZ (R89). -/
  | ctz (d : Operand) (a : Operand)
  /-- BREV (R89). -/
  | brev (d : Operand) (a : Operand)
  /-- BSWAP (R89). -/
  | bswap (d : Operand) (a : Operand)
  /-- PERM (R89). -/
  | perm (d : Operand) (a : Operand) (b : Operand)
  /-- PLOP (R90). -/
  | plop (o : PlopOp) (pd : PredReg) (pa : PredReg) (pb : PredReg)
  /-- IDP4 (R84). -/
  | idp4 (g : Idp4Sign) (d : Operand) (a : Operand) (b : Operand)
  /-- WINDOW (R91). -/
  | window (a : Operand)
  /-- RDCNT_CYCLE (R92). -/
  | rdcntCycle (d : Operand)
  /-- RDCNT_TIME (R92). -/
  | rdcntTime (d : Operand)
  /-- RDCNT_CLAUSES (R92). -/
  | rdcntClauses (d : Operand)
  /-- RDCNT_PATH (R92). -/
  | rdcntPath (d : Operand) (a : Operand)
  /-- BR (R95, R129). -/
  | br (p : XferPred) (off : BitVec 21)
  /-- JMPR (R96, R130). -/
  | jmpr (p : XferPred) (a : Operand)
  /-- CALL (R95, R129). -/
  | call (p : XferPred) (off : BitVec 21)
  /-- RET (R97, R130). -/
  | ret (p : XferPred)
  /-- EXIT (R97). -/
  | exit (p : XferPred)
  /-- JOINAT (R98, R177). -/
  | joinat (off : BitVec 21)
  /-- TRAP (R100). -/
  | trap (a : Operand)
  /-- LD (R102-R104). -/
  | ld (w : LWidth) (d : Operand) (a : Operand) (b : Operand)
  /-- ST (R102-R104). -/
  | st (w : SWidth) (d : Operand) (a : Operand) (b : Operand)
  /-- LDL (R244-R246). -/
  | ldl (w : LWidth) (d : Operand) (a : Operand) (b : Operand)
  /-- STL (R244-R246). -/
  | stl (w : SWidth) (d : Operand) (a : Operand) (b : Operand)
  /-- LDS (R244-R246). -/
  | lds (w : LWidth) (d : Operand) (a : Operand) (b : Operand)
  /-- STS (R244-R246). -/
  | sts (w : SWidth) (d : Operand) (a : Operand) (b : Operand)
  /-- LDC (R244-R246). -/
  | ldc (w : LWidth) (d : Operand) (a : Operand) (b : Operand)
  /-- STC (R244-R246). -/
  | stc (w : SWidth) (d : Operand) (a : Operand) (b : Operand)
  /-- LDD (R244-R246). -/
  | ldd (w : LWidth) (d : Operand) (a : Operand) (b : Operand)
  /-- STD (R244-R246). -/
  | std (w : SWidth) (d : Operand) (a : Operand) (b : Operand)
  /-- LDB (R247). -/
  | ldb (w : LWidth) (d : Operand) (k : BtSlot) (b : Operand)
  /-- STB (R247). -/
  | stb (w : SWidth) (d : Operand) (k : BtSlot) (b : Operand)
  /-- ATOMS (R249-R252). -/
  | atoms (o : AtomicOp) (d : Operand) (a : Operand) (b : Operand)
  /-- ATOMG (R249-R252). -/
  | atomg (o : AtomicOp) (d : Operand) (a : Operand) (b : Operand)
  /-- REDG (R249-R252). -/
  | redg (o : RedOp) (d : Operand) (a : Operand)
  /-- ATOMC (R249-R252). -/
  | atomc (o : AtomicOp) (d : Operand) (a : Operand) (b : Operand)
  /-- FENCE (R253). -/
  | fence (sc : Scope) (k : FenceKind)
  /-- PFENCE (R254). -/
  | pfence (pp : PathNo) (pq : PathNo)
  /-- WAITP (R255). -/
  | waitp (pp : PathNo) (b : Operand)
  /-- WAITMEM (R256). -/
  | waitmem (sc : Scope) (a : Operand) (b : Operand)
  /-- BTSET (R248). -/
  | btset (k : BtSlot) (a : Operand) (b : Operand)
  /-- TAGSET (R257). -/
  | tagset (d : Operand) (a : Operand)
  /-- TAGGET (R257). -/
  | tagget (d : Operand) (a : Operand)
  /-- TAGPTR (R257). -/
  | tagptr (d : Operand) (a : Operand) (b : Operand)
  /-- PREF (R259). -/
  | pref (lv : PrefLevel) (a : Operand) (b : Operand)
  /-- FADD (R107, R108). -/
  | fadd (r : Rnd) (d : Operand) (a : Operand) (b : Operand)
  /-- FSUB (R107, R108). -/
  | fsub (r : Rnd) (d : Operand) (a : Operand) (b : Operand)
  /-- FMUL (R107, R108). -/
  | fmul (r : Rnd) (d : Operand) (a : Operand) (b : Operand)
  /-- FFMA (R107, R108). -/
  | ffma (r : Rnd) (d : Operand) (a : Operand) (b : Operand)
  /-- FMIN (R109). -/
  | fmin (nm : NanMode) (d : Operand) (a : Operand) (b : Operand)
  /-- FMAX (R109). -/
  | fmax (nm : NanMode) (d : Operand) (a : Operand) (b : Operand)
  /-- FCMP (R110). -/
  | fcmp (c : FCond) (pd : PredReg) (a : Operand) (b : Operand)
  /-- FCLASS (R111). -/
  | fclass (d : Operand) (a : Operand)
  /-- FABS (R112-R115). -/
  | fabs (d : Operand) (a : Operand)
  /-- FNEG (R112-R115). -/
  | fneg (d : Operand) (a : Operand)
  /-- FRCP (R112-R115). -/
  | frcp (d : Operand) (a : Operand)
  /-- FRSQ (R112-R115). -/
  | frsq (d : Operand) (a : Operand)
  /-- FSQRT (R112-R115). -/
  | fsqrt (d : Operand) (a : Operand)
  /-- FEXP2 (R112-R115). -/
  | fexp2 (d : Operand) (a : Operand)
  /-- FLOG2 (R112-R115). -/
  | flog2 (d : Operand) (a : Operand)
  /-- FSIN (R112-R115). -/
  | fsin (d : Operand) (a : Operand)
  /-- FCOS (R112-R115). -/
  | fcos (d : Operand) (a : Operand)
  /-- FTANH (R112-R115). -/
  | ftanh (d : Operand) (a : Operand)
  /-- FFRAC (R112-R115). -/
  | ffrac (d : Operand) (a : Operand)
  /-- FDIV (R116). -/
  | fdiv (r : Rnd) (d : Operand) (a : Operand) (b : Operand)
  /-- FROUND (R117). -/
  | fround (r : Rnd) (d : Operand) (a : Operand)
  /-- HADD2 (R118). -/
  | hadd2 (f : HFmt) (d : Operand) (a : Operand) (b : Operand)
  /-- HMUL2 (R118). -/
  | hmul2 (f : HFmt) (d : Operand) (a : Operand) (b : Operand)
  /-- HFMA2 (R118). -/
  | hfma2 (f : HFmt) (d : Operand) (a : Operand) (b : Operand)
  /-- HMIN2 (R118). -/
  | hmin2 (f : HFmt) (d : Operand) (a : Operand) (b : Operand)
  /-- HMAX2 (R118). -/
  | hmax2 (f : HFmt) (d : Operand) (a : Operand) (b : Operand)
  /-- FDP2 (R119). -/
  | fdp2 (f : HFmt) (d : Operand) (a : Operand) (b : Operand)
  /-- CVTF (R120). -/
  | cvtf (r : Rnd) (d : Operand) (a : Operand) (fm : CvtFmts)
  /-- F2I (R122). -/
  | f2i (c : IntCvt) (d : Operand) (a : Operand)
  /-- I2F (R123). -/
  | i2f (c : IntCvt) (d : Operand) (a : Operand)
  /-- PACK2 (R121). -/
  | pack2 (pm : PackMode) (d : Operand) (a : Operand) (b : Operand)
  /-- QCVT (R124). -/
  | qcvt (r : QRnd) (d : Operand) (a : Operand) (f : QFmt)
  /-- DQCVT (R125). -/
  | dqcvt (e : Elem) (d : Operand) (a : Operand) (f : QFmt)
  /-- MMA_ACC (R287). -/
  | mmaAcc (mc : MultiCast) (t : Tile) (a : Operand) (b : Operand)
  /-- MMA_SET (R287). -/
  | mmaSet (mc : MultiCast) (t : Tile) (a : Operand) (b : Operand)
  /-- MFMT (R288). -/
  | mfmt (a : Operand)
  /-- MCLR (R289). -/
  | mclr (t : Tile)
  /-- MLOAD (R289). -/
  | mload (t : Tile) (a : Operand)
  /-- MSEED (R289). -/
  | mseed (a : Operand)
  /-- MSTAT (R289). -/
  | mstat (d : Operand) (t : Tile)
  /-- MDRAIN (R291). -/
  | mdrain (t : Tile) (a : Operand)
  /-- MDRAIN_MROW (R292). -/
  | mdrainMrow (t : Tile) (a : Operand)
  /-- MTRQ (R293). -/
  | mtrq (a : Operand) (b : Operand)
  /-- QBIND (R264). -/
  | qbind (d : Operand) (ep : EnginePort)
  /-- QUNBIND (R265). -/
  | qunbind (d : Operand)
  /-- QCOUNT (R265). -/
  | qcount (d : Operand) (a : Operand)
  /-- QDRAIN (R265). -/
  | qdrain (d : Operand)
  /-- CPYL (R271). -/
  | cpyl (a : Operand)
  /-- CPYT (R271). -/
  | cpyt (a : Operand)
  /-- CPYM (R271). -/
  | cpym (a : Operand)
  /-- GATH (R275). -/
  | gath (a : Operand) (b : Operand)
  /-- SCAT (R276). -/
  | scat (d : Operand) (a : Operand) (b : Operand)
  /-- EMITV (R305). -/
  | emitv (d : Operand) (a : Operand)
  /-- EMITP (R306). -/
  | emitp (a : Operand) (b : Operand)
  /-- TLOAD (R319). -/
  | tload (d : Operand) (a : Operand)
  /-- TSTORE (R319). -/
  | tstore (d : Operand) (a : Operand)
  /-- VOTE_ALL (R157). -/
  | voteAll (pd : PredReg) (pa : PredReg)
  /-- VOTE_ANY (R157). -/
  | voteAny (pd : PredReg) (pa : PredReg)
  /-- VOTE_BALLOT (R157). -/
  | voteBallot (d : Operand) (pa : PredReg)
  /-- SHFL (R158). -/
  | shfl (sm : ShflMode) (d : Operand) (a : Operand) (b : Operand)
  /-- SCAN (R159). -/
  | scan (sm : ScanMode) (d : Operand) (a : Operand)
  /-- LRED (R160). -/
  | lred (o : ScanOp) (d : Operand) (a : Operand)
  /-- BCAST (R161). -/
  | bcast (d : Operand) (a : Operand) (b : Operand)
  /-- SPLITQ_LIVE (R162). -/
  | splitqLive (d : Operand)
  /-- SPLITQ_LOWEST (R162). -/
  | splitqLowest (d : Operand)
  /-- SPLITQ_COUNT (R162). -/
  | splitqCount (d : Operand)
  /-- REGROUP (R151-R153, R163). -/
  | regroup (id : BarId) (d : Operand) (fr : FirstReg) (n : RegCount)
  /-- BAR (R165). -/
  | bar (id : BarId)
  /-- CBAR (R167). -/
  | cbar (id : CbarId)
  /-- LAUNCH_G (R168). -/
  | launchG (a : Operand) (b : Operand)
  /-- LAUNCH_L (R168). -/
  | launchL (a : Operand) (b : Operand)
  /-- PHASEEND (R171). -/
  | phaseend (o : PhaseOp) (a : Operand)
  /-- LVL (R172). -/
  | lvl (lv : Level) (d : Operand)
  /-- LVL_EXT (R172). -/
  | lvlExt (lv : Level) (d : Operand)
  /-- PLACE_CL (R173). -/
  | placeCl (d : Operand) (a : Operand)
  /-- PLACE_DIE (R173). -/
  | placeDie (d : Operand) (a : Operand)
  /-- PLACE_RECT (R173). -/
  | placeRect (d : Operand) (a : Operand)
  /-- PLACE_FAB (R173). -/
  | placeFab (d : Operand) (a : Operand)
  /-- TEXS (R325). -/
  | texs (d : Operand) (a : Operand) (b : Operand)
  /-- TEXL (R325). -/
  | texl (d : Operand) (a : Operand) (b : Operand)
  /-- TEXF (R325). -/
  | texf (d : Operand) (a : Operand) (b : Operand)
  /-- TRACE (R340). -/
  | trace (a : Operand)
  /-- RESUME (R340). -/
  | resume (a : Operand) (b : Operand)
  /-- COMMIT (R340). -/
  | commit (a : Operand) (b : Operand)
  /-- RPALLOC (R343). -/
  | rpalloc (d : Operand)
  /-- RPFREE (R340). -/
  | rpfree (a : Operand)
  /-- MARCH (R345). -/
  | march (a : Operand)
  /-- HGFETCH (R348). -/
  | hgfetch (d : Operand) (a : Operand) (b : Operand)
  /-- STXT (R411). -/
  | stxt (d : Operand) (a : Operand) (b : Operand)
  /-- STXW (R412). -/
  | stxw (d : Operand) (a : Operand) (b : Operand)
  /-- TKWAIT (R419). -/
  | tkwait (a : Operand)
  /-- TKSTAT (R419). -/
  | tkstat (d : Operand) (a : Operand)
  /-- COLL (R422). -/
  | coll (o : CollOp) (a : Operand) (b : Operand)
  /-- COLL_PKG (R422). -/
  | collPkg (o : CollOp) (a : Operand) (b : Operand)
  /-- VBEGIN (R364). -/
  | vbegin (fr : FirstReg) (n : RegCount)
  /-- SRD (R376). -/
  | srd (d : Operand) (r : SrNum)
  /-- SWR (R376). -/
  | swr (d : Operand) (r : SrNum)
  /-- MAPPG (R378). -/
  | mappg (a : Operand) (b : Operand)
  /-- BKPT (R377). -/
  | bkpt (code : SrNum)
  /-- PIDX (R379). -/
  | pidx (d : Operand)
  /-- RESERVED_OPCODE (R34). -/
  | reservedOpcode (w : Word)
  /-- DEFERRED_SPLIT_START (R140). -/
  | deferredSplitStart
  /-- WATCHDOG_BUDGET (R144). -/
  | watchdogBudget
  /-- WATCHDOG_QUEUE (R145). -/
  | watchdogQueue
  /-- HEADER_YIELD (R143). -/
  | headerYield
  /-- ISSUE_STARVATION (R191). -/
  | issueStarvation
  /-- ISSUE_SELECT (R191). -/
  | issueSelect
  /-- BAR_RELEASE (R165). -/
  | barRelease
  /-- CBAR_RELEASE (R167). -/
  | cbarRelease
  /-- REGROUP_COMPLETE (R152). -/
  | regroupComplete
  /-- GROUP_END (R97). -/
  | groupEnd
  /-- COMPLETION_WRITE (R183). -/
  | completionWrite
  /-- CHILD_ACCEPT (R181). -/
  | childAccept
  /-- WORKGROUP_RESIDENT (R185). -/
  | workgroupResident
  /-- SCRATCH_DRAIN (R206). -/
  | scratchDrain
  /-- PREEMPT (R365). -/
  | preempt
  /-- RESTORE (R366). -/
  | restore
  /-- GRAPH_NODE_KERNEL (R193). -/
  | graphNodeKernel
  /-- GRAPH_KERNEL_DONE (R193). -/
  | graphKernelDone
  /-- GRAPH_NODE_COND (R193). -/
  | graphNodeCond
  /-- GRAPH_NODE_WHILE (R193). -/
  | graphNodeWhile
  /-- GRAPH_NODE_JOIN (R193). -/
  | graphNodeJoin
  /-- GRAPH_NODE_END (R193). -/
  | graphNodeEnd
  /-- LEASE_EXPIRY (R219). -/
  | leaseExpiry
  /-- POOLBASE_WRITE (R222). -/
  | poolbaseWrite
  /-- CPYCMD_COMMAND (R273). -/
  | cpycmdCommand
  /-- COPY_UNIT (R269). -/
  | copyUnit
  /-- ENGINE_FAULT (R268). -/
  | engineFault
  /-- GATHER_PUSH (R275). -/
  | gatherPush
  /-- MATRIX_EXECUTE (R285). -/
  | matrixExecute
  /-- MDRAIN_ROW (R291). -/
  | mdrainRow
  /-- SORT_SEND (R404). -/
  | sortSend
  /-- SQUARE_START (R312). -/
  | squareStart
  /-- BATCH_DISPATCH (R314). -/
  | batchDispatch
  /-- TNEXT_RELEASE (R320). -/
  | tnextRelease
  /-- TDONE_WRITEOUT (R321). -/
  | tdoneWriteout
  /-- RAY_SUSPEND (R336). -/
  | raySuspend
  /-- RAY_DONE (R334). -/
  | rayDone
  /-- RAY_FAULT (R342). -/
  | rayFault
  /-- RAY_ABANDON (R340). -/
  | rayAbandon
  /-- RAY_BATCH_PUSH (R338). -/
  | rayBatchPush
  /-- MARCH_BATCH (R347). -/
  | marchBatch
  /-- HANDLER_ENTRY (R354). -/
  | handlerEntry
  /-- FATAL_FAULT (R357). -/
  | fatalFault
  /-- TICKET_RESUME (R356). -/
  | ticketResume
  /-- TICKET_KILL (R356). -/
  | ticketKill
  /-- TICKET_END_CONTEXT (R356). -/
  | ticketEndContext
  /-- FREEZE (R373). -/
  | freeze
  /-- RD (R387). -/
  | rd
  /-- RDO (R398). -/
  | rdo
  /-- WR (R387). -/
  | wr
  /-- ATOM (R387). -/
  | atom
  /-- INV (R399). -/
  | inv
  /-- ACK (R398). -/
  | ack
  /-- DATA (R398). -/
  | data
  /-- FWD (R398). -/
  | fwd
  /-- WB (R387). -/
  | wb
  /-- NACK (R391). -/
  | nack
  /-- NACK_RESEND (R391). -/
  | nackResend
  /-- CTRL (R387). -/
  | ctrl
  /-- CONTROL_REGISTER_WRITE (R438). -/
  | controlRegisterWrite
  /-- ROUTE_WRITE (R388). -/
  | routeWrite
  /-- REGION_WRITE (R392). -/
  | regionWrite
  /-- RINGCTL_WRITE (R408). -/
  | ringctlWrite
  /-- PRIM (R309). -/
  | prim
  /-- CLOSE (R309). -/
  | close
  /-- DIRECTORY_MERGE (R397). -/
  | directoryMerge
  /-- MIGRATION_COMMAND (R402). -/
  | migrationCommand
  /-- MIGRATION_COPY (R402). -/
  | migrationCopy
  /-- MIGBASE_WRITE (R402). -/
  | migbaseWrite
  /-- TSTORE_PACKET (R414). -/
  | tstorePacket
  /-- WATCH (R414). -/
  | watch
  /-- RELEASE (R414). -/
  | release
  /-- FAIL (R414). -/
  | fail
  /-- POLL (R415). -/
  | poll
  /-- WATCH_REPOLL (R415). -/
  | watchRepoll
  /-- LANDED (R410). -/
  | landed
  /-- DENIED (R410). -/
  | denied
  /-- EXPIRED (R417). -/
  | expired
  /-- REFUSE (R416). -/
  | refuse
  /-- REFUSE_RESEND (R416). -/
  | refuseResend
  /-- TOKEN_HOLD_EXPIRY (R417). -/
  | tokenHoldExpiry
  /-- TOKEN_RETIRE (R410). -/
  | tokenRetire
  /-- COLL_TRANSFER (R423). -/
  | collTransfer
  /-- FABRIC_PACKET (R427). -/
  | fabricPacket
  /-- FLIT_DATA (R428). -/
  | flitData
  /-- FLIT_IDLE (R428). -/
  | flitIdle
  /-- FLIT_CTRL (R428). -/
  | flitCtrl
  /-- KEYMARK (R430). -/
  | keymark
  /-- LINK_DOWN (R431). -/
  | linkDown
  /-- HEARTBEAT (R439). -/
  | heartbeat
  /-- STANDBY_TAKEOVER (R439). -/
  | standbyTakeover
  /-- COLD_RESET (R441). -/
  | coldReset
  /-- WARM_RESET (R441). -/
  | warmReset
  /-- IDENTITY (R449). -/
  | mgmtIdentity
  /-- ATTEST (R442). -/
  | mgmtAttest
  /-- TELEMETRY (R449). -/
  | mgmtTelemetry
  /-- BLACKBOX (R450). -/
  | mgmtBlackbox
  /-- HALT (R449). -/
  | mgmtHalt
  /-- MGMT_RESUME (R449). -/
  | mgmtResume
  /-- SAVEREAD (R449). -/
  | mgmtSaveread
  /-- WARMRESET (R449). -/
  | mgmtWarmreset
  /-- COLDRESET (R449). -/
  | mgmtColdreset
  /-- SELECT_WRITE (R444). -/
  | selectWrite
  /-- STEP_ENTRY_WRITE (R444). -/
  | stepEntryWrite
  /-- CLOCK_REF_LOSS (R445). -/
  | clockRefLoss
  /-- FALLBACK_CLEAR (R445). -/
  | fallbackClear
  /-- DROOP_STRETCH (R446). -/
  | droopStretch
  /-- THERMAL_TRIP (R447). -/
  | thermalTrip
  /-- PATROL_SCRUB (R443). -/
  | patrolScrub
  /-- NOP (R82). -/
  | nop
  /-- YIELD (R99). -/
  | yield
  /-- EMITEND (R308). -/
  | emitend
  /-- TNEXT (R320). -/
  | tnext
  /-- TDONE (R321). -/
  | tdone
  /-- VEND (R364). -/
  | vend
  /-- RFT (R356). -/
  | rft
  /-- KILL (R377). -/
  | kill
  /-- HALTALL (R375). -/
  | haltall
  /-- TKWAIT_HOLD_EXPIRY (R419). -/
  | tkwaitHoldExpiry
  /-- CLOCK_REF_RETURN (R445). -/
  | clockRefReturn
  /-- LINK_UP (R427). -/
  | linkUp
  deriving DecidableEq, Repr

end Sys2Proof
end

