-- ==== Sys2Proof/WellFormed.lean ====
section
/-! DEFINITION. Which instructions are well-formed: the kinds of operand fields (R30) and the further operand rules (R31, R37). -/

namespace Sys2Proof

/-- The kind of an operand field (R30, R37). `vd` and `v4d`, `v4s` are R34's "v only" fields; `quadD`, `quadS` are the
N128 data fields of R102; `s4` is the first of four scalars. -/
inductive Kind where
  | dst | src | dst64 | src64 | dread | dread64 | pair | pairS | pairV | s | s4 | sd | q | vd | v4d | v4s | quadD | quadS
  deriving DecidableEq, Repr

def Kind.dstW (w64 : Bool) : Kind := if w64 then .dst64 else .dst
def Kind.srcW (w64 : Bool) : Kind := if w64 then .src64 else .src
def Kind.dreadW (w64 : Bool) : Kind := if w64 then .dread64 else .dread

/-- The destination field of a load of a width (R102). -/
def LWidth.dstKind : LWidth → Kind
  | .n64 => .dst64
  | .n128 => .quadD
  | _ => .dst
/-- The data field of a store of a width (R102). -/
def SWidth.srcKind : SWidth → Kind
  | .n64 => .src64
  | .n128 => .quadS
  | _ => .src

/-- The codes a kind allows (R30, R31, R37, R102). -/
def Kind.allows (k : Kind) (o : Operand) : Bool :=
  match k with
  | .dst => match o with
    | .v _ | .s _ | .zero | .q _ => true
    | _ => false
  | .src => true
  | .dst64 => match o with
    | .v n => n.val % 2 = 0
    | .s n => n.val % 2 = 0
    | .zero => true
    | _ => false
  | .src64 => match o with
    | .v n => n.val % 2 = 0
    | .s n => n.val % 2 = 0
    | .q _ => false
    | _ => true
  | .dread => match o with
    | .v _ | .s _ | .zero => true
    | _ => false
  | .dread64 => match o with
    | .v n => n.val % 2 = 0
    | .s n => n.val % 2 = 0
    | .zero => true
    | _ => false
  | .pair => match o with
    | .v n => n.val % 2 = 0
    | .s n => n.val % 2 = 0
    | _ => false
  | .pairS => match o with
    | .s n => n.val % 2 = 0
    | _ => false
  | .pairV => match o with
    | .v n => n.val % 2 = 0
    | _ => false
  | .s => match o with
    | .s _ => true
    | _ => false
  | .s4 => match o with
    | .s n => n.val ≤ 12
    | _ => false
  | .sd => match o with
    | .s _ | .zero => true
    | _ => false
  | .q => match o with
    | .q _ => true
    | _ => false
  | .vd => match o with
    | .v _ => true
    | _ => false
  | .v4d | .v4s => match o with
    | .v n => n.val % 4 = 0
    | _ => false
  | .quadD | .quadS => match o with
    | .v n => n.val % 4 = 0
    | .s n => n.val % 4 = 0
    | .zero => true
    | _ => false

/-- Fields that are written. -/
def Kind.isDst : Kind → Bool
  | .dst | .dst64 | .dread | .dread64 | .sd | .vd | .v4d | .quadD => true
  | _ => false

/-- Fields that are only read. -/
def Kind.isSrc : Kind → Bool
  | .src | .src64 | .pair | .pairS | .pairV | .s | .s4 | .v4s | .quadS => true
  | _ => false

/-- The number of consecutive registers a field of a kind names (R30, R37). -/
def Kind.width : Kind → Nat
  | .dst64 | .src64 | .dread64 | .pair | .pairS | .pairV => 2
  | .s4 | .v4d | .v4s | .quadD | .quadS => 4
  | _ => 1

/-- The instructions of R34: the rows with an encoding, the clause header apart. -/
def Instr.isInstruction (i : Instr) : Bool :=
  match i with
  | .mov .. => true
  | .sel .. => true
  | .iadd .. => true
  | .isub .. => true
  | .imul .. => true
  | .imulh .. => true
  | .imad .. => true
  | .idiv .. => true
  | .irem .. => true
  | .imin .. => true
  | .imax .. => true
  | .icmp .. => true
  | .lea .. => true
  | .land .. => true
  | .lor .. => true
  | .lxor .. => true
  | .landn .. => true
  | .shl .. => true
  | .shr .. => true
  | .sar .. => true
  | .rotl .. => true
  | .bfe .. => true
  | .bfi .. => true
  | .popc .. => true
  | .clz .. => true
  | .ctz .. => true
  | .brev .. => true
  | .bswap .. => true
  | .perm .. => true
  | .plop .. => true
  | .idp4 .. => true
  | .window .. => true
  | .rdcntCycle .. => true
  | .rdcntTime .. => true
  | .rdcntClauses .. => true
  | .rdcntPath .. => true
  | .br .. => true
  | .jmpr .. => true
  | .call .. => true
  | .ret .. => true
  | .exit .. => true
  | .joinat .. => true
  | .trap .. => true
  | .ld .. => true
  | .st .. => true
  | .ldl .. => true
  | .stl .. => true
  | .lds .. => true
  | .sts .. => true
  | .ldc .. => true
  | .stc .. => true
  | .ldd .. => true
  | .std .. => true
  | .ldb .. => true
  | .stb .. => true
  | .atoms .. => true
  | .atomg .. => true
  | .redg .. => true
  | .atomc .. => true
  | .fence .. => true
  | .pfence .. => true
  | .waitp .. => true
  | .waitmem .. => true
  | .btset .. => true
  | .tagset .. => true
  | .tagget .. => true
  | .tagptr .. => true
  | .pref .. => true
  | .fadd .. => true
  | .fsub .. => true
  | .fmul .. => true
  | .ffma .. => true
  | .fmin .. => true
  | .fmax .. => true
  | .fcmp .. => true
  | .fclass .. => true
  | .fabs .. => true
  | .fneg .. => true
  | .frcp .. => true
  | .frsq .. => true
  | .fsqrt .. => true
  | .fexp2 .. => true
  | .flog2 .. => true
  | .fsin .. => true
  | .fcos .. => true
  | .ftanh .. => true
  | .ffrac .. => true
  | .fdiv .. => true
  | .fround .. => true
  | .hadd2 .. => true
  | .hmul2 .. => true
  | .hfma2 .. => true
  | .hmin2 .. => true
  | .hmax2 .. => true
  | .fdp2 .. => true
  | .cvtf .. => true
  | .f2i .. => true
  | .i2f .. => true
  | .pack2 .. => true
  | .qcvt .. => true
  | .dqcvt .. => true
  | .mmaAcc .. => true
  | .mmaSet .. => true
  | .mfmt .. => true
  | .mclr .. => true
  | .mload .. => true
  | .mseed .. => true
  | .mstat .. => true
  | .mdrain .. => true
  | .mdrainMrow .. => true
  | .mtrq .. => true
  | .qbind .. => true
  | .qunbind .. => true
  | .qcount .. => true
  | .qdrain .. => true
  | .cpyl .. => true
  | .cpyt .. => true
  | .cpym .. => true
  | .gath .. => true
  | .scat .. => true
  | .emitv .. => true
  | .emitp .. => true
  | .tload .. => true
  | .tstore .. => true
  | .voteAll .. => true
  | .voteAny .. => true
  | .voteBallot .. => true
  | .shfl .. => true
  | .scan .. => true
  | .lred .. => true
  | .bcast .. => true
  | .splitqLive .. => true
  | .splitqLowest .. => true
  | .splitqCount .. => true
  | .regroup .. => true
  | .bar .. => true
  | .cbar .. => true
  | .launchG .. => true
  | .launchL .. => true
  | .phaseend .. => true
  | .lvl .. => true
  | .lvlExt .. => true
  | .placeCl .. => true
  | .placeDie .. => true
  | .placeRect .. => true
  | .placeFab .. => true
  | .texs .. => true
  | .texl .. => true
  | .texf .. => true
  | .trace .. => true
  | .resume .. => true
  | .commit .. => true
  | .rpalloc .. => true
  | .rpfree .. => true
  | .march .. => true
  | .hgfetch .. => true
  | .stxt .. => true
  | .stxw .. => true
  | .tkwait .. => true
  | .tkstat .. => true
  | .coll .. => true
  | .collPkg .. => true
  | .vbegin .. => true
  | .srd .. => true
  | .swr .. => true
  | .mappg .. => true
  | .bkpt .. => true
  | .pidx .. => true
  | .nop => true
  | .yield => true
  | .emitend => true
  | .tnext => true
  | .tdone => true
  | .vend => true
  | .rft => true
  | .kill => true
  | .haltall => true
  | _ => false

/-- The operand fields of an instruction, each with its kind (R30, R34). Raw immediates are typed and not listed. -/
def Instr.fields (i : Instr) : List (Kind × Operand) :=
  match i with
  | .clauseHeader _ => []
  | .longLatencyComplete _ _ => []
  | .pathCompletion _ _ => []
  | .watchdogMemwait _ _ => []
  | .waitmemWake _ _ => []
  | .waitmemRecheck _ _ => []
  | .mov w d a => [((Kind.dstW w.is64), d), ((Kind.srcW w.is64), a)]
  | .sel _ d a b => [(.dst, d), (.src, a), (.src, b)]
  | .iadd t d a b => [((Kind.dstW t.is64), d), ((Kind.srcW t.is64), a), ((Kind.srcW t.is64), b)]
  | .isub t d a b => [((Kind.dstW t.is64), d), ((Kind.srcW t.is64), a), ((Kind.srcW t.is64), b)]
  | .imul t d a b => [((Kind.dstW t.is64), d), ((Kind.srcW t.is64), a), ((Kind.srcW t.is64), b)]
  | .imulh t d a b => [((Kind.dstW t.is64), d), ((Kind.srcW t.is64), a), ((Kind.srcW t.is64), b)]
  | .imad t d a b => [((Kind.dreadW t.is64), d), ((Kind.srcW t.is64), a), ((Kind.srcW t.is64), b)]
  | .idiv t d a b => [((Kind.dstW t.is64), d), ((Kind.srcW t.is64), a), ((Kind.srcW t.is64), b)]
  | .irem t d a b => [((Kind.dstW t.is64), d), ((Kind.srcW t.is64), a), ((Kind.srcW t.is64), b)]
  | .imin t d a b => [((Kind.dstW t.is64), d), ((Kind.srcW t.is64), a), ((Kind.srcW t.is64), b)]
  | .imax t d a b => [((Kind.dstW t.is64), d), ((Kind.srcW t.is64), a), ((Kind.srcW t.is64), b)]
  | .icmp c _ a b => [((Kind.srcW c.is64), a), ((Kind.srcW c.is64), b)]
  | .lea _ d a b => [(.dst64, d), (.pair, a), (.src, b)]
  | .land w d a b => [((Kind.dstW w.is64), d), ((Kind.srcW w.is64), a), ((Kind.srcW w.is64), b)]
  | .lor w d a b => [((Kind.dstW w.is64), d), ((Kind.srcW w.is64), a), ((Kind.srcW w.is64), b)]
  | .lxor w d a b => [((Kind.dstW w.is64), d), ((Kind.srcW w.is64), a), ((Kind.srcW w.is64), b)]
  | .landn w d a b => [((Kind.dstW w.is64), d), ((Kind.srcW w.is64), a), ((Kind.srcW w.is64), b)]
  | .shl w d a b => [((Kind.dstW w.is64), d), ((Kind.srcW w.is64), a), ((Kind.srcW w.is64), b)]
  | .shr w d a b => [((Kind.dstW w.is64), d), ((Kind.srcW w.is64), a), ((Kind.srcW w.is64), b)]
  | .sar w d a b => [((Kind.dstW w.is64), d), ((Kind.srcW w.is64), a), ((Kind.srcW w.is64), b)]
  | .rotl w d a b => [((Kind.dstW w.is64), d), ((Kind.srcW w.is64), a), ((Kind.srcW w.is64), b)]
  | .bfe _ d a b => [(.dst, d), (.src, a), (.src, b)]
  | .bfi d a b => [(.dread, d), (.src, a), (.src, b)]
  | .popc d a => [(.dst, d), (.src, a)]
  | .clz d a => [(.dst, d), (.src, a)]
  | .ctz d a => [(.dst, d), (.src, a)]
  | .brev d a => [(.dst, d), (.src, a)]
  | .bswap d a => [(.dst, d), (.src, a)]
  | .perm d a b => [(.dst, d), (.src, a), (.src, b)]
  | .plop _ _ _ _ => []
  | .idp4 _ d a b => [(.dread, d), (.src, a), (.src, b)]
  | .window a => [(.src, a)]
  | .rdcntCycle d => [(.dst64, d)]
  | .rdcntTime d => [(.dst64, d)]
  | .rdcntClauses d => [(.dst64, d)]
  | .rdcntPath d a => [(.dst, d), (.src, a)]
  | .br _ _ => []
  | .jmpr _ a => [(.pair, a)]
  | .call _ _ => []
  | .ret _ => []
  | .exit _ => []
  | .joinat _ => []
  | .trap a => [(.src, a)]
  | .ld w d a b => [(w.dstKind, d), (.pair, a), (.src, b)]
  | .st w d a b => [(w.srcKind, d), (.pair, a), (.src, b)]
  | .ldl w d a b => [(w.dstKind, d), (.src, a), (.src, b)]
  | .stl w d a b => [(w.srcKind, d), (.src, a), (.src, b)]
  | .lds w d a b => [(w.dstKind, d), (.src, a), (.src, b)]
  | .sts w d a b => [(w.srcKind, d), (.src, a), (.src, b)]
  | .ldc w d a b => [(w.dstKind, d), (.src, a), (.src, b)]
  | .stc w d a b => [(w.srcKind, d), (.src, a), (.src, b)]
  | .ldd w d a b => [(w.dstKind, d), (.src, a), (.src, b)]
  | .std w d a b => [(w.srcKind, d), (.src, a), (.src, b)]
  | .ldb w d _ b => [(w.dstKind, d), (.src, b)]
  | .stb w d _ b => [(w.srcKind, d), (.src, b)]
  | .atoms _ d a b => [(.dread, d), (.src, a), (.src, b)]
  | .atomg _ d a b => [(.dread, d), (.pair, a), (.src, b)]
  | .redg _ d a => [(.src, d), (.pair, a)]
  | .atomc _ d a b => [(.dread, d), (.src, a), (.src, b)]
  | .fence _ _ => []
  | .pfence _ _ => []
  | .waitp _ b => [(.src, b)]
  | .waitmem _ a b => [(.pair, a), (.src, b)]
  | .btset _ a b => [(.pairS, a), (.src, b)]
  | .tagset d a => [(.src, d), (.pair, a)]
  | .tagget d a => [(.dst, d), (.pair, a)]
  | .tagptr d a b => [(.dst64, d), (.pair, a), (.src, b)]
  | .pref _ a b => [(.pair, a), (.src, b)]
  | .fadd _ d a b => [(.dst, d), (.src, a), (.src, b)]
  | .fsub _ d a b => [(.dst, d), (.src, a), (.src, b)]
  | .fmul _ d a b => [(.dst, d), (.src, a), (.src, b)]
  | .ffma _ d a b => [(.dread, d), (.src, a), (.src, b)]
  | .fmin _ d a b => [(.dst, d), (.src, a), (.src, b)]
  | .fmax _ d a b => [(.dst, d), (.src, a), (.src, b)]
  | .fcmp _ _ a b => [(.src, a), (.src, b)]
  | .fclass d a => [(.dst, d), (.src, a)]
  | .fabs d a => [(.dst, d), (.src, a)]
  | .fneg d a => [(.dst, d), (.src, a)]
  | .frcp d a => [(.dst, d), (.src, a)]
  | .frsq d a => [(.dst, d), (.src, a)]
  | .fsqrt d a => [(.dst, d), (.src, a)]
  | .fexp2 d a => [(.dst, d), (.src, a)]
  | .flog2 d a => [(.dst, d), (.src, a)]
  | .fsin d a => [(.dst, d), (.src, a)]
  | .fcos d a => [(.dst, d), (.src, a)]
  | .ftanh d a => [(.dst, d), (.src, a)]
  | .ffrac d a => [(.dst, d), (.src, a)]
  | .fdiv _ d a b => [(.dst, d), (.src, a), (.src, b)]
  | .fround _ d a => [(.dst, d), (.src, a)]
  | .hadd2 _ d a b => [(.dst, d), (.src, a), (.src, b)]
  | .hmul2 _ d a b => [(.dst, d), (.src, a), (.src, b)]
  | .hfma2 _ d a b => [(.dread, d), (.src, a), (.src, b)]
  | .hmin2 _ d a b => [(.dst, d), (.src, a), (.src, b)]
  | .hmax2 _ d a b => [(.dst, d), (.src, a), (.src, b)]
  | .fdp2 _ d a b => [(.dread, d), (.src, a), (.src, b)]
  | .cvtf _ d a _ => [(.dst, d), (.src, a)]
  | .f2i c d a => [((Kind.dstW c.is64), d), (.src, a)]
  | .i2f c d a => [(.dst, d), ((Kind.srcW c.is64), a)]
  | .pack2 _ d a b => [(.dst, d), (.src, a), (.src, b)]
  | .qcvt _ d a _ => [(.dst, d), (.src, a)]
  | .dqcvt _ d a _ => [(.dst, d), (.src, a)]
  | .mmaAcc _ _ a b => [(.s, a), (.s, b)]
  | .mmaSet _ _ a b => [(.s, a), (.s, b)]
  | .mfmt a => [(.s, a)]
  | .mclr _ => []
  | .mload _ a => [(.s, a)]
  | .mseed a => [(.pairS, a)]
  | .mstat d _ => [(.sd, d)]
  | .mdrain _ a => [(.s, a)]
  | .mdrainMrow _ a => [(.s, a)]
  | .mtrq a b => [(.s, a), (.s, b)]
  | .qbind d _ => [(.q, d)]
  | .qunbind d => [(.q, d)]
  | .qcount d a => [(.sd, d), (.q, a)]
  | .qdrain d => [(.q, d)]
  | .cpyl a => [(.s4, a)]
  | .cpyt a => [(.s4, a)]
  | .cpym a => [(.s4, a)]
  | .gath a b => [(.pairV, a), (.src, b)]
  | .scat d a b => [(.src, d), (.pairV, a), (.src, b)]
  | .emitv d a => [(.v4s, d), (.src, a)]
  | .emitp a b => [(.src, a), (.src, b)]
  | .tload d a => [(.dst, d), (.src, a)]
  | .tstore d a => [(.src, d), (.src, a)]
  | .voteAll _ _ => []
  | .voteAny _ _ => []
  | .voteBallot d _ => [(.sd, d)]
  | .shfl _ d a b => [(.dst, d), (.src, a), (.src, b)]
  | .scan _ d a => [(.dst, d), (.src, a)]
  | .lred _ d a => [(.sd, d), (.src, a)]
  | .bcast d a b => [(.dst, d), (.src, a), (.src, b)]
  | .splitqLive d => [(.sd, d)]
  | .splitqLowest d => [(.sd, d)]
  | .splitqCount d => [(.sd, d)]
  | .regroup _ d _ _ => [(.vd, d)]
  | .bar _ => []
  | .cbar _ => []
  | .launchG a b => [(.pair, a), (.src, b)]
  | .launchL a b => [(.pair, a), (.src, b)]
  | .phaseend _ a => [(.src, a)]
  | .lvl _ d => [(.dst, d)]
  | .lvlExt _ d => [(.dst, d)]
  | .placeCl d a => [(.dst64, d), (.src, a)]
  | .placeDie d a => [(.dst64, d), (.src, a)]
  | .placeRect d a => [(.dst64, d), (.src, a)]
  | .placeFab d a => [(.dst64, d), (.src, a)]
  | .texs d a b => [(.v4d, d), (.pairV, a), (.s, b)]
  | .texl d a b => [(.v4d, d), (.pairV, a), (.s, b)]
  | .texf d a b => [(.v4d, d), (.pairV, a), (.s, b)]
  | .trace a => [(.src, a)]
  | .resume a b => [(.src, a), (.src, b)]
  | .commit a b => [(.src, a), (.src, b)]
  | .rpalloc d => [(.dst, d)]
  | .rpfree a => [(.src, a)]
  | .march a => [(.s, a)]
  | .hgfetch d a b => [(.dst, d), (.src, a), (.s, b)]
  | .stxt d a b => [(.sd, d), (.pair, a), (.src, b)]
  | .stxw d a b => [(.src, d), (.pair, a), (.src, b)]
  | .tkwait a => [(.src, a)]
  | .tkstat d a => [(.dst, d), (.src, a)]
  | .coll _ a b => [(.s4, a), (.src, b)]
  | .collPkg _ a b => [(.s4, a), (.src, b)]
  | .vbegin _ _ => []
  | .srd d _ => [(.dst, d)]
  | .swr d _ => [(.src, d)]
  | .mappg a b => [(.pair, a), (.src, b)]
  | .bkpt _ => []
  | .pidx d => [(.dst, d)]
  | .reservedOpcode _ => []
  | .deferredSplitStart => []
  | .watchdogBudget => []
  | .watchdogQueue => []
  | .headerYield => []
  | .issueStarvation => []
  | .issueSelect => []
  | .barRelease => []
  | .cbarRelease => []
  | .regroupComplete => []
  | .groupEnd => []
  | .completionWrite => []
  | .childAccept => []
  | .workgroupResident => []
  | .scratchDrain => []
  | .preempt => []
  | .restore => []
  | .graphNodeKernel => []
  | .graphKernelDone => []
  | .graphNodeCond => []
  | .graphNodeWhile => []
  | .graphNodeJoin => []
  | .graphNodeEnd => []
  | .leaseExpiry => []
  | .poolbaseWrite => []
  | .cpycmdCommand => []
  | .copyUnit => []
  | .engineFault => []
  | .gatherPush => []
  | .matrixExecute => []
  | .mdrainRow => []
  | .sortSend => []
  | .squareStart => []
  | .batchDispatch => []
  | .tnextRelease => []
  | .tdoneWriteout => []
  | .raySuspend => []
  | .rayDone => []
  | .rayFault => []
  | .rayAbandon => []
  | .rayBatchPush => []
  | .marchBatch => []
  | .handlerEntry => []
  | .fatalFault => []
  | .ticketResume => []
  | .ticketKill => []
  | .ticketEndContext => []
  | .freeze => []
  | .rd => []
  | .rdo => []
  | .wr => []
  | .atom => []
  | .inv => []
  | .ack => []
  | .data => []
  | .fwd => []
  | .wb => []
  | .nack => []
  | .nackResend => []
  | .ctrl => []
  | .controlRegisterWrite => []
  | .routeWrite => []
  | .regionWrite => []
  | .ringctlWrite => []
  | .prim => []
  | .close => []
  | .directoryMerge => []
  | .migrationCommand => []
  | .migrationCopy => []
  | .migbaseWrite => []
  | .tstorePacket => []
  | .watch => []
  | .release => []
  | .fail => []
  | .poll => []
  | .watchRepoll => []
  | .landed => []
  | .denied => []
  | .expired => []
  | .refuse => []
  | .refuseResend => []
  | .tokenHoldExpiry => []
  | .tokenRetire => []
  | .collTransfer => []
  | .fabricPacket => []
  | .flitData => []
  | .flitIdle => []
  | .flitCtrl => []
  | .keymark => []
  | .linkDown => []
  | .heartbeat => []
  | .standbyTakeover => []
  | .coldReset => []
  | .warmReset => []
  | .mgmtIdentity => []
  | .mgmtAttest => []
  | .mgmtTelemetry => []
  | .mgmtBlackbox => []
  | .mgmtHalt => []
  | .mgmtResume => []
  | .mgmtSaveread => []
  | .mgmtWarmreset => []
  | .mgmtColdreset => []
  | .selectWrite => []
  | .stepEntryWrite => []
  | .clockRefLoss => []
  | .fallbackClear => []
  | .droopStretch => []
  | .thermalTrip => []
  | .patrolScrub => []
  | .nop => []
  | .yield => []
  | .emitend => []
  | .tnext => []
  | .tdone => []
  | .vend => []
  | .rft => []
  | .kill => []
  | .haltall => []
  | .tkwaitHoldExpiry => []
  | .clockRefReturn => []
  | .linkUp => []

def Operand.isLit (o : Operand) : Bool := o = .lit

def Operand.isPort : Operand → Bool
  | .q _ => true
  | _ => false

/-- The port an operand names. -/
def Operand.port? : Operand → Option (Fin 8)
  | .q n => some n
  | _ => none

def Operand.isScalarReg : Operand → Bool
  | .s _ => true
  | _ => false

/-- The sources a scalar destination allows (R31): scalar registers, GRPX, WB, MASK, ZERO and LIT. -/
def Operand.scalarSource : Operand → Bool
  | .s _ | .grpx | .wb | .mask | .zero | .lit => true
  | _ => false

/-- An instruction names LIT in at most one field (R31). -/
def Instr.litCount (i : Instr) : Nat := (i.fields.filter fun f => f.2.isLit).length

/-- The instruction takes the next word as its literal (R11). -/
def Instr.usesLit (i : Instr) : Bool := i.fields.any fun f => f.2.isLit

/-- The ports an instruction names, in the order of its fields. -/
def Instr.ports (i : Instr) : List (Fin 8) := i.fields.filterMap fun f => f.2.port?

/-- No port appears in two fields; different ports may stand in different fields (R31, R40; log 46). -/
def Instr.portsOnce (i : Instr) : Bool := decide i.ports.Nodup

/-- Some destination is a scalar register, so the instruction runs on the scalar pipe (R31, R81). -/
def Instr.scalarDst (i : Instr) : Bool := i.fields.any fun f => f.1.isDst && f.2.isScalarReg

/-- The instructions whose sources stay vectors under a scalar destination (R31). VOTE and SPLITQ have no src field. -/
def Instr.scalarRuleExempt : Instr → Bool
  | .lred .. | .bcast .. | .stxt .. => true
  | _ => false

/-- R31's rule on the sources under a scalar destination. -/
def Instr.scalarRule (i : Instr) : Bool :=
  !i.scalarDst || i.scalarRuleExempt || i.fields.all fun f => !f.1.isSrc || f.2.scalarSource

/-- p7 inverted is the reserved pred code 15 (R38). -/
def XferPred.ok (p : XferPred) : Bool := !(p.p.val = 7 && p.inv)

/-- The largest element index DQCVT accepts for a format (R34). -/
def QFmt.maxElem : QFmt → Nat
  | .e4m3 | .e5m2 | .int8 => 3
  | .e2m1 | .int4 => 7
  | .lg6 => 4

/-- Checks on modifiers and raw immediates that no type carries (R28, R34, R38, R90, R163, R364). -/
def Instr.immOk : Instr → Bool
  | .clauseHeader h => !(12 ≤ h.setx.val && h.setx.val ≤ 14) && !(12 ≤ h.sety.val && h.sety.val ≤ 14)
  | .br p _ | .call p _ | .ret p | .exit p => p.ok
  | .jmpr p _ => p.ok
  | .plop o _ _ pb => !(o = .not || o = .copy) || pb.val = 7
  | .dqcvt e _ _ f => e.val ≤ f.maxElem
  | .regroup _ _ fr n => 1 ≤ n.val && fr.val + n.val ≤ 96
  | .vbegin fr n => 1 ≤ n.val && fr.val + n.val ≤ 96
  | _ => true

/-- Steps that have a word: the clause header and the instructions of R34. -/
def Instr.hasWord (i : Instr) : Bool :=
  match i with
  | .clauseHeader _ => true
  | i => i.isInstruction

/-- A well-formed instruction: every operand within its field's kind, at most one LIT, no port twice, the rule of scalar
destinations, and every immediate in range. -/
def Instr.wf (i : Instr) : Bool :=
  i.immOk && i.fields.all (fun f => f.1.allows f.2) && decide (i.litCount ≤ 1) && i.portsOnce && i.scalarRule

end Sys2Proof
end

