-- ==== Sys2Proof/Decode.lean ====
section
/-! DEFINITION. The decoder (R27–R41), the encoder written from the same tables, and the classes of R34. -/

namespace Sys2Proof

/-- The value of a modifier or immediate code held by a bounded number. -/
def finCode? (n k : Nat) : Option (Fin n) := if h : k < n then some ⟨k, h⟩ else none

/-- The operand an operand code names (R29). -/
def Operand.ofCode? (k : Nat) : Option Operand :=
  if h : k < 96 then some (.v ⟨k, h⟩)
  else if h : k - 96 < 16 then some (.s ⟨k - 96, h⟩)
  else if k = 112 then some .zero
  else if k = 113 then some .lane
  else if k = 114 then some .grpx
  else if k = 115 then some .wb
  else if k = 116 then some .mask
  else if k = 117 then some .tidx
  else if k = 118 then some .lit
  else if k = 119 then none
  else if h : k - 120 < 8 then some (.q ⟨k - 120, h⟩)
  else none

/-- The code of an operand (R29). -/
def Operand.code : Operand → Nat
  | .v n => n.val
  | .s n => 96 + n.val
  | .zero => 112
  | .lane => 113
  | .grpx => 114
  | .wb => 115
  | .mask => 116
  | .tidx => 117
  | .lit => 118
  | .q n => 120 + n.val

def PredReg.ofCode? (k : Nat) : Option PredReg := finCode? 8 k
def PredReg.code (p : PredReg) : Nat := p.val
def BtSlot.ofCode? (k : Nat) : Option BtSlot := finCode? 8 k
def BtSlot.code (p : BtSlot) : Nat := p.val
def PathNo.ofCode? (k : Nat) : Option PathNo := finCode? 11 k
def PathNo.code (p : PathNo) : Nat := p.val
def Tile.ofCode? (k : Nat) : Option Tile := finCode? 64 k
def Tile.code (p : Tile) : Nat := p.val
def FirstReg.ofCode? (k : Nat) : Option FirstReg := finCode? 96 k
def FirstReg.code (p : FirstReg) : Nat := p.val
def RegCount.ofCode? (k : Nat) : Option RegCount := finCode? 97 k
def RegCount.code (p : RegCount) : Nat := p.val
def SrNum.ofCode? (k : Nat) : Option SrNum := finCode? 128 k
def SrNum.code (p : SrNum) : Nat := p.val
def Level.ofCode? (k : Nat) : Option Level := finCode? 8 k
def Level.code (p : Level) : Nat := p.val
def BarId.ofCode? (k : Nat) : Option BarId := finCode? 16 k
def BarId.code (p : BarId) : Nat := p.val
def CbarId.ofCode? (k : Nat) : Option CbarId := finCode? 4 k
def CbarId.code (p : CbarId) : Nat := p.val
def Shift.ofCode? (k : Nat) : Option Shift := finCode? 16 k
def Shift.code (p : Shift) : Nat := p.val
def Elem.ofCode? (k : Nat) : Option Elem := finCode? 8 k
def Elem.code (p : Elem) : Nat := p.val

def Wide.ofCode? : Nat → Option Wide
  | 0 => some .w32 | 1 => some .w64 | _ => none
def Wide.code : Wide → Nat
  | .w32 => 0 | .w64 => 1
def Sgn.ofCode? : Nat → Option Sgn
  | 0 => some .uns | 1 => some .sgn | _ => none
def Sgn.code : Sgn → Nat
  | .uns => 0 | .sgn => 1
def IType.ofCode? : Nat → Option IType
  | 0 => some .i32 | 1 => some .n32 | 2 => some .i64 | 3 => some .n64 | _ => none
def IType.code : IType → Nat
  | .i32 => 0 | .n32 => 1 | .i64 => 2 | .n64 => 3
def AType.ofCode? : Nat → Option AType
  | 0 => some .i32 | 1 => some .n32 | 2 => some .i64 | 3 => some .n64 | 4 => some .i32sat | 5 => some .n32sat | _ => none
def AType.code : AType → Nat
  | .i32 => 0 | .n32 => 1 | .i64 => 2 | .n64 => 3 | .i32sat => 4 | .n32sat => 5
def Rel.ofCode? : Nat → Option Rel
  | 0 => some .eq | 1 => some .ne | 2 => some .lt | 3 => some .le | _ => none
def Rel.code : Rel → Nat
  | .eq => 0 | .ne => 1 | .lt => 2 | .le => 3
def Rnd.ofCode? : Nat → Option Rnd
  | 0 => some .rne | 1 => some .rtz | 2 => some .rdn | 3 => some .rup | _ => none
def Rnd.code : Rnd → Nat
  | .rne => 0 | .rtz => 1 | .rdn => 2 | .rup => 3
def QRnd.ofCode? : Nat → Option QRnd
  | 0 => some .rne | 1 => some .rtz | 2 => some .rdn | 3 => some .rup | 4 => some .rsr | _ => none
def QRnd.code : QRnd → Nat
  | .rne => 0 | .rtz => 1 | .rdn => 2 | .rup => 3 | .rsr => 4
/-- ICMP's m: [1:0] relation, [2] unsigned, [3] 64-bit (R38). -/
def ICond.ofCode? (m : Nat) : Option ICond :=
  if m < 16 then (Rel.ofCode? (m % 4)).map fun r => ⟨r, m / 4 % 2 = 1, m / 8 = 1⟩ else none
def ICond.code (c : ICond) : Nat := c.rel.code + 4 * c.uns.toNat + 8 * c.w64.toNat
/-- [2:0] predicate, [3] invert (R82). -/
def PredSel.ofCode? (m : Nat) : Option PredSel :=
  if m < 16 then (finCode? 8 (m % 8)).map fun p => ⟨p, m / 8 = 1⟩ else none
def PredSel.code (p : PredSel) : Nat := p.p.val + 8 * p.inv.toNat
/-- [2:0] predicate, [3] invert; 15 is reserved (R38). -/
def XferPred.ofCode? (m : Nat) : Option XferPred :=
  if m < 15 then (finCode? 8 (m % 8)).map fun p => ⟨p, m / 8 = 1⟩ else none
def XferPred.code (p : XferPred) : Nat := p.p.val + 8 * p.inv.toNat
def PlopOp.ofCode? : Nat → Option PlopOp
  | 0 => some .and | 1 => some .or | 2 => some .xor | 3 => some .andn | 4 => some .orn | 5 => some .not | 6 => some .copy
  | _ => none
def PlopOp.code : PlopOp → Nat
  | .and => 0 | .or => 1 | .xor => 2 | .andn => 3 | .orn => 4 | .not => 5 | .copy => 6
def Idp4Sign.ofCode? : Nat → Option Idp4Sign
  | 0 => some .i8i8 | 1 => some .n8n8 | 2 => some .i8n8 | 3 => some .n8i8 | _ => none
def Idp4Sign.code : Idp4Sign → Nat
  | .i8i8 => 0 | .n8n8 => 1 | .i8n8 => 2 | .n8i8 => 3
def LWidth.ofCode? : Nat → Option LWidth
  | 0 => some .n8 | 1 => some .i8 | 2 => some .n16 | 3 => some .i16 | 4 => some .n32 | 5 => some .n64 | 6 => some .n128
  | _ => none
def LWidth.code : LWidth → Nat
  | .n8 => 0 | .i8 => 1 | .n16 => 2 | .i16 => 3 | .n32 => 4 | .n64 => 5 | .n128 => 6
def SWidth.ofCode? : Nat → Option SWidth
  | 0 => some .n8 | 2 => some .n16 | 4 => some .n32 | 5 => some .n64 | 6 => some .n128 | _ => none
def SWidth.code : SWidth → Nat
  | .n8 => 0 | .n16 => 2 | .n32 => 4 | .n64 => 5 | .n128 => 6
def AtomicOp.ofCode? : Nat → Option AtomicOp
  | 0 => some .add | 1 => some .mini | 2 => some .maxi | 3 => some .minn | 4 => some .maxn | 5 => some .and | 6 => some .or
  | 7 => some .xor | 8 => some .exch | 9 => some .cas | 10 => some .faddF32 | 11 => some .faddBf16x2 | 12 => some .inc
  | _ => none
def AtomicOp.code : AtomicOp → Nat
  | .add => 0 | .mini => 1 | .maxi => 2 | .minn => 3 | .maxn => 4 | .and => 5 | .or => 6
  | .xor => 7 | .exch => 8 | .cas => 9 | .faddF32 => 10 | .faddBf16x2 => 11 | .inc => 12
def RedOp.ofCode? : Nat → Option RedOp
  | 0 => some .add | 1 => some .mini | 2 => some .maxi | 3 => some .minn | 4 => some .maxn | 5 => some .and | 6 => some .or
  | 7 => some .xor | 10 => some .faddF32 | 11 => some .faddBf16x2 | 12 => some .inc
  | _ => none
def RedOp.code : RedOp → Nat
  | .add => 0 | .mini => 1 | .maxi => 2 | .minn => 3 | .maxn => 4 | .and => 5 | .or => 6
  | .xor => 7 | .faddF32 => 10 | .faddBf16x2 => 11 | .inc => 12
def Scope.ofCode? : Nat → Option Scope
  | 0 => some .grp | 1 => some .wg | 2 => some .cl | 3 => some .die | 4 => some .pnl | 5 => some .sys | _ => none
def Scope.code : Scope → Nat
  | .grp => 0 | .wg => 1 | .cl => 2 | .die => 3 | .pnl => 4 | .sys => 5
def FenceKind.ofCode? : Nat → Option FenceKind
  | 0 => some .acq | 1 => some .rel | 2 => some .acqrel | 3 => some .sc | _ => none
def FenceKind.code : FenceKind → Nat
  | .acq => 0 | .rel => 1 | .acqrel => 2 | .sc => 3
def PrefLevel.ofCode? : Nat → Option PrefLevel
  | 0 => some .l1 | 1 => some .l2 | _ => none
def PrefLevel.code : PrefLevel → Nat
  | .l1 => 0 | .l2 => 1
def NanMode.ofCode? : Nat → Option NanMode
  | 0 => some .number | 1 => some .nan | _ => none
def NanMode.code : NanMode → Nat
  | .number => 0 | .nan => 1
/-- FCMP's m: [1:0] relation, [2] true when unordered, [3] = 0 (R34). -/
def FCond.ofCode? (m : Nat) : Option FCond :=
  if m < 8 then (Rel.ofCode? (m % 4)).map fun r => ⟨r, m / 4 = 1⟩ else none
def FCond.code (c : FCond) : Nat := c.rel.code + 4 * c.unord.toNat
def HFmt.ofCode? : Nat → Option HFmt
  | 0 => some .fp16 | 1 => some .bf16 | _ => none
def HFmt.code : HFmt → Nat
  | .fp16 => 0 | .bf16 => 1
def FFmt.ofCode? : Nat → Option FFmt
  | 0 => some .fp32 | 1 => some .fp16 | 2 => some .bf16 | _ => none
def FFmt.code : FFmt → Nat
  | .fp32 => 0 | .fp16 => 1 | .bf16 => 2
/-- CVTF's b: [1:0] source format, [3:2] result format, [6:4] = 0 (R34). -/
def CvtFmts.ofCode? (b : Nat) : Option CvtFmts :=
  if b < 16 then
    match FFmt.ofCode? (b % 4), FFmt.ofCode? (b / 4) with
    | some x, some y => some ⟨x, y⟩
    | _, _ => none
  else none
def CvtFmts.code (c : CvtFmts) : Nat := c.src.code + 4 * c.dst.code
/-- [1:0] rnd, [2] unsigned, [3] 64-bit (R34). -/
def IntCvt.ofCode? (m : Nat) : Option IntCvt :=
  if m < 16 then (Rnd.ofCode? (m % 4)).map fun r => ⟨r, m / 4 % 2 = 1, m / 8 = 1⟩ else none
def IntCvt.code (c : IntCvt) : Nat := c.rnd.code + 4 * c.uns.toNat + 8 * c.w64.toNat
/-- [2:0] rnd 0–4, [3] format (R34). -/
def PackMode.ofCode? (m : Nat) : Option PackMode :=
  if m < 16 then
    match QRnd.ofCode? (m % 8), HFmt.ofCode? (m / 8) with
    | some r, some f => some ⟨r, f⟩
    | _, _ => none
  else none
def PackMode.code (c : PackMode) : Nat := c.rnd.code + 8 * c.fmt.code
/-- The format codes of R39 that QCVT and DQCVT accept. -/
def QFmt.ofCode? : Nat → Option QFmt
  | 3 => some .e4m3 | 4 => some .e5m2 | 5 => some .e2m1 | 6 => some .lg6 | 8 => some .int8 | 9 => some .int4 | _ => none
def QFmt.code : QFmt → Nat
  | .e4m3 => 3 | .e5m2 => 4 | .e2m1 => 5 | .lg6 => 6 | .int8 => 8 | .int4 => 9
/-- MMA's m[2:1]: [1] multicast B, [2] multicast A (R34), as the number m / 2. -/
def MultiCast.ofCode? (k : Nat) : Option MultiCast :=
  if k < 4 then some ⟨k % 2 = 1, k / 2 = 1⟩ else none
def MultiCast.code (c : MultiCast) : Nat := c.b.toNat + 2 * c.a.toNat
/-- The engine port codes of R264. -/
def EnginePort.ofCode? : Nat → Option EnginePort
  | 0x01 => some .gather | 0x02 => some .mrow | 0x03 => some .rayhit | 0x04 => some .rayisect | 0x05 => some .msample
  | 0x06 => some .fabrx | 0x11 => some .cpycmd | 0x12 => some .tracecmd | _ => none
def EnginePort.code : EnginePort → Nat
  | .gather => 0x01 | .mrow => 0x02 | .rayhit => 0x03 | .rayisect => 0x04 | .msample => 0x05
  | .fabrx => 0x06 | .cpycmd => 0x11 | .tracecmd => 0x12
def ShflMode.ofCode? : Nat → Option ShflMode
  | 0 => some .idx | 1 => some .up | 2 => some .down | 3 => some .xor | _ => none
def ShflMode.code : ShflMode → Nat
  | .idx => 0 | .up => 1 | .down => 2 | .xor => 3
def ScanOp.ofCode? : Nat → Option ScanOp
  | 0 => some .add | 1 => some .fadd | 2 => some .mini | 3 => some .maxi | 4 => some .minn | 5 => some .maxn
  | 6 => some .and | 7 => some .or | _ => none
def ScanOp.code : ScanOp → Nat
  | .add => 0 | .fadd => 1 | .mini => 2 | .maxi => 3 | .minn => 4 | .maxn => 5 | .and => 6 | .or => 7
def ScanMode.ofCode? (m : Nat) : Option ScanMode :=
  if m < 16 then (ScanOp.ofCode? (m % 8)).map fun o => ⟨o, m / 8 = 1⟩ else none
def ScanMode.code (c : ScanMode) : Nat := c.op.code + 8 * c.excl.toNat
def PhaseOp.ofCode? : Nat → Option PhaseOp
  | 0 => some .or | 1 => some .maxn | 2 => some .add | _ => none
def PhaseOp.code : PhaseOp → Nat
  | .or => 0 | .maxn => 1 | .add => 2
def CollOp.ofCode? : Nat → Option CollOp
  | 0 => some .addF32 | 1 => some .addBf16 | 2 => some .max | 3 => some .copy | _ => none
def CollOp.code : CollOp → Nat
  | .addF32 => 0 | .addBf16 => 1 | .max => 2 | .copy => 3

/-- What a word in an instruction's position is (R40): a valid instruction, or the fault it raises. -/
inductive Decoded where
  | ok (i : Instr)
  | illegalOp
  | illegalOperand
  deriving DecidableEq, Repr

/-- An m value must be listed for its opcode (R41 check 1). -/
def modifier {α : Type} (o : Option α) (k : α → Decoded) : Decoded :=
  match o with
  | some x => k x
  | none => .illegalOp

/-- A field's code must name something its kind knows (R41 check 2). -/
def field {α : Type} (o : Option α) (k : α → Decoded) : Decoded :=
  match o with
  | some x => k x
  | none => .illegalOperand

/-- An unused field holds 112 (R30). -/
def unused (code : Nat) (k : Decoded) : Decoded := if code = 112 then k else .illegalOperand

/-- The kinds and operand rules of R30, R31 and R37. -/
def finish (i : Instr) : Decoded := if i.wf then .ok i else .illegalOperand

/-- The 21-bit branch offset d:a:b (R33). -/
def offsetOf (d a b : Nat) : BitVec 21 := BitVec.ofNat 21 (d * 2 ^ 14 + a * 2 ^ 7 + b)

/-- The largest m DQCVT lists for a format field (R34); a field that is no format is left to the field check. -/
def dqcvtLimit (b : Nat) : Nat :=
  match QFmt.ofCode? b with
  | some f => f.maxElem
  | none => 7

/-- The opcodes 0x00 to 0x0F of R34. -/
def decodeOps0 (op m d a b : Nat) : Decoded :=
  match op with
  | 0x00 =>
    match m with
    | 0 => unused d <| unused a <| unused b <| finish (.nop)
    | _ => .illegalOp
  | 0x01 =>
    modifier (Wide.ofCode? m) fun w => field (Operand.ofCode? d) fun d' => field (Operand.ofCode? a) fun a' => unused b <| finish (.mov w d' a')
  | 0x02 =>
    modifier (PredSel.ofCode? m) fun p => field (Operand.ofCode? d) fun d' => field (Operand.ofCode? a) fun a' => field (Operand.ofCode? b) fun b' => finish (.sel p d' a' b')
  | 0x03 =>
    modifier (AType.ofCode? m) fun t => field (Operand.ofCode? d) fun d' => field (Operand.ofCode? a) fun a' => field (Operand.ofCode? b) fun b' => finish (.iadd t d' a' b')
  | 0x04 =>
    modifier (AType.ofCode? m) fun t => field (Operand.ofCode? d) fun d' => field (Operand.ofCode? a) fun a' => field (Operand.ofCode? b) fun b' => finish (.isub t d' a' b')
  | 0x05 =>
    modifier (IType.ofCode? m) fun t => field (Operand.ofCode? d) fun d' => field (Operand.ofCode? a) fun a' => field (Operand.ofCode? b) fun b' => finish (.imul t d' a' b')
  | 0x06 =>
    modifier (IType.ofCode? m) fun t => field (Operand.ofCode? d) fun d' => field (Operand.ofCode? a) fun a' => field (Operand.ofCode? b) fun b' => finish (.imulh t d' a' b')
  | 0x07 =>
    modifier (AType.ofCode? m) fun t => field (Operand.ofCode? d) fun d' => field (Operand.ofCode? a) fun a' => field (Operand.ofCode? b) fun b' => finish (.imad t d' a' b')
  | 0x08 =>
    modifier (IType.ofCode? m) fun t => field (Operand.ofCode? d) fun d' => field (Operand.ofCode? a) fun a' => field (Operand.ofCode? b) fun b' => finish (.idiv t d' a' b')
  | 0x09 =>
    modifier (IType.ofCode? m) fun t => field (Operand.ofCode? d) fun d' => field (Operand.ofCode? a) fun a' => field (Operand.ofCode? b) fun b' => finish (.irem t d' a' b')
  | 0x0A =>
    modifier (IType.ofCode? m) fun t => field (Operand.ofCode? d) fun d' => field (Operand.ofCode? a) fun a' => field (Operand.ofCode? b) fun b' => finish (.imin t d' a' b')
  | 0x0B =>
    modifier (IType.ofCode? m) fun t => field (Operand.ofCode? d) fun d' => field (Operand.ofCode? a) fun a' => field (Operand.ofCode? b) fun b' => finish (.imax t d' a' b')
  | 0x0C =>
    modifier (ICond.ofCode? m) fun c => field (PredReg.ofCode? d) fun pd => field (Operand.ofCode? a) fun a' => field (Operand.ofCode? b) fun b' => finish (.icmp c pd a' b')
  | 0x0D =>
    modifier (Shift.ofCode? m) fun k => field (Operand.ofCode? d) fun d' => field (Operand.ofCode? a) fun a' => field (Operand.ofCode? b) fun b' => finish (.lea k d' a' b')
  | 0x0E =>
    modifier (Wide.ofCode? m) fun w => field (Operand.ofCode? d) fun d' => field (Operand.ofCode? a) fun a' => field (Operand.ofCode? b) fun b' => finish (.land w d' a' b')
  | 0x0F =>
    modifier (Wide.ofCode? m) fun w => field (Operand.ofCode? d) fun d' => field (Operand.ofCode? a) fun a' => field (Operand.ofCode? b) fun b' => finish (.lor w d' a' b')
  | _ => .illegalOp

/-- The opcodes 0x10 to 0x1F of R34. -/
def decodeOps1 (op m d a b : Nat) : Decoded :=
  match op with
  | 0x10 =>
    modifier (Wide.ofCode? m) fun w => field (Operand.ofCode? d) fun d' => field (Operand.ofCode? a) fun a' => field (Operand.ofCode? b) fun b' => finish (.lxor w d' a' b')
  | 0x11 =>
    modifier (Wide.ofCode? m) fun w => field (Operand.ofCode? d) fun d' => field (Operand.ofCode? a) fun a' => field (Operand.ofCode? b) fun b' => finish (.landn w d' a' b')
  | 0x12 =>
    modifier (Wide.ofCode? m) fun w => field (Operand.ofCode? d) fun d' => field (Operand.ofCode? a) fun a' => field (Operand.ofCode? b) fun b' => finish (.shl w d' a' b')
  | 0x13 =>
    modifier (Wide.ofCode? m) fun w => field (Operand.ofCode? d) fun d' => field (Operand.ofCode? a) fun a' => field (Operand.ofCode? b) fun b' => finish (.shr w d' a' b')
  | 0x14 =>
    modifier (Wide.ofCode? m) fun w => field (Operand.ofCode? d) fun d' => field (Operand.ofCode? a) fun a' => field (Operand.ofCode? b) fun b' => finish (.sar w d' a' b')
  | 0x15 =>
    modifier (Wide.ofCode? m) fun w => field (Operand.ofCode? d) fun d' => field (Operand.ofCode? a) fun a' => field (Operand.ofCode? b) fun b' => finish (.rotl w d' a' b')
  | 0x16 =>
    modifier (Sgn.ofCode? m) fun sg => field (Operand.ofCode? d) fun d' => field (Operand.ofCode? a) fun a' => field (Operand.ofCode? b) fun b' => finish (.bfe sg d' a' b')
  | 0x17 =>
    match m with
    | 0 => field (Operand.ofCode? d) fun d' => field (Operand.ofCode? a) fun a' => field (Operand.ofCode? b) fun b' => finish (.bfi d' a' b')
    | _ => .illegalOp
  | 0x18 =>
    match m with
    | 0 => field (Operand.ofCode? d) fun d' => field (Operand.ofCode? a) fun a' => unused b <| finish (.popc d' a')
    | 1 => field (Operand.ofCode? d) fun d' => field (Operand.ofCode? a) fun a' => unused b <| finish (.clz d' a')
    | 2 => field (Operand.ofCode? d) fun d' => field (Operand.ofCode? a) fun a' => unused b <| finish (.ctz d' a')
    | 3 => field (Operand.ofCode? d) fun d' => field (Operand.ofCode? a) fun a' => unused b <| finish (.brev d' a')
    | 4 => field (Operand.ofCode? d) fun d' => field (Operand.ofCode? a) fun a' => unused b <| finish (.bswap d' a')
    | _ => .illegalOp
  | 0x19 =>
    match m with
    | 0 => field (Operand.ofCode? d) fun d' => field (Operand.ofCode? a) fun a' => field (Operand.ofCode? b) fun b' => finish (.perm d' a' b')
    | _ => .illegalOp
  | 0x1A =>
    modifier (PlopOp.ofCode? m) fun o => field (PredReg.ofCode? d) fun pd => field (PredReg.ofCode? a) fun pa => field (PredReg.ofCode? b) fun pb => finish (.plop o pd pa pb)
  | 0x1B =>
    modifier (Idp4Sign.ofCode? m) fun g => field (Operand.ofCode? d) fun d' => field (Operand.ofCode? a) fun a' => field (Operand.ofCode? b) fun b' => finish (.idp4 g d' a' b')
  | 0x1C =>
    match m with
    | 0 => unused d <| field (Operand.ofCode? a) fun a' => unused b <| finish (.window a')
    | _ => .illegalOp
  | 0x1D =>
    match m with
    | 0 => field (Operand.ofCode? d) fun d' => unused a <| unused b <| finish (.rdcntCycle d')
    | 1 => field (Operand.ofCode? d) fun d' => unused a <| unused b <| finish (.rdcntTime d')
    | 2 => field (Operand.ofCode? d) fun d' => unused a <| unused b <| finish (.rdcntClauses d')
    | 3 => field (Operand.ofCode? d) fun d' => field (Operand.ofCode? a) fun a' => unused b <| finish (.rdcntPath d' a')
    | _ => .illegalOp
  | _ => .illegalOp

/-- The opcodes 0x20 to 0x2F of R34. -/
def decodeOps2 (op m d a b : Nat) : Decoded :=
  match op with
  | 0x20 =>
    modifier (XferPred.ofCode? m) fun p => finish (.br p (offsetOf d a b))
  | 0x21 =>
    modifier (XferPred.ofCode? m) fun p => unused d <| field (Operand.ofCode? a) fun a' => unused b <| finish (.jmpr p a')
  | 0x22 =>
    modifier (XferPred.ofCode? m) fun p => finish (.call p (offsetOf d a b))
  | 0x23 =>
    modifier (XferPred.ofCode? m) fun p => unused d <| unused a <| unused b <| finish (.ret p)
  | 0x24 =>
    modifier (XferPred.ofCode? m) fun p => unused d <| unused a <| unused b <| finish (.exit p)
  | 0x25 =>
    match m with
    | 0 => finish (.joinat (offsetOf d a b))
    | _ => .illegalOp
  | 0x26 =>
    match m with
    | 0 => unused d <| unused a <| unused b <| finish (.yield)
    | _ => .illegalOp
  | 0x27 =>
    match m with
    | 0 => unused d <| field (Operand.ofCode? a) fun a' => unused b <| finish (.trap a')
    | _ => .illegalOp
  | 0x28 =>
    modifier (LWidth.ofCode? m) fun w => field (Operand.ofCode? d) fun d' => field (Operand.ofCode? a) fun a' => field (Operand.ofCode? b) fun b' => finish (.ld w d' a' b')
  | 0x29 =>
    modifier (SWidth.ofCode? m) fun w => field (Operand.ofCode? d) fun d' => field (Operand.ofCode? a) fun a' => field (Operand.ofCode? b) fun b' => finish (.st w d' a' b')
  | 0x2A =>
    modifier (LWidth.ofCode? m) fun w => field (Operand.ofCode? d) fun d' => field (Operand.ofCode? a) fun a' => field (Operand.ofCode? b) fun b' => finish (.ldl w d' a' b')
  | 0x2B =>
    modifier (SWidth.ofCode? m) fun w => field (Operand.ofCode? d) fun d' => field (Operand.ofCode? a) fun a' => field (Operand.ofCode? b) fun b' => finish (.stl w d' a' b')
  | 0x2C =>
    modifier (LWidth.ofCode? m) fun w => field (Operand.ofCode? d) fun d' => field (Operand.ofCode? a) fun a' => field (Operand.ofCode? b) fun b' => finish (.lds w d' a' b')
  | 0x2D =>
    modifier (SWidth.ofCode? m) fun w => field (Operand.ofCode? d) fun d' => field (Operand.ofCode? a) fun a' => field (Operand.ofCode? b) fun b' => finish (.sts w d' a' b')
  | 0x2E =>
    modifier (LWidth.ofCode? m) fun w => field (Operand.ofCode? d) fun d' => field (Operand.ofCode? a) fun a' => field (Operand.ofCode? b) fun b' => finish (.ldc w d' a' b')
  | 0x2F =>
    modifier (SWidth.ofCode? m) fun w => field (Operand.ofCode? d) fun d' => field (Operand.ofCode? a) fun a' => field (Operand.ofCode? b) fun b' => finish (.stc w d' a' b')
  | _ => .illegalOp

/-- The opcodes 0x30 to 0x3F of R34. -/
def decodeOps3 (op m d a b : Nat) : Decoded :=
  match op with
  | 0x30 =>
    modifier (LWidth.ofCode? m) fun w => field (Operand.ofCode? d) fun d' => field (Operand.ofCode? a) fun a' => field (Operand.ofCode? b) fun b' => finish (.ldd w d' a' b')
  | 0x31 =>
    modifier (SWidth.ofCode? m) fun w => field (Operand.ofCode? d) fun d' => field (Operand.ofCode? a) fun a' => field (Operand.ofCode? b) fun b' => finish (.std w d' a' b')
  | 0x32 =>
    modifier (LWidth.ofCode? m) fun w => field (Operand.ofCode? d) fun d' => field (BtSlot.ofCode? a) fun k => field (Operand.ofCode? b) fun b' => finish (.ldb w d' k b')
  | 0x33 =>
    modifier (SWidth.ofCode? m) fun w => field (Operand.ofCode? d) fun d' => field (BtSlot.ofCode? a) fun k => field (Operand.ofCode? b) fun b' => finish (.stb w d' k b')
  | 0x34 =>
    modifier (AtomicOp.ofCode? m) fun o => field (Operand.ofCode? d) fun d' => field (Operand.ofCode? a) fun a' => field (Operand.ofCode? b) fun b' => finish (.atoms o d' a' b')
  | 0x35 =>
    modifier (AtomicOp.ofCode? m) fun o => field (Operand.ofCode? d) fun d' => field (Operand.ofCode? a) fun a' => field (Operand.ofCode? b) fun b' => finish (.atomg o d' a' b')
  | 0x36 =>
    modifier (RedOp.ofCode? m) fun o => field (Operand.ofCode? d) fun d' => field (Operand.ofCode? a) fun a' => unused b <| finish (.redg o d' a')
  | 0x37 =>
    modifier (AtomicOp.ofCode? m) fun o => field (Operand.ofCode? d) fun d' => field (Operand.ofCode? a) fun a' => field (Operand.ofCode? b) fun b' => finish (.atomc o d' a' b')
  | 0x38 =>
    modifier (Scope.ofCode? m) fun sc => unused d <| unused a <| field (FenceKind.ofCode? b) fun k => finish (.fence sc k)
  | 0x39 =>
    match m with
    | 0 => unused d <| field (PathNo.ofCode? a) fun pp => field (PathNo.ofCode? b) fun pq => finish (.pfence pp pq)
    | _ => .illegalOp
  | 0x3A =>
    match m with
    | 0 => unused d <| field (PathNo.ofCode? a) fun pp => field (Operand.ofCode? b) fun b' => finish (.waitp pp b')
    | _ => .illegalOp
  | 0x3B =>
    modifier (Scope.ofCode? m) fun sc => unused d <| field (Operand.ofCode? a) fun a' => field (Operand.ofCode? b) fun b' => finish (.waitmem sc a' b')
  | 0x3C =>
    match m with
    | 0 => field (BtSlot.ofCode? d) fun k => field (Operand.ofCode? a) fun a' => field (Operand.ofCode? b) fun b' => finish (.btset k a' b')
    | _ => .illegalOp
  | 0x3D =>
    match m with
    | 0 => field (Operand.ofCode? d) fun d' => field (Operand.ofCode? a) fun a' => unused b <| finish (.tagset d' a')
    | 1 => field (Operand.ofCode? d) fun d' => field (Operand.ofCode? a) fun a' => unused b <| finish (.tagget d' a')
    | 2 => field (Operand.ofCode? d) fun d' => field (Operand.ofCode? a) fun a' => field (Operand.ofCode? b) fun b' => finish (.tagptr d' a' b')
    | _ => .illegalOp
  | 0x3E =>
    modifier (PrefLevel.ofCode? m) fun lv => unused d <| field (Operand.ofCode? a) fun a' => field (Operand.ofCode? b) fun b' => finish (.pref lv a' b')
  | _ => .illegalOp

/-- The opcodes 0x40 to 0x4F of R34. -/
def decodeOps4 (op m d a b : Nat) : Decoded :=
  match op with
  | 0x40 =>
    modifier (Rnd.ofCode? m) fun r => field (Operand.ofCode? d) fun d' => field (Operand.ofCode? a) fun a' => field (Operand.ofCode? b) fun b' => finish (.fadd r d' a' b')
  | 0x41 =>
    modifier (Rnd.ofCode? m) fun r => field (Operand.ofCode? d) fun d' => field (Operand.ofCode? a) fun a' => field (Operand.ofCode? b) fun b' => finish (.fsub r d' a' b')
  | 0x42 =>
    modifier (Rnd.ofCode? m) fun r => field (Operand.ofCode? d) fun d' => field (Operand.ofCode? a) fun a' => field (Operand.ofCode? b) fun b' => finish (.fmul r d' a' b')
  | 0x43 =>
    modifier (Rnd.ofCode? m) fun r => field (Operand.ofCode? d) fun d' => field (Operand.ofCode? a) fun a' => field (Operand.ofCode? b) fun b' => finish (.ffma r d' a' b')
  | 0x44 =>
    modifier (NanMode.ofCode? m) fun nm => field (Operand.ofCode? d) fun d' => field (Operand.ofCode? a) fun a' => field (Operand.ofCode? b) fun b' => finish (.fmin nm d' a' b')
  | 0x45 =>
    modifier (NanMode.ofCode? m) fun nm => field (Operand.ofCode? d) fun d' => field (Operand.ofCode? a) fun a' => field (Operand.ofCode? b) fun b' => finish (.fmax nm d' a' b')
  | 0x46 =>
    modifier (FCond.ofCode? m) fun c => field (PredReg.ofCode? d) fun pd => field (Operand.ofCode? a) fun a' => field (Operand.ofCode? b) fun b' => finish (.fcmp c pd a' b')
  | 0x47 =>
    match m with
    | 0 => field (Operand.ofCode? d) fun d' => field (Operand.ofCode? a) fun a' => unused b <| finish (.fclass d' a')
    | _ => .illegalOp
  | 0x48 =>
    match m with
    | 0 => field (Operand.ofCode? d) fun d' => field (Operand.ofCode? a) fun a' => unused b <| finish (.fabs d' a')
    | 1 => field (Operand.ofCode? d) fun d' => field (Operand.ofCode? a) fun a' => unused b <| finish (.fneg d' a')
    | 2 => field (Operand.ofCode? d) fun d' => field (Operand.ofCode? a) fun a' => unused b <| finish (.frcp d' a')
    | 3 => field (Operand.ofCode? d) fun d' => field (Operand.ofCode? a) fun a' => unused b <| finish (.frsq d' a')
    | 4 => field (Operand.ofCode? d) fun d' => field (Operand.ofCode? a) fun a' => unused b <| finish (.fsqrt d' a')
    | 5 => field (Operand.ofCode? d) fun d' => field (Operand.ofCode? a) fun a' => unused b <| finish (.fexp2 d' a')
    | 6 => field (Operand.ofCode? d) fun d' => field (Operand.ofCode? a) fun a' => unused b <| finish (.flog2 d' a')
    | 7 => field (Operand.ofCode? d) fun d' => field (Operand.ofCode? a) fun a' => unused b <| finish (.fsin d' a')
    | 8 => field (Operand.ofCode? d) fun d' => field (Operand.ofCode? a) fun a' => unused b <| finish (.fcos d' a')
    | 9 => field (Operand.ofCode? d) fun d' => field (Operand.ofCode? a) fun a' => unused b <| finish (.ftanh d' a')
    | 10 => field (Operand.ofCode? d) fun d' => field (Operand.ofCode? a) fun a' => unused b <| finish (.ffrac d' a')
    | _ => .illegalOp
  | 0x49 =>
    modifier (Rnd.ofCode? m) fun r => field (Operand.ofCode? d) fun d' => field (Operand.ofCode? a) fun a' => field (Operand.ofCode? b) fun b' => finish (.fdiv r d' a' b')
  | 0x4A =>
    modifier (Rnd.ofCode? m) fun r => field (Operand.ofCode? d) fun d' => field (Operand.ofCode? a) fun a' => unused b <| finish (.fround r d' a')
  | 0x4B =>
    modifier (HFmt.ofCode? m) fun f => field (Operand.ofCode? d) fun d' => field (Operand.ofCode? a) fun a' => field (Operand.ofCode? b) fun b' => finish (.hadd2 f d' a' b')
  | 0x4C =>
    modifier (HFmt.ofCode? m) fun f => field (Operand.ofCode? d) fun d' => field (Operand.ofCode? a) fun a' => field (Operand.ofCode? b) fun b' => finish (.hmul2 f d' a' b')
  | 0x4D =>
    modifier (HFmt.ofCode? m) fun f => field (Operand.ofCode? d) fun d' => field (Operand.ofCode? a) fun a' => field (Operand.ofCode? b) fun b' => finish (.hfma2 f d' a' b')
  | 0x4E =>
    if m < 2 then modifier (HFmt.ofCode? m) fun f => field (Operand.ofCode? d) fun d' => field (Operand.ofCode? a) fun a' => field (Operand.ofCode? b) fun b' => finish (.hmin2 f d' a' b')
    else if m < 4 then modifier (HFmt.ofCode? (m - 2)) fun f => field (Operand.ofCode? d) fun d' => field (Operand.ofCode? a) fun a' => field (Operand.ofCode? b) fun b' => finish (.hmax2 f d' a' b')
    else .illegalOp
  | 0x4F =>
    modifier (HFmt.ofCode? m) fun f => field (Operand.ofCode? d) fun d' => field (Operand.ofCode? a) fun a' => field (Operand.ofCode? b) fun b' => finish (.fdp2 f d' a' b')
  | _ => .illegalOp

/-- The opcodes 0x50 to 0x5F of R34. -/
def decodeOps5 (op m d a b : Nat) : Decoded :=
  match op with
  | 0x50 =>
    modifier (Rnd.ofCode? m) fun r => field (Operand.ofCode? d) fun d' => field (Operand.ofCode? a) fun a' => field (CvtFmts.ofCode? b) fun fm => finish (.cvtf r d' a' fm)
  | 0x51 =>
    modifier (IntCvt.ofCode? m) fun c => field (Operand.ofCode? d) fun d' => field (Operand.ofCode? a) fun a' => unused b <| finish (.f2i c d' a')
  | 0x52 =>
    modifier (IntCvt.ofCode? m) fun c => field (Operand.ofCode? d) fun d' => field (Operand.ofCode? a) fun a' => unused b <| finish (.i2f c d' a')
  | 0x53 =>
    modifier (PackMode.ofCode? m) fun pm => field (Operand.ofCode? d) fun d' => field (Operand.ofCode? a) fun a' => field (Operand.ofCode? b) fun b' => finish (.pack2 pm d' a' b')
  | 0x54 =>
    modifier (QRnd.ofCode? m) fun r => field (Operand.ofCode? d) fun d' => field (Operand.ofCode? a) fun a' => field (QFmt.ofCode? b) fun f => finish (.qcvt r d' a' f)
  | 0x55 =>
    modifier (Elem.ofCode? m) fun e =>
      if e.val ≤ dqcvtLimit b then field (Operand.ofCode? d) fun d' => field (Operand.ofCode? a) fun a' => field (QFmt.ofCode? b) fun f => finish (.dqcvt e d' a' f)
      else .illegalOp
  | 0x56 =>
    if m < 8 then
      modifier (MultiCast.ofCode? (m / 2)) fun mc =>
        if m % 2 = 0 then field (Tile.ofCode? d) fun t => field (Operand.ofCode? a) fun a' => field (Operand.ofCode? b) fun b' => finish (.mmaAcc mc t a' b')
        else field (Tile.ofCode? d) fun t => field (Operand.ofCode? a) fun a' => field (Operand.ofCode? b) fun b' => finish (.mmaSet mc t a' b')
    else .illegalOp
  | 0x57 =>
    match m with
    | 0 => unused d <| field (Operand.ofCode? a) fun a' => unused b <| finish (.mfmt a')
    | 1 => field (Tile.ofCode? d) fun t => unused a <| unused b <| finish (.mclr t)
    | 2 => field (Tile.ofCode? d) fun t => field (Operand.ofCode? a) fun a' => unused b <| finish (.mload t a')
    | 3 => unused d <| field (Operand.ofCode? a) fun a' => unused b <| finish (.mseed a')
    | 4 => field (Operand.ofCode? d) fun d' => field (Tile.ofCode? a) fun t => unused b <| finish (.mstat d' t)
    | _ => .illegalOp
  | 0x58 =>
    match m with
    | 0 => field (Tile.ofCode? d) fun t => field (Operand.ofCode? a) fun a' => unused b <| finish (.mdrain t a')
    | 8 => field (Tile.ofCode? d) fun t => field (Operand.ofCode? a) fun a' => unused b <| finish (.mdrainMrow t a')
    | _ => .illegalOp
  | 0x59 =>
    match m with
    | 0 => unused d <| field (Operand.ofCode? a) fun a' => field (Operand.ofCode? b) fun b' => finish (.mtrq a' b')
    | _ => .illegalOp
  | 0x5A =>
    match m with
    | 0 => field (Operand.ofCode? d) fun d' => field (EnginePort.ofCode? a) fun ep => unused b <| finish (.qbind d' ep)
    | _ => .illegalOp
  | 0x5B =>
    match m with
    | 0 => field (Operand.ofCode? d) fun d' => unused a <| unused b <| finish (.qunbind d')
    | 1 => field (Operand.ofCode? d) fun d' => field (Operand.ofCode? a) fun a' => unused b <| finish (.qcount d' a')
    | 2 => field (Operand.ofCode? d) fun d' => unused a <| unused b <| finish (.qdrain d')
    | _ => .illegalOp
  | 0x5C =>
    match m with
    | 0 => unused d <| field (Operand.ofCode? a) fun a' => unused b <| finish (.cpyl a')
    | 1 => unused d <| field (Operand.ofCode? a) fun a' => unused b <| finish (.cpyt a')
    | 2 => unused d <| field (Operand.ofCode? a) fun a' => unused b <| finish (.cpym a')
    | _ => .illegalOp
  | 0x5D =>
    match m with
    | 0 => unused d <| field (Operand.ofCode? a) fun a' => field (Operand.ofCode? b) fun b' => finish (.gath a' b')
    | 1 => field (Operand.ofCode? d) fun d' => field (Operand.ofCode? a) fun a' => field (Operand.ofCode? b) fun b' => finish (.scat d' a' b')
    | _ => .illegalOp
  | 0x5E =>
    match m with
    | 0 => field (Operand.ofCode? d) fun d' => field (Operand.ofCode? a) fun a' => unused b <| finish (.emitv d' a')
    | 1 => unused d <| field (Operand.ofCode? a) fun a' => field (Operand.ofCode? b) fun b' => finish (.emitp a' b')
    | 2 => unused d <| unused a <| unused b <| finish (.emitend)
    | _ => .illegalOp
  | 0x5F =>
    match m with
    | 0 => field (Operand.ofCode? d) fun d' => field (Operand.ofCode? a) fun a' => unused b <| finish (.tload d' a')
    | 1 => field (Operand.ofCode? d) fun d' => field (Operand.ofCode? a) fun a' => unused b <| finish (.tstore d' a')
    | 2 => unused d <| unused a <| unused b <| finish (.tnext)
    | 3 => unused d <| unused a <| unused b <| finish (.tdone)
    | _ => .illegalOp
  | _ => .illegalOp

/-- The opcodes 0x60 to 0x6F of R34. -/
def decodeOps6 (op m d a b : Nat) : Decoded :=
  match op with
  | 0x60 =>
    match m with
    | 0 => field (PredReg.ofCode? d) fun pd => field (PredReg.ofCode? a) fun pa => unused b <| finish (.voteAll pd pa)
    | 1 => field (PredReg.ofCode? d) fun pd => field (PredReg.ofCode? a) fun pa => unused b <| finish (.voteAny pd pa)
    | 2 => field (Operand.ofCode? d) fun d' => field (PredReg.ofCode? a) fun pa => unused b <| finish (.voteBallot d' pa)
    | _ => .illegalOp
  | 0x61 =>
    modifier (ShflMode.ofCode? m) fun sm => field (Operand.ofCode? d) fun d' => field (Operand.ofCode? a) fun a' => field (Operand.ofCode? b) fun b' => finish (.shfl sm d' a' b')
  | 0x62 =>
    modifier (ScanMode.ofCode? m) fun sm => field (Operand.ofCode? d) fun d' => field (Operand.ofCode? a) fun a' => unused b <| finish (.scan sm d' a')
  | 0x63 =>
    modifier (ScanOp.ofCode? m) fun o => field (Operand.ofCode? d) fun d' => field (Operand.ofCode? a) fun a' => unused b <| finish (.lred o d' a')
  | 0x64 =>
    match m with
    | 0 => field (Operand.ofCode? d) fun d' => field (Operand.ofCode? a) fun a' => field (Operand.ofCode? b) fun b' => finish (.bcast d' a' b')
    | _ => .illegalOp
  | 0x65 =>
    match m with
    | 0 => field (Operand.ofCode? d) fun d' => unused a <| unused b <| finish (.splitqLive d')
    | 1 => field (Operand.ofCode? d) fun d' => unused a <| unused b <| finish (.splitqLowest d')
    | 2 => field (Operand.ofCode? d) fun d' => unused a <| unused b <| finish (.splitqCount d')
    | _ => .illegalOp
  | 0x66 =>
    modifier (BarId.ofCode? m) fun id => field (Operand.ofCode? d) fun d' => field (FirstReg.ofCode? a) fun fr => field (RegCount.ofCode? b) fun n => finish (.regroup id d' fr n)
  | 0x67 =>
    modifier (BarId.ofCode? m) fun id => unused d <| unused a <| unused b <| finish (.bar id)
  | 0x68 =>
    modifier (CbarId.ofCode? m) fun id => unused d <| unused a <| unused b <| finish (.cbar id)
  | 0x69 =>
    match m with
    | 0 => unused d <| field (Operand.ofCode? a) fun a' => field (Operand.ofCode? b) fun b' => finish (.launchG a' b')
    | 1 => unused d <| field (Operand.ofCode? a) fun a' => field (Operand.ofCode? b) fun b' => finish (.launchL a' b')
    | _ => .illegalOp
  | 0x6A =>
    modifier (PhaseOp.ofCode? m) fun o => unused d <| field (Operand.ofCode? a) fun a' => unused b <| finish (.phaseend o a')
  | 0x6B =>
    if m < 8 then modifier (Level.ofCode? m) fun lv => field (Operand.ofCode? d) fun d' => unused a <| unused b <| finish (.lvl lv d')
    else modifier (Level.ofCode? (m - 8)) fun lv => field (Operand.ofCode? d) fun d' => unused a <| unused b <| finish (.lvlExt lv d')
  | 0x6C =>
    match m with
    | 3 => field (Operand.ofCode? d) fun d' => field (Operand.ofCode? a) fun a' => unused b <| finish (.placeCl d' a')
    | 4 => field (Operand.ofCode? d) fun d' => field (Operand.ofCode? a) fun a' => unused b <| finish (.placeDie d' a')
    | 5 => field (Operand.ofCode? d) fun d' => field (Operand.ofCode? a) fun a' => unused b <| finish (.placeRect d' a')
    | 7 => field (Operand.ofCode? d) fun d' => field (Operand.ofCode? a) fun a' => unused b <| finish (.placeFab d' a')
    | _ => .illegalOp
  | 0x6D =>
    match m with
    | 0 => field (Operand.ofCode? d) fun d' => field (Operand.ofCode? a) fun a' => field (Operand.ofCode? b) fun b' => finish (.texs d' a' b')
    | 1 => field (Operand.ofCode? d) fun d' => field (Operand.ofCode? a) fun a' => field (Operand.ofCode? b) fun b' => finish (.texl d' a' b')
    | 2 => field (Operand.ofCode? d) fun d' => field (Operand.ofCode? a) fun a' => field (Operand.ofCode? b) fun b' => finish (.texf d' a' b')
    | _ => .illegalOp
  | 0x6E =>
    match m with
    | 0 => unused d <| field (Operand.ofCode? a) fun a' => unused b <| finish (.trace a')
    | 1 => unused d <| field (Operand.ofCode? a) fun a' => field (Operand.ofCode? b) fun b' => finish (.resume a' b')
    | 2 => unused d <| field (Operand.ofCode? a) fun a' => field (Operand.ofCode? b) fun b' => finish (.commit a' b')
    | 3 => field (Operand.ofCode? d) fun d' => unused a <| unused b <| finish (.rpalloc d')
    | 4 => unused d <| field (Operand.ofCode? a) fun a' => unused b <| finish (.rpfree a')
    | 5 => unused d <| field (Operand.ofCode? a) fun a' => unused b <| finish (.march a')
    | 6 => field (Operand.ofCode? d) fun d' => field (Operand.ofCode? a) fun a' => field (Operand.ofCode? b) fun b' => finish (.hgfetch d' a' b')
    | _ => .illegalOp
  | _ => .illegalOp

/-- The opcodes 0x70 to 0x7F of R34. -/
def decodeOps7 (op m d a b : Nat) : Decoded :=
  match op with
  | 0x70 =>
    match m with
    | 0 => field (Operand.ofCode? d) fun d' => field (Operand.ofCode? a) fun a' => field (Operand.ofCode? b) fun b' => finish (.stxt d' a' b')
    | 1 => field (Operand.ofCode? d) fun d' => field (Operand.ofCode? a) fun a' => field (Operand.ofCode? b) fun b' => finish (.stxw d' a' b')
    | 2 => unused d <| field (Operand.ofCode? a) fun a' => unused b <| finish (.tkwait a')
    | 3 => field (Operand.ofCode? d) fun d' => field (Operand.ofCode? a) fun a' => unused b <| finish (.tkstat d' a')
    | _ => .illegalOp
  | 0x71 =>
    if m < 4 then modifier (CollOp.ofCode? m) fun o => unused d <| field (Operand.ofCode? a) fun a' => field (Operand.ofCode? b) fun b' => finish (.coll o a' b')
    else if m < 8 then modifier (CollOp.ofCode? (m - 4)) fun o => unused d <| field (Operand.ofCode? a) fun a' => field (Operand.ofCode? b) fun b' => finish (.collPkg o a' b')
    else .illegalOp
  | 0x72 =>
    match m with
    | 0 => unused d <| field (FirstReg.ofCode? a) fun fr => field (RegCount.ofCode? b) fun n => finish (.vbegin fr n)
    | 1 => unused d <| unused a <| unused b <| finish (.vend)
    | _ => .illegalOp
  | 0x73 =>
    match m with
    | 0 => field (Operand.ofCode? d) fun d' => field (SrNum.ofCode? a) fun r => unused b <| finish (.srd d' r)
    | 1 => field (Operand.ofCode? d) fun d' => field (SrNum.ofCode? a) fun r => unused b <| finish (.swr d' r)
    | 2 => unused d <| unused a <| unused b <| finish (.rft)
    | 3 => unused d <| unused a <| unused b <| finish (.kill)
    | 4 => unused d <| field (Operand.ofCode? a) fun a' => field (Operand.ofCode? b) fun b' => finish (.mappg a' b')
    | 5 => unused d <| unused a <| unused b <| finish (.haltall)
    | 6 => unused d <| field (SrNum.ofCode? a) fun code => unused b <| finish (.bkpt code)
    | 7 => field (Operand.ofCode? d) fun d' => unused a <| unused b <| finish (.pidx d')
    | _ => .illegalOp
  | _ => .illegalOp

/-- The fields of an instruction word (R27). -/
def opOf (w : Word) : Nat := w.toNat / 2 ^ 25
def mOf (w : Word) : Nat := w.toNat / 2 ^ 21 % 16
def dOf (w : Word) : Nat := w.toNat / 2 ^ 14 % 128
def aOf (w : Word) : Nat := w.toNat / 2 ^ 7 % 128
def bOf (w : Word) : Nat := w.toNat % 128

/-- The operation of an opcode with its fields (R34), by the opcode's high hexadecimal digit. -/
def decodeFields (op m d a b : Nat) : Decoded :=
  match op / 16 with
  | 0 => decodeOps0 op m d a b
  | 1 => decodeOps1 op m d a b
  | 2 => decodeOps2 op m d a b
  | 3 => decodeOps3 op m d a b
  | 4 => decodeOps4 op m d a b
  | 5 => decodeOps5 op m d a b
  | 6 => decodeOps6 op m d a b
  | 7 => decodeOps7 op m d a b
  | _ => .illegalOp

/-- The decoder of a word in an instruction's position, in the order of R41: op and m, then the operand fields. -/
def decode (w : Word) : Decoded := decodeFields (opOf w) (mOf w) (dOf w) (aOf w) (bOf w)

/-- A header word (R28); none where R11 raises BAD_HEADER. -/
def decodeHeader (w : Word) : Option Header :=
  let n := w.toNat
  let h : Header :=
    { n1 := Fin.ofNat 16 (n / 2 ^ 24), wait := BitVec.ofNat 12 (n / 2 ^ 12), setx := Fin.ofNat 16 (n / 2 ^ 8),
      sety := Fin.ofNat 16 (n / 2 ^ 4), sense := n / 8 % 2 = 1, pred := Fin.ofNat 8 n }
  if n / 2 ^ 28 = 0xD ∧ (Instr.clauseHeader h).wf then some h else none

/-- The word of a header (R28). -/
def encodeHeader (h : Header) : Word :=
  BitVec.ofNat 32 (0xD * 2 ^ 28 + h.n1.val * 2 ^ 24 + h.wait.toNat * 2 ^ 12 + h.setx.val * 2 ^ 8 + h.sety.val * 2 ^ 4
    + h.sense.toNat * 8 + h.pred.val)

/-- An instruction word from its fields (R27). -/
def pack (op m d a b : Nat) : Word := BitVec.ofNat 32 (op * 2 ^ 25 + m * 2 ^ 21 + d * 2 ^ 14 + a * 2 ^ 7 + b)

/-- An instruction word whose d, a and b hold a branch offset (R33). -/
def packOffset (op m : Nat) (off : BitVec 21) : Word := BitVec.ofNat 32 (op * 2 ^ 25 + m * 2 ^ 21 + off.toNat)

/-- The word of an encoded instruction or header, written from the encoding tables of R28 and R34. A step without an
encoding has no word and gives 0, which is no valid instruction (R82). -/
def encode (i : Instr) : Word :=
  match i with
  | .clauseHeader h => encodeHeader h
  | .longLatencyComplete _ _ => 0
  | .pathCompletion _ _ => 0
  | .watchdogMemwait _ _ => 0
  | .waitmemWake _ _ => 0
  | .waitmemRecheck _ _ => 0
  | .mov w d a => pack 0x01 w.code d.code a.code 112
  | .sel p d a b => pack 0x02 p.code d.code a.code b.code
  | .iadd t d a b => pack 0x03 t.code d.code a.code b.code
  | .isub t d a b => pack 0x04 t.code d.code a.code b.code
  | .imul t d a b => pack 0x05 t.code d.code a.code b.code
  | .imulh t d a b => pack 0x06 t.code d.code a.code b.code
  | .imad t d a b => pack 0x07 t.code d.code a.code b.code
  | .idiv t d a b => pack 0x08 t.code d.code a.code b.code
  | .irem t d a b => pack 0x09 t.code d.code a.code b.code
  | .imin t d a b => pack 0x0A t.code d.code a.code b.code
  | .imax t d a b => pack 0x0B t.code d.code a.code b.code
  | .icmp c pd a b => pack 0x0C c.code pd.code a.code b.code
  | .lea k d a b => pack 0x0D k.code d.code a.code b.code
  | .land w d a b => pack 0x0E w.code d.code a.code b.code
  | .lor w d a b => pack 0x0F w.code d.code a.code b.code
  | .lxor w d a b => pack 0x10 w.code d.code a.code b.code
  | .landn w d a b => pack 0x11 w.code d.code a.code b.code
  | .shl w d a b => pack 0x12 w.code d.code a.code b.code
  | .shr w d a b => pack 0x13 w.code d.code a.code b.code
  | .sar w d a b => pack 0x14 w.code d.code a.code b.code
  | .rotl w d a b => pack 0x15 w.code d.code a.code b.code
  | .bfe sg d a b => pack 0x16 sg.code d.code a.code b.code
  | .bfi d a b => pack 0x17 0 d.code a.code b.code
  | .popc d a => pack 0x18 0 d.code a.code 112
  | .clz d a => pack 0x18 1 d.code a.code 112
  | .ctz d a => pack 0x18 2 d.code a.code 112
  | .brev d a => pack 0x18 3 d.code a.code 112
  | .bswap d a => pack 0x18 4 d.code a.code 112
  | .perm d a b => pack 0x19 0 d.code a.code b.code
  | .plop o pd pa pb => pack 0x1A o.code pd.code pa.code pb.code
  | .idp4 g d a b => pack 0x1B g.code d.code a.code b.code
  | .window a => pack 0x1C 0 112 a.code 112
  | .rdcntCycle d => pack 0x1D 0 d.code 112 112
  | .rdcntTime d => pack 0x1D 1 d.code 112 112
  | .rdcntClauses d => pack 0x1D 2 d.code 112 112
  | .rdcntPath d a => pack 0x1D 3 d.code a.code 112
  | .br p off => packOffset 0x20 p.code off
  | .jmpr p a => pack 0x21 p.code 112 a.code 112
  | .call p off => packOffset 0x22 p.code off
  | .ret p => pack 0x23 p.code 112 112 112
  | .exit p => pack 0x24 p.code 112 112 112
  | .joinat off => packOffset 0x25 0 off
  | .trap a => pack 0x27 0 112 a.code 112
  | .ld w d a b => pack 0x28 w.code d.code a.code b.code
  | .st w d a b => pack 0x29 w.code d.code a.code b.code
  | .ldl w d a b => pack 0x2A w.code d.code a.code b.code
  | .stl w d a b => pack 0x2B w.code d.code a.code b.code
  | .lds w d a b => pack 0x2C w.code d.code a.code b.code
  | .sts w d a b => pack 0x2D w.code d.code a.code b.code
  | .ldc w d a b => pack 0x2E w.code d.code a.code b.code
  | .stc w d a b => pack 0x2F w.code d.code a.code b.code
  | .ldd w d a b => pack 0x30 w.code d.code a.code b.code
  | .std w d a b => pack 0x31 w.code d.code a.code b.code
  | .ldb w d k b => pack 0x32 w.code d.code k.code b.code
  | .stb w d k b => pack 0x33 w.code d.code k.code b.code
  | .atoms o d a b => pack 0x34 o.code d.code a.code b.code
  | .atomg o d a b => pack 0x35 o.code d.code a.code b.code
  | .redg o d a => pack 0x36 o.code d.code a.code 112
  | .atomc o d a b => pack 0x37 o.code d.code a.code b.code
  | .fence sc k => pack 0x38 sc.code 112 112 k.code
  | .pfence pp pq => pack 0x39 0 112 pp.code pq.code
  | .waitp pp b => pack 0x3A 0 112 pp.code b.code
  | .waitmem sc a b => pack 0x3B sc.code 112 a.code b.code
  | .btset k a b => pack 0x3C 0 k.code a.code b.code
  | .tagset d a => pack 0x3D 0 d.code a.code 112
  | .tagget d a => pack 0x3D 1 d.code a.code 112
  | .tagptr d a b => pack 0x3D 2 d.code a.code b.code
  | .pref lv a b => pack 0x3E lv.code 112 a.code b.code
  | .fadd r d a b => pack 0x40 r.code d.code a.code b.code
  | .fsub r d a b => pack 0x41 r.code d.code a.code b.code
  | .fmul r d a b => pack 0x42 r.code d.code a.code b.code
  | .ffma r d a b => pack 0x43 r.code d.code a.code b.code
  | .fmin nm d a b => pack 0x44 nm.code d.code a.code b.code
  | .fmax nm d a b => pack 0x45 nm.code d.code a.code b.code
  | .fcmp c pd a b => pack 0x46 c.code pd.code a.code b.code
  | .fclass d a => pack 0x47 0 d.code a.code 112
  | .fabs d a => pack 0x48 0 d.code a.code 112
  | .fneg d a => pack 0x48 1 d.code a.code 112
  | .frcp d a => pack 0x48 2 d.code a.code 112
  | .frsq d a => pack 0x48 3 d.code a.code 112
  | .fsqrt d a => pack 0x48 4 d.code a.code 112
  | .fexp2 d a => pack 0x48 5 d.code a.code 112
  | .flog2 d a => pack 0x48 6 d.code a.code 112
  | .fsin d a => pack 0x48 7 d.code a.code 112
  | .fcos d a => pack 0x48 8 d.code a.code 112
  | .ftanh d a => pack 0x48 9 d.code a.code 112
  | .ffrac d a => pack 0x48 10 d.code a.code 112
  | .fdiv r d a b => pack 0x49 r.code d.code a.code b.code
  | .fround r d a => pack 0x4A r.code d.code a.code 112
  | .hadd2 f d a b => pack 0x4B f.code d.code a.code b.code
  | .hmul2 f d a b => pack 0x4C f.code d.code a.code b.code
  | .hfma2 f d a b => pack 0x4D f.code d.code a.code b.code
  | .hmin2 f d a b => pack 0x4E f.code d.code a.code b.code
  | .hmax2 f d a b => pack 0x4E (f.code + 2) d.code a.code b.code
  | .fdp2 f d a b => pack 0x4F f.code d.code a.code b.code
  | .cvtf r d a fm => pack 0x50 r.code d.code a.code fm.code
  | .f2i c d a => pack 0x51 c.code d.code a.code 112
  | .i2f c d a => pack 0x52 c.code d.code a.code 112
  | .pack2 pm d a b => pack 0x53 pm.code d.code a.code b.code
  | .qcvt r d a f => pack 0x54 r.code d.code a.code f.code
  | .dqcvt e d a f => pack 0x55 e.code d.code a.code f.code
  | .mmaAcc mc t a b => pack 0x56 (2 * mc.code + 0) t.code a.code b.code
  | .mmaSet mc t a b => pack 0x56 (2 * mc.code + 1) t.code a.code b.code
  | .mfmt a => pack 0x57 0 112 a.code 112
  | .mclr t => pack 0x57 1 t.code 112 112
  | .mload t a => pack 0x57 2 t.code a.code 112
  | .mseed a => pack 0x57 3 112 a.code 112
  | .mstat d t => pack 0x57 4 d.code t.code 112
  | .mdrain t a => pack 0x58 0 t.code a.code 112
  | .mdrainMrow t a => pack 0x58 8 t.code a.code 112
  | .mtrq a b => pack 0x59 0 112 a.code b.code
  | .qbind d ep => pack 0x5A 0 d.code ep.code 112
  | .qunbind d => pack 0x5B 0 d.code 112 112
  | .qcount d a => pack 0x5B 1 d.code a.code 112
  | .qdrain d => pack 0x5B 2 d.code 112 112
  | .cpyl a => pack 0x5C 0 112 a.code 112
  | .cpyt a => pack 0x5C 1 112 a.code 112
  | .cpym a => pack 0x5C 2 112 a.code 112
  | .gath a b => pack 0x5D 0 112 a.code b.code
  | .scat d a b => pack 0x5D 1 d.code a.code b.code
  | .emitv d a => pack 0x5E 0 d.code a.code 112
  | .emitp a b => pack 0x5E 1 112 a.code b.code
  | .tload d a => pack 0x5F 0 d.code a.code 112
  | .tstore d a => pack 0x5F 1 d.code a.code 112
  | .voteAll pd pa => pack 0x60 0 pd.code pa.code 112
  | .voteAny pd pa => pack 0x60 1 pd.code pa.code 112
  | .voteBallot d pa => pack 0x60 2 d.code pa.code 112
  | .shfl sm d a b => pack 0x61 sm.code d.code a.code b.code
  | .scan sm d a => pack 0x62 sm.code d.code a.code 112
  | .lred o d a => pack 0x63 o.code d.code a.code 112
  | .bcast d a b => pack 0x64 0 d.code a.code b.code
  | .splitqLive d => pack 0x65 0 d.code 112 112
  | .splitqLowest d => pack 0x65 1 d.code 112 112
  | .splitqCount d => pack 0x65 2 d.code 112 112
  | .regroup id d fr n => pack 0x66 id.code d.code fr.code n.code
  | .bar id => pack 0x67 id.code 112 112 112
  | .cbar id => pack 0x68 id.code 112 112 112
  | .launchG a b => pack 0x69 0 112 a.code b.code
  | .launchL a b => pack 0x69 1 112 a.code b.code
  | .phaseend o a => pack 0x6A o.code 112 a.code 112
  | .lvl lv d => pack 0x6B (lv.code + 0) d.code 112 112
  | .lvlExt lv d => pack 0x6B (lv.code + 8) d.code 112 112
  | .placeCl d a => pack 0x6C 3 d.code a.code 112
  | .placeDie d a => pack 0x6C 4 d.code a.code 112
  | .placeRect d a => pack 0x6C 5 d.code a.code 112
  | .placeFab d a => pack 0x6C 7 d.code a.code 112
  | .texs d a b => pack 0x6D 0 d.code a.code b.code
  | .texl d a b => pack 0x6D 1 d.code a.code b.code
  | .texf d a b => pack 0x6D 2 d.code a.code b.code
  | .trace a => pack 0x6E 0 112 a.code 112
  | .resume a b => pack 0x6E 1 112 a.code b.code
  | .commit a b => pack 0x6E 2 112 a.code b.code
  | .rpalloc d => pack 0x6E 3 d.code 112 112
  | .rpfree a => pack 0x6E 4 112 a.code 112
  | .march a => pack 0x6E 5 112 a.code 112
  | .hgfetch d a b => pack 0x6E 6 d.code a.code b.code
  | .stxt d a b => pack 0x70 0 d.code a.code b.code
  | .stxw d a b => pack 0x70 1 d.code a.code b.code
  | .tkwait a => pack 0x70 2 112 a.code 112
  | .tkstat d a => pack 0x70 3 d.code a.code 112
  | .coll o a b => pack 0x71 (o.code + 0) 112 a.code b.code
  | .collPkg o a b => pack 0x71 (o.code + 4) 112 a.code b.code
  | .vbegin fr n => pack 0x72 0 112 fr.code n.code
  | .srd d r => pack 0x73 0 d.code r.code 112
  | .swr d r => pack 0x73 1 d.code r.code 112
  | .mappg a b => pack 0x73 4 112 a.code b.code
  | .bkpt code => pack 0x73 6 112 code.code 112
  | .pidx d => pack 0x73 7 d.code 112 112
  | .reservedOpcode w => w
  | .deferredSplitStart => 0
  | .watchdogBudget => 0
  | .watchdogQueue => 0
  | .headerYield => 0
  | .issueStarvation => 0
  | .issueSelect => 0
  | .barRelease => 0
  | .cbarRelease => 0
  | .regroupComplete => 0
  | .groupEnd => 0
  | .completionWrite => 0
  | .childAccept => 0
  | .workgroupResident => 0
  | .scratchDrain => 0
  | .preempt => 0
  | .restore => 0
  | .graphNodeKernel => 0
  | .graphKernelDone => 0
  | .graphNodeCond => 0
  | .graphNodeWhile => 0
  | .graphNodeJoin => 0
  | .graphNodeEnd => 0
  | .leaseExpiry => 0
  | .poolbaseWrite => 0
  | .cpycmdCommand => 0
  | .copyUnit => 0
  | .engineFault => 0
  | .gatherPush => 0
  | .matrixExecute => 0
  | .mdrainRow => 0
  | .sortSend => 0
  | .squareStart => 0
  | .batchDispatch => 0
  | .tnextRelease => 0
  | .tdoneWriteout => 0
  | .raySuspend => 0
  | .rayDone => 0
  | .rayFault => 0
  | .rayAbandon => 0
  | .rayBatchPush => 0
  | .marchBatch => 0
  | .handlerEntry => 0
  | .fatalFault => 0
  | .ticketResume => 0
  | .ticketKill => 0
  | .ticketEndContext => 0
  | .freeze => 0
  | .rd => 0
  | .rdo => 0
  | .wr => 0
  | .atom => 0
  | .inv => 0
  | .ack => 0
  | .data => 0
  | .fwd => 0
  | .wb => 0
  | .nack => 0
  | .nackResend => 0
  | .ctrl => 0
  | .controlRegisterWrite => 0
  | .routeWrite => 0
  | .regionWrite => 0
  | .ringctlWrite => 0
  | .prim => 0
  | .close => 0
  | .directoryMerge => 0
  | .migrationCommand => 0
  | .migrationCopy => 0
  | .migbaseWrite => 0
  | .tstorePacket => 0
  | .watch => 0
  | .release => 0
  | .fail => 0
  | .poll => 0
  | .watchRepoll => 0
  | .landed => 0
  | .denied => 0
  | .expired => 0
  | .refuse => 0
  | .refuseResend => 0
  | .tokenHoldExpiry => 0
  | .tokenRetire => 0
  | .collTransfer => 0
  | .fabricPacket => 0
  | .flitData => 0
  | .flitIdle => 0
  | .flitCtrl => 0
  | .keymark => 0
  | .linkDown => 0
  | .heartbeat => 0
  | .standbyTakeover => 0
  | .coldReset => 0
  | .warmReset => 0
  | .mgmtIdentity => 0
  | .mgmtAttest => 0
  | .mgmtTelemetry => 0
  | .mgmtBlackbox => 0
  | .mgmtHalt => 0
  | .mgmtResume => 0
  | .mgmtSaveread => 0
  | .mgmtWarmreset => 0
  | .mgmtColdreset => 0
  | .selectWrite => 0
  | .stepEntryWrite => 0
  | .clockRefLoss => 0
  | .fallbackClear => 0
  | .droopStretch => 0
  | .thermalTrip => 0
  | .patrolScrub => 0
  | .nop => pack 0x00 0 112 112 112
  | .yield => pack 0x26 0 112 112 112
  | .emitend => pack 0x5E 2 112 112 112
  | .tnext => pack 0x5F 2 112 112 112
  | .tdone => pack 0x5F 3 112 112 112
  | .vend => pack 0x72 1 112 112 112
  | .rft => pack 0x73 2 112 112 112
  | .kill => pack 0x73 3 112 112 112
  | .haltall => pack 0x73 5 112 112 112
  | .tkwaitHoldExpiry => 0
  | .clockRefReturn => 0
  | .linkUp => 0

/-- The instructions that R34 marks L (R36). -/
def Instr.isLong (i : Instr) : Bool :=
  match i with
  | .idiv _ _ _ _ => true
  | .irem _ _ _ _ => true
  | .ld _ _ _ _ => true
  | .ldl _ _ _ _ => true
  | .lds _ _ _ _ => true
  | .ldc _ _ _ _ => true
  | .ldd _ _ _ _ => true
  | .ldb _ _ _ _ => true
  | .atoms _ _ _ _ => true
  | .atomg _ _ _ _ => true
  | .atomc _ _ _ _ => true
  | .btset _ _ _ => true
  | .tagget _ _ => true
  | .fdiv _ _ _ _ => true
  | .mstat _ _ => true
  | .tload _ _ => true
  | .texs _ _ _ => true
  | .texl _ _ _ => true
  | .texf _ _ _ => true
  | .rpalloc _ => true
  | .hgfetch _ _ _ => true
  | .tkstat _ _ => true
  | _ => false

/-- The control-transfer instructions, which R34 marks T (R35). -/
def Instr.isTransfer (i : Instr) : Bool :=
  match i with
  | .br _ _ => true
  | .jmpr _ _ => true
  | .call _ _ => true
  | .ret _ => true
  | .exit _ => true
  | .trap _ => true
  | .regroup _ _ _ _ => true
  | .bkpt _ => true
  | .yield => true
  | .rft => true
  | .kill => true
  | _ => false

/-- The access path whose counter an instruction raises (R18, R34). -/
def Instr.path (i : Instr) : Option Path :=
  match i with
  | .ld _ _ _ _ => some .glb
  | .st _ _ _ _ => some .glb
  | .ldl _ _ _ _ => some .lane
  | .stl _ _ _ _ => some .lane
  | .lds _ _ _ _ => some .scr
  | .sts _ _ _ _ => some .scr
  | .ldc _ _ _ _ => some .clu
  | .stc _ _ _ _ => some .clu
  | .ldd _ _ _ _ => some .die
  | .std _ _ _ _ => some .die
  | .ldb _ _ _ _ => some .glb
  | .stb _ _ _ _ => some .glb
  | .atoms _ _ _ _ => some .scr
  | .atomg _ _ _ _ => some .glb
  | .redg _ _ _ => some .glb
  | .atomc _ _ _ _ => some .clu
  | .btset _ _ _ => some .glb
  | .tagset _ _ => some .glb
  | .tagget _ _ => some .glb
  | .mmaAcc _ _ _ _ => some .mat
  | .mmaSet _ _ _ _ => some .mat
  | .mfmt _ => some .mat
  | .mclr _ => some .mat
  | .mload _ _ => some .mat
  | .mstat _ _ => some .mat
  | .mdrain _ _ => some .mat
  | .mdrainMrow _ _ => some .mat
  | .mtrq _ _ => some .mat
  | .cpyl _ => some .cpy
  | .cpyt _ => some .cpy
  | .cpym _ => some .cpy
  | .gath _ _ => some .gat
  | .scat _ _ _ => some .gat
  | .emitv _ _ => some .rnd
  | .emitp _ _ => some .rnd
  | .tload _ _ => some .rnd
  | .tstore _ _ => some .rnd
  | .texs _ _ _ => some .gat
  | .texl _ _ _ => some .gat
  | .texf _ _ _ => some .gat
  | .trace _ => some .ray
  | .resume _ _ => some .ray
  | .commit _ _ => some .ray
  | .rpalloc _ => some .ray
  | .rpfree _ => some .ray
  | .march _ => some .ray
  | .hgfetch _ _ _ => some .ray
  | .stxt _ _ _ => some .fab
  | .stxw _ _ _ => some .fab
  | .tkstat _ _ => some .fab
  | .coll _ _ _ => some .fab
  | .collPkg _ _ _ => some .fab
  | .emitend => some .rnd
  | .tdone => some .rnd
  | _ => none

/-- A path's number (R18). -/
def Path.code : Path → Nat
  | .lane => 0 | .scr => 1 | .clu => 2 | .die => 3 | .glb => 4 | .cpy => 5 | .mat => 6 | .gat => 7 | .ray => 8 | .fab => 9
  | .rnd => 10

/-- The path a number names; 11 to 15 are reserved (R18). -/
def Path.ofCode? : Nat → Option Path
  | 0 => some .lane | 1 => some .scr | 2 => some .clu | 3 => some .die | 4 => some .glb | 5 => some .cpy | 6 => some .mat
  | 7 => some .gat | 8 => some .ray | 9 => some .fab | 10 => some .rnd | _ => none

/-- What the table's words name (the positions of a clause decide a word's role, R28; here a word is read as an
instruction first, and a word that is none and carries a header's tag as a header). -/
def readWord (w : Word) : Option Instr :=
  match decode w with
  | .ok i => some i
  | _ => (decodeHeader w).map .clauseHeader

/-- The bytes of a word as the hardware stores them: little-endian (R27). -/
def wordBytes (w : Word) : List Byte :=
  [BitVec.ofNat 8 w.toNat, BitVec.ofNat 8 (w.toNat / 2 ^ 8), BitVec.ofNat 8 (w.toNat / 2 ^ 16), BitVec.ofNat 8 (w.toNat / 2 ^ 24)]

/-- The word that four bytes hold (R27). -/
def wordOfBytes (bs : List Byte) : Word :=
  BitVec.ofNat 32 (bs.foldr (fun b n => b.toNat + 256 * n) 0)

/-- The decoder on any bytes: the first four are a word; fewer are no instruction. -/
def decodeBytes (bs : List Byte) : Option Instr :=
  if 4 ≤ bs.length then readWord (wordOfBytes (bs.take 4)) else none

/-- The instruction the decoder reads from an instruction whose bits are `w`, numbered as the opcode table numbers them. -/
def decodeTableWord (nbits w : Nat) : Option Instr :=
  decodeBytes (wordBytes (BitVec.ofNat 32 (w % 2 ^ nbits)))

end Sys2Proof
end

