-- ==== Sys2Proof/Config.lean ====
section
/-! DEFINITION. The free values, which have no body. -/

namespace Sys2Proof.Config

/-- The serial number of the identity record (R440). Free. -/
opaque serial : BitVec 64
/-- Bytes of the identity key and signature of the identity record, by offset (R440). Free. -/
opaque identityByte : Nat → BitVec 8
/-- The images of the boot flash, 0 stage 1, 1 host firmware, 2 rim-die firmware: length and bytes (R441). Free: the spec gives none. -/
opaque imageLength : Nat → Nat
opaque imageByte : Nat → Nat → BitVec 8
/-- Whether an attempt to boot verifies an image's signature, and whether its self-test succeeds (R441): attempt, image. Free. -/
opaque imageVerifies : Nat → Nat → Bool
opaque selfTest : Nat → Bool
/-- Byte k of the signature of a report whose bytes hash to n (R442). Free: SLH-DSA-SHAKE-256s is not modelled. -/
opaque signatureByte : Nat → Nat → BitVec 8
/-- The AES-256-GCM tag of a flit: key id, IV, bytes (R428, R429). Free: AES is not modelled. -/
opaque gcmTag : Nat → Nat → List (BitVec 8) → BitVec 128
/-- The AES-256-GCM ciphertext byte of a flit: key id, IV, position, plain byte (R428). Free. -/
opaque gcmByte : Nat → Nat → Nat → BitVec 8 → BitVec 8
/-- A choice among `n` lanes that write one byte (R224): read modulo the number of lanes. -/
opaque laneChoice : Nat → Nat → Nat
/-- Which of the two values that bracket an exact result a function within 1 ulp returns (R68): by operation, operand. -/
opaque ulpChoice : Nat → BitVec 32 → Bool
/-- Which value inside its 2 ulp bound FTANH returns (R68): an offset, read modulo the number of candidates. -/
opaque tanhChoice : BitVec 32 → Nat
/-- What happens next among the things that may, by tick and cycle: the spec gives no order between agents. Free. -/
opaque schedule : Nat → Nat → Nat
/-- What the consistency model leaves open for the accesses of the next step, by tick and cycle (R224, R230). Free. -/
opaque order : Nat → Nat → Nat
/-- A value the spec leaves unspecified, fresh for each `tick` of the state. -/
opaque freeWord : Nat → BitVec 32
/-- A byte of a saved area whose layout the spec leaves open (R370's bt slots): tick and offset. Free. -/
opaque saveByte : Nat → Nat → BitVec 8
/-- What another package answers a request: 1 denied or unreachable, 2 a tag mismatch there, otherwise granted (R406, R407);
by tick, and address or lane. -/
opaque remoteVerdict : Nat → Nat → BitVec 2
/-- A word read from another package's memory: tick, lane, index. Free: the model holds one package. -/
opaque remoteWord : Nat → Nat → Nat → BitVec 32
/-- Which 128-byte line of a die's memory answers an offset beyond its capacity: target, line (R4, R393). Free: the spec names no
outcome; read modulo the lines that exist. -/
opaque beyond : Nat → Nat → Nat
/-- Whether 32 leaves with the contiguous hint are cached as one translation, by tick (R216). Free. -/
opaque contiguous : Nat → Bool
/-- Where in the 32-byte image of a bt slot its LIMIT stands (R370): an offset, read modulo 25. Free. -/
opaque limitAt : Nat
/-- A word of a TEXS or TEXL whose level or coordinates have no value (R325): by the coordinates of the quad, the descriptor's bytes
and the channel. Free. -/
opaque texWord : List (BitVec 32) → List (BitVec 8) → Nat → BitVec 32
/-- Whether a ray test with a NaN among its operands hits, and with which distance and barycentrics (R332, R333): by the words of the
ray and the node. Free. -/
opaque rayHit : List Nat → Bool
opaque rayWord : List Nat → Nat → BitVec 32
/-- The 32 KiB frames of a die's replica pool, 0 for a pool of size 0 (R401): where system code places it and how large it is, the spec
does not give. Free. -/
opaque replicaFrames : Nat → Nat
/-- A telemetry reading (R449): temperature and power of an island at a moment. Free. -/
opaque telemetryWord : Nat → Nat → BitVec 32
/-- Where host firmware and system code start, and whether a thread runs with SR_CTX.SYS: by rim die, core and thread (R438, R441).
Free: the spec gives no image. -/
opaque firmwareEntry : Nat → Nat → Nat → BitVec 64
opaque systemThread : Nat → Nat → Nat → Bool
/-- The control-space register that a physical address names: its table (0–10 as in `Machine.ControlWrite`, 11 the identity record;
others are no register), die, index, and the offset of the byte (R387, R438). Free: the spec gives the registers no addresses. -/
opaque controlTable : Nat → Nat
opaque controlDie : Nat → Nat
opaque controlIndex : Nat → Nat
opaque controlOffset : Nat → Nat

end Sys2Proof.Config
end

