-- ==== Sys2Proof/Machine/State.lean ====
section
/-! DEFINITION. The state of the whole package as plain data, the reasons a step can stop, and the state after reset. -/

namespace Sys2Proof.Machine

open Sys2Proof

/-- The fault causes of R350. -/
inductive Cause where
  | illegalOp | illegalOperand | illegalForm | badHeader | regRange | windowRange | align | scrBounds | cluBounds | dieBounds
  | placeRange | queueUnbound | queueMisuse | pageNotPresent | pageProtection | tagMismatch | canonical | multiDenied
  | recordOverflow | watchdog | tokenExpired | trailerCheck | formatBlock | softwareTrap | breakpoint | uncorrectable
  | freeze | halt
  deriving DecidableEq, Repr

/-- What may freeze on a die (R373): a core, an engine of a core by its path, a mesh port (0 north, 1 east, 2 south, 3 west; on a
rim die its rim links, 0 and 1 in R382's order), a Lency port, a host core, the migration engine of a rim die, the die's control
unit. -/
inductive Master where
  | core (n : Nat) | engine (core path : Nat) | mesh (port : Nat) | lency (n : Nat) | host (n : Nat) | migration | control
  deriving DecidableEq, Repr

/-- A fault found and not yet delivered, with what handler entry writes (R354, R355). -/
structure Trap where
  cause : Cause
  tval : Word := 0
  taddr : Option DWord := none
  /-- SR_TVAL is a mask of failing lanes, so it chooses the handler lanes (R354). -/
  byLanes : Bool := false
  malformed : Bool := false
  noRegion : Bool := false
  remote : Bool := false
  engine : Bool := false
  /-- The resume address and clause state, when they differ from the faulting word's (R94, R100, R363). -/
  hdrAt : Option DWord := none
  /-- For an engine fault: the lanes of the receiving split that belong to the issuing mask, and the instruction (R268). -/
  lanes : LaneMask := 0
  flight : Option Nat := none
  /-- The progress index that PIDX reads (R269, R379). -/
  index : Word := 0xFFFFFFFF
  /-- Cached translations that failed with it, to be discarded: context, die, virtual address (R217). -/
  stale : List (Nat × Nat × Nat) := []
  /-- An error met by a hardware access: the die whose control unit freezes instead (R351). -/
  freezes : Option Nat := none
  /-- Another package denied the access, which is never retried (R407). -/
  denied : Bool := false
  /-- For an escalation by the handler: the lanes in which it ran (R356, R359). -/
  chosen : Option LaneMask := none
  deriving DecidableEq, Repr

/-- The clause a split is issuing (R11, R26). -/
structure Clause where
  /-- Address of the header: branch offsets count from it (R33). -/
  at_ : DWord
  /-- Address of the first word of `words`. -/
  base : DWord
  words : List Word
  idx : Nat
  active : LaneMask
  setx : Nat
  sety : Nat
  att : Bool
  /-- Only the word at `idx` issues, then the clause ends (R140, R356). -/
  only : Bool
  deriving DecidableEq, Repr

/-- Why a live split does not issue (R371 and the other holds of the spec). -/
inductive Hold where
  | none | flag | bar (id : Nat) | cbar (id : Nat) | regroup (id : Nat) | waitmem | port | queue | tnext | path | work | token | map
  /-- At a QDRAIN or QUNBIND that waits for pushes (R265). -/
  | drain
  deriving DecidableEq, Repr

/-- An entry of a queue port (R261). -/
structure Entry where
  words : List Word
  mask : LaneMask
  /-- For an MSAMPLE entry: its MARCH's number plus 1; the pop counts for that MARCH's ring (R347). -/
  note : Nat := 0
  /-- The split that pushed it and that split's issuing mask, for the words of a command (R273, R340). -/
  split : Nat := 0
  issue : LaneMask := 0
  /-- Its port has been drained since a held word took it: it does not go back (R265). -/
  gone : Bool := false
  deriving DecidableEq, Repr

/-- A split (R126, R128, R371). -/
structure Split where
  id : Nat
  mask : LaneMask
  /-- The next header's address; while a clause is being issued the clause gives the word's address. -/
  pc : DWord
  clause : Option Clause := none
  wb : Nat := 0
  pwb : Option Nat := none
  join : Option DWord := none
  inner : Option Nat := none
  wdog : Nat
  headers : Nat := 0
  /-- The cycle from which it has been ready without an issue opportunity; 0 before the first look at it (R143, R191). -/
  waited : Nat := 0
  /-- The cycle of its last issue opportunity (R99). -/
  lastIssue : Nat := 0
  hold : Hold := .none
  holdSince : Nat := 0
  /-- A WAITMEM's parked split makes a pass at its next turn; when it last parked, in ns (R256). -/
  recheck : Bool := false
  parkedAt : Nat := 0
  handler : Bool := false
  pend : Option Trap := none
  pendSeq : Nat := 0
  escalated : Bool := false
  /-- GEN of its escalation's ticket (R356). -/
  gen : BitVec 16 := 0
  /-- Only the word at this index of the clause at `pc` issues (R140). -/
  reissue : Option Nat := none
  /-- Words to fetch at `pc` and issue under this SR_TSTATE; with it the address branch offsets count from (R356, log 8). -/
  resume : Option (DWord × DWord) := none
  /-- The split's fault was fatal, so nothing delivers it again (R357). -/
  dead : Bool := false
  /-- The entries that the word it is held at has popped from its source ports (R32, R262). -/
  taken : List (Nat × Entry) := []
  /-- The latched high half of SR_GTIME (R360). -/
  gtimeHi : Option Word := none
  /-- The split descends from the opener of the group's versioned region (R364). -/
  opener : Bool := false
  /-- A YIELD since the split was last selected (R99). -/
  yielded : Bool := false
  deriving DecidableEq, Repr

/-- A rejoin record (R133, R138). -/
structure Rejoin where
  num : Nat
  joinPc : Option DWord
  expected : LaneMask
  arrived : LaneMask
  outer : Option Nat
  savedWb : Nat
  /-- The number of the DEFER record it owns (R139). -/
  defer : Option Nat
  /-- A base still pending for the interrupted clause of a handler (R131). -/
  pwb : Option Nat := none
  /-- As in the divergent split (R364, R354). -/
  opener : Bool := false
  handler : Bool := false
  deriving DecidableEq, Repr

/-- A DEFER record (R138, R139). -/
structure Deferred where
  num : Nat
  owner : Nat
  lanes : LaneMask
  addr : DWord
  reissue : Option Nat
  pwb : Option Nat := none
  opener : Bool := false
  handler : Bool := false
  deriving DecidableEq, Repr

/-- A queue port (R260). -/
structure Port where
  code : Option EnginePort := none
  entries : List Entry := []
  /-- The words of a partial CPYCMD command (R273). -/
  partialCmd : List Word := []
  /-- Entries of instructions issued before this one are discarded by a QDRAIN (R265). -/
  drain : Nat := 0
  deriving DecidableEq, Repr

/-- A base translation slot (R218, R247). -/
structure BtEntry where
  base : DWord := 0
  phys : Nat := 0
  t : Bool := false
  r : Bool := false
  w : Bool := false
  rep : Bool := false
  /-- The leaf's D and COH when the slot was filled (R215, R396). -/
  d : Bool := false
  coh : Nat := 0
  lease : Nat := 0
  limit : Nat := 0
  deriving DecidableEq, Repr

/-- Where a late result goes: a physical vector register of a lane, a scalar (R20), or a pushed entry. -/
inductive Dest where
  | vec (phys lane : Nat) (value : Word)
  | scal (n : Nat) (value : Word)
  /-- Word `k` of the entry that the instruction pushes (R104). -/
  | word (k : Nat) (value : Word)
  deriving DecidableEq, Repr

/-- A copy's descriptor (R270), as captured at issue. -/
structure CopyDesc where
  kind : Nat
  gaddr : Nat
  laddr : Nat
  ctl : Nat
  deriving DecidableEq, Repr

/-- What a GATH reads (R275): its lanes with their addresses, the width, the entries and the stride. -/
structure GatherDesc where
  bases : List (Nat × DWord)
  width : LWidth
  count : Nat
  stride : Nat
  deriving DecidableEq, Repr

/-- What a matrix instruction captured at issue (R284); kinds 0 MMA.ACC, 1 MMA.SET, 2 MCLR, 3 MLOAD, 4 MDRAIN,
5 MDRAIN.MROW, 6 MTRQ. -/
structure MatrixJob where
  kind : Nat
  tile : Nat
  a : Nat
  b : Nat
  fmt : List Byte
  seed : DWord
  deriving DecidableEq, Repr

/-- A ray's TRACE: the context, pool and slot it started, and its group, number and issuing mask, to which the ray's faults are
delivered whoever resumes it (R342). -/
structure TraceNote where
  ctx : Nat
  group : Nat
  issue : Nat
  pool : DWord
  slot : Nat
  mask : LaneMask
  deriving DecidableEq, Repr

/-- The state of a ray walk held in the traversal unit (R329, R334). -/
structure RayWalk where
  slot : Nat
  /-- The current node, coded as NODE of the state record. -/
  node : Word
  ovf : Bool := false
  /-- CTL.INST while CTL.BLAS = 1. -/
  inst : Option Nat := none
  /-- Top first, at most 14. -/
  stack : List Word := []
  had : Bool := false
  /-- A resumed procedural leaf: the next step pops it (R340). -/
  popFirst : Bool := false
  /-- SR_RPOOL at issue: the pool of the ray. -/
  pool : DWord
  /-- Its TRACE (R342). -/
  trace : TraceNote
  split : Nat
  /-- The number of the TRACE or RESUME that started it. -/
  issue : Nat
  /-- RPFREE has freed its slot: it ends at the next node boundary (R340). -/
  abandoned : Bool := false
  /-- Restored, it goes on from its state record, which the unit has still to read (R349). -/
  reload : Bool := false
  /-- The cycle in which it started or last went on (R373). -/
  unitAt : Nat := 0
  deriving DecidableEq, Repr

/-- Where a byte of global memory has its home (R393, R396): the die, the physical address, COH, whether its region is REPLREAD, and
the last moment at which an access through its translation may be performed, in ns (R219). -/
structure Home where
  die : Nat
  pa : Nat
  coh : Nat := 0
  repl : Bool := false
  limit : Nat := 0
  deriving DecidableEq, Repr

/-- A lane's write that is issued and not yet performed (R230): its bytes, their key, and the home of global ones. -/
structure LaneWrite where
  lane : Nat
  key : Nat
  bytes : List Byte
  home : Option Home := none
  /-- The TAG of the WR or ATOM that has taken it to its home. -/
  asked : Option Nat := none
  deriving DecidableEq, Repr

/-- A lane's read whose value is not yet fixed (R226, R230): the loaded bytes' key, the registers they fill, the home of global ones,
and the TAG of the request whose answer gives the value. -/
structure LateRead where
  lane : Nat
  key : Nat
  width : LWidth
  dests : List Dest
  home : Option Home := none
  asked : Option Nat := none
  /-- It reads a granule's tag of another package (R257). -/
  forTag : Bool := false
  deriving DecidableEq, Repr

/-- The read-modify-write of one address, of some lanes of an atomic instruction, that is issued and not yet performed (R230, R251):
operand v and compare value c of each lane with the registers its old value fills, lanes ascending. -/
structure AtomUnit where
  lane : Nat
  key : Nat
  op : AtomicOp
  items : List (Nat × Nat × List Dest)
  home : Option Home := none
  asked : Option Nat := none
  deriving DecidableEq, Repr

/-- A 32-byte sector that a split's other paths still see as it was before the split's writes (R228, R236): the lanes of the writing
split, the paths and instructions of the writes, the sector's bytes before them and after them, and the paths for which the writes
have become visible. -/
structure OldSector where
  lanes : LaneMask
  sources : List (Path × Nat)
  key : Nat
  bytes : List Byte
  now : List Byte
  barred : List Path := []
  deriving DecidableEq, Repr

/-- What a release, an acquire, a FENCE.SC or a rejoin orders (R136, R231). -/
inductive OrderKind where
  | rel | acq | sc | join
  deriving DecidableEq, Repr

/-- An order that a split's fence or rejoin has made (R136, R231, R233): the instructions numbered below `at_` that the lanes issued
come before what they issue later. With `wide`, at scope PNL or SYS, an access is performed when it is acknowledged; the accesses of
other groups that were not acknowledged then come before it too. -/
structure Order where
  at_ : Nat
  lanes : LaneMask
  kind : OrderKind
  wide : Bool := false
  others : List (Nat × Nat) := []
  deriving DecidableEq, Repr

/-- What remains to be done for an issued instruction (R14, R18, R267, R269). -/
inductive Work where
  /-- The results are known and wait to be written (R14); a q destination is pushed (R104). -/
  | results (ds : List Dest) (push : Option (Nat × Entry)) (bt : Option (Nat × BtEntry))
  /-- Nothing remains but its completion in path order (R18). -/
  | performed
  | copy (d : CopyDesc)
  /-- A GATH: the entries it has read and not pushed; those that follow are read again when their turn comes (R269). -/
  | gather (entries : List Entry) (desc : GatherDesc)
  | matrix (j : MatrixJob)
  | mstat (tile : Nat) (dst : Option Nat)
  /-- Entries that a MDRAIN.MROW still has to push (R292). -/
  | mrow (entries : List Entry)
  /-- Packets a EMITP or EMITEND still has to have accepted by their owners (R306, R404). -/
  | sort (left : Nat)
  /-- Tile store accesses of lanes: lane, word index (none outside the square), value (R319). -/
  | tstore (ops : List (Nat × Nat × Word))
  | tload (ops : List (Nat × Option Nat)) (d : Operand) (wb : Nat) (vec : Bool)
  | writeout
  /-- A MARCH: its descriptor, entries popped, order of acceptance, and where its next batch starts (R344–R347). -/
  | march (desc : List Byte) (popped : Nat) (order : Nat) (slot step : Nat) (pool : DWord)
  | coll (op : Nat) (pkg : Bool) (laddr ctl : Nat) (dst : DWord) (peer : Nat)
  | tokens (left : Nat)
  deriving DecidableEq, Repr

/-- An issued instruction that is not complete. Wait flags and path counters are read off the flights (R14, R18). -/
structure Flight where
  id : Nat
  split : Nat
  mask : LaneMask
  flag : Option Nat
  path : Option Path
  /-- The lanes of the issuing split, from which later parts and merged splits descend (R235, R272). -/
  lanes : LaneMask := 0
  /-- All of its results are written and its accesses performed; it waits for its turn on the path (R18). -/
  done : Bool := false
  /-- A long instruction (R269, R372). -/
  long : Bool := false
  word : Word := 0
  /-- The progress index (R269). -/
  progress : Nat := 0
  /-- An engine fault stopped it: it goes on after RFT (R268). -/
  stopped : Bool := false
  /-- An uncorrectable error in the data it read (R351). -/
  fault : Option Trap := none
  handlerMode : Bool := false
  denied : LaneMask := 0
  /-- The captured scalar operands, in field order, and the captured format block (R372). -/
  ops : List Word := []
  fmt : List Byte := []
  /-- The cycle in which it issued, which orders what a core's matrix engine accepts (R285); and the one in which it issued or last
  completed a unit (R373). -/
  issued : Nat := 0
  unitAt : Nat := 0
  /-- Its result found its port full, so its split is held (R32, R104). -/
  stuck : Bool := false
  /-- Its writes not yet performed, its reads not yet fixed, its read-modify-writes not yet performed, and the lines and registers
whose acknowledgements its die awaits (R226, R239, R391). -/
  writes : List LaneWrite := []
  late : List LateRead := []
  atoms : List AtomUnit := []
  lines : List Nat := []
  work : Work
  deriving DecidableEq, Repr

/-- An engine fault found and not delivered (R268): the issue order of its instruction, its issuing mask and path. -/
structure EngineFault where
  issue : Nat
  mask : LaneMask
  path : Nat
  trap : Trap
  deriving DecidableEq, Repr

/-- A packet on the mesh (R387). -/
structure MeshPacket where
  type : Nat
  cls : Nat := 0
  src : Nat
  dst : Nat
  tag : Nat := 0
  len : Nat := 0
  aux : Nat := 0
  addr : Nat
  payload : List Byte := []
  ctx : Nat := 0
  backoff : Nat := 64
  resendAt : Nat := 0
  /-- Answered NACK: its sender keeps it until it resends it (R391). -/
  refused : Bool := false
  /-- A fill that an INV overtook: it is not installed (R399). -/
  skip : Bool := false
  /-- The entry of its source's route table when it was injected (R388). -/
  route : Nat := 0
  /-- The model's own, which the header does not carry: the die a request is served for (52: none, of a recall), the acknowledgements its
DATA is to announce, whether it is for ownership, and whether its answer is cached (R396–R398). A COLL packet has in the first two the
group and the number of its instruction. -/
  asker : Nat := 0
  count : Nat := 0
  owns : Bool := false
  plain : Bool := false
  deriving DecidableEq, Repr

/-- A store of a versioned region to another package, held until the version is performed (R361): package, request, lane and
virtual address. -/
structure AwayStore where
  pkg : Nat
  pkt : MeshPacket
  lane : Nat
  ea : DWord
  tagged : Bool
  rims : Nat := 0
  deriving DecidableEq, Repr

/-- An open versioned region (R361). -/
structure Region where
  /-- The group's next instruction number when the region opened. -/
  since : Nat := 0
  first : Nat
  count : Nat
  header : DWord
  lanes : LaneMask
  wb : Nat
  join : Option DWord
  regs : Store 32
  preds : Store 32
  depths : List Nat
  hard : Bool := false
  /-- The version: global bytes written, newest first, by physical key. -/
  version : List (Nat × Byte) := []
  /-- Its stores to other packages, oldest first. -/
  away : List AwayStore := []
  /-- Where the lines of its other stores have their homes. -/
  homes : List Home := []
  deriving DecidableEq, Repr

/-- The handler of a group (R353, R354). -/
structure Handler where
  lanes : LaneMask
  held : LaneMask
  /-- Header address of the interrupted clause, for its branch offsets after RFT (log 8). -/
  at_ : DWord
  /-- The engine fault being handled is this instruction's (R268, R379). -/
  flight : Option Nat := none
  index : Word := 0xFFFFFFFF
  deriving DecidableEq, Repr

/-- A batch of the traversal unit's results (R338). -/
structure RayBatch where
  slots : List Nat := []
  since : Nat := 0
  /-- The lines of the slots' records, and those of pools of other packages, whose writes are to be performed before the push (R339). -/
  lines : List Nat := []
  far : List Nat := []
  deriving DecidableEq, Repr

/-- A group (R126). -/
structure Group where
  id : Nat
  wg : Nat
  /-- Context, die and core on which the group runs; host cores are on dies 48–51 (R10, R127). -/
  ctx : Nat
  die : Nat
  core : Nat
  grpx : Nat
  slot : Nat
  /-- Size Z of a lane's slice (R199). -/
  sliceSize : Nat := 512
  regCount : Nat
  /-- Vector registers: key physical register × 32 + lane (R19). -/
  regs : Store 32 := []
  /-- Scalars: key n (R126). -/
  scalars : Store 32 := []
  /-- Predicates: key n, value the lanes whose p_n is 1 (R9). -/
  preds : Store 32 := []
  /-- Lanes that have retired or never existed (R97). -/
  retired : LaneMask := 0
  splits : List Split := []
  nextSplit : Nat := 1
  joins : List Rejoin := []
  defers : List Deferred := []
  /-- Record numbers, the most recently referenced first; the first 16 are on chip (R137). -/
  recent : List Nat := []
  /-- The entry clause header, from which record addresses count (R138). -/
  entry : DWord := 0
  /-- Call stacks, one list per lane, top first (R95, R149). -/
  calls : List (List DWord) := List.replicate 32 []
  flights : List Flight := []
  nextFlight : Nat := 0
  /-- Sectors that other paths of the writing split still see as they were (R236). -/
  olds : List OldSector := []
  /-- What the splits' fences and rejoins order (R136, R231). -/
  orders : List Order := []
  /-- Engine faults found and not delivered, in the order found (R268). -/
  efaults : List EngineFault := []
  ports : List Port := List.replicate 8 {}
  bt : List BtEntry := List.replicate 8 {}
  /-- SR_FSTAT (R65), SR_RSEED and SR_RCNT (R64), SR_BUDGET (R147), SR_QLIMIT (R148), SR_HGBASE (R348), SR_RPOOL (R326). -/
  fstat : BitVec 5 := 0
  rseed : Word := 0
  rcnt : Word := 0
  budget : BitVec 24 := 0x100000
  qlimit : BitVec 6 := 26
  hgbase : DWord := 0
  rpool : DWord := 0
  /-- SR_TPC, SR_CAUSE, SR_TVAL, SR_TADDR and SR_TSTATE (R101, R268, R355). -/
  tpc : DWord := 0
  causeReg : Word := 0
  tval : Word := 0
  taddr : DWord := 0
  tstate : DWord := 0
  /-- SR_VSTAT's HREASON, LAST, ABORTS and HARDENS (R363); OPEN and HARD are read off `region`. -/
  hreason : BitVec 3 := 0
  last : BitVec 2 := 0
  aborts : Byte := 0
  hardens : Byte := 0
  region : Option Region := none
  handler : Option Handler := none
  escGen : BitVec 16 := 0
  clauses : DWord := 0
  /-- The format state (R280): none or 32 bytes. -/
  fmt : Option (List Byte) := none
  seed : DWord := 0
  qsat : BitVec 14 := 0
  rays : List RayWalk := []
  hitBatch : RayBatch := {}
  isectBatch : RayBatch := {}
  /-- Task state: vertex store words by key 4 × vertex + component, next primitive index, closed, packets per owner (R304, R370). -/
  verts : Store 32 := []
  prims : Nat := 0
  closed : Bool := false
  sent : List Nat := []
  /-- Batch group: its dispatch number and covered lanes (R314, R315). -/
  batch : Option (Nat × LaneMask) := none
  /-- Fixed values of SR_CTX.SYS and DBG-independent identity: a host-core thread (R10). -/
  isHost : Bool := false
  sys : Bool := false
  target : Nat := 0
  ticketLow : Word := 0
  nextSeq : Nat := 0
  deriving DecidableEq, Repr

/-- The execution of one square (R312–R322). -/
structure Square where
  pass : Nat
  owner : Nat
  sid : Nat
  sub : Nat := 0
  /-- Packets in the owner's parameter buffer, the next one the current sub-pass takes, and its next block (R314). -/
  total : Nat
  next : Nat := 0
  block : Nat := 0
  dispatch : Nat := 0
  /-- Coverage of every batch dispatched and not ended: dispatch number, block, coverage, group id (R318). -/
  running : List (Nat × Nat × LaneMask × Nat) := []
  tdone : Bool := false
  /-- The write-out of R322 is complete. -/
  written : Bool := false
  deriving DecidableEq, Repr

/-- The logical fabric ring (R408): its size, this package's position, and its packages: key position, bit 15 VALID. -/
structure Ring where
  size : Nat := 1
  pos : Nat := 0
  tab : Store 16 := [(0, 0x8000)]
  deriving DecidableEq, Repr

/-- A resident (or saved) workgroup (R127, R185). -/
structure Workgroup where
  id : Nat
  launch : Nat
  w : Nat
  die : Nat
  core : Nat
  scratchBase : Nat := 0
  accumBase : Nat := 0
  groups : List Nat
  /-- The slots of its groups, by group index (R356), and SR_RSEED's start value (R184). -/
  slots : List Nat := []
  rseed : Word := 0
  /-- Status words of the accumulator tiles: key tile, value NAN, OVF and SAT (R279). -/
  tiles : Store 32 := []
  square : Option Square := none
  saved : Bool := false
  /-- The distributor is stopping it (R365). -/
  stopping : Bool := false
  /-- The ring when it became resident (R172, R408). -/
  ring : Ring := {}
  deriving DecidableEq, Repr

/-- A level entry of a launch record (R179). -/
structure LevelEntry where
  valid : Bool
  domain : Nat
  scope : Nat
  extent : Nat
  deriving DecidableEq, Repr

/-- A launch record (R178). -/
structure LaunchRec where
  entry : DWord := 0
  regs : Nat := 96
  groups : Nat := 1
  scratch : Nat := 0
  lanestore : Nat := 0
  diescratch : Nat := 0
  accum : Nat := 0
  prio : Nat := 0
  queue : Nat := 0
  preempt : Nat := 0
  rectf : Nat := 1
  rectr : Nat := 1
  flags : Nat := 0
  wgtotal : Nat := 1
  completion : DWord := 0
  phase : DWord := 0
  args : DWord := 0
  levels : List LevelEntry := []
  deriving DecidableEq, Repr

/-- Where a launch stands (R183). -/
inductive LaunchState where
  | pending | running | finished (status : Nat)
  deriving DecidableEq, Repr

/-- An accepted launch (R181–R187). -/
structure Launch where
  id : Nat
  ctx : Nat
  record : LaunchRec
  addr : DWord
  arg : Word
  seq : Word
  age : Nat
  /-- The issuing render die, when a device group issued it (R186). -/
  fromDie : Option Nat := none
  origin : Option (Nat × Nat) := none
  /-- Workgroup indices (squares of a pixel launch) made resident, newest first. -/
  placed : List Nat := []
  /-- Workgroups that have ended. -/
  ended : Nat := 0
  state : LaunchState := .pending
  pass : Option Nat := none
  /-- The first 28 bytes of the argument block of a launch that names a pass (R299). -/
  argBytes : List Byte := []
  /-- Squares of a pixel launch that are finished (R322). -/
  finished : List Nat := []
  /-- Dies on which its die scratchpad is allocated (R208). -/
  scratchDies : List Nat := []
  /-- Squares that pre-emption has discarded and that are to start again (R189, R323). -/
  again : List Nat := []
  deriving DecidableEq, Repr

/-- A child created by LAUNCH and not yet accepted (R168, R169). -/
structure Child where
  ctx : Nat
  addr : DWord
  arg : Word
  host : Bool
  fromDie : Option Nat
  /-- The record's 128 bytes as read when the child was created: they name its queue. Acceptance reads the record again (R452). -/
  bytes : List Byte
  /-- The issuing group, and its next instruction number at LAUNCH: what the group issued before is performed first (R169). -/
  after : Option (Nat × Nat) := none
  /-- The graph and cursor that wait for it (R193). -/
  graph : Option (Nat × Nat) := none
  deriving DecidableEq, Repr

/-- A cursor of a task graph (R193). -/
structure Cursor where
  id : Nat
  node : Nat
  /-- The launch whose completion the cursor awaits; `waiting` while its child is not yet accepted. -/
  launch : Option Nat := none
  waiting : Bool := false
  /-- It has started the fork of the node at which it stands. -/
  forked : Bool := false
  deriving DecidableEq, Repr

/-- A task graph being walked (R192, R193). -/
structure Graph where
  id : Nat
  launch : Nat
  cursors : List Cursor
  nextCursor : Nat := 1
  deriving DecidableEq, Repr

/-- A primitive packet or close marker on its way or held (R307). -/
structure SortPacket where
  id : Nat
  pass : Nat
  owner : Nat
  src : Nat
  close : Bool
  turn : Nat
  bytes : List Byte
  /-- Owner sequence of a packet, full count of a marker. -/
  num : Nat
  group : Nat
  flight : Nat
  sent : Bool := false
  deriving DecidableEq, Repr

/-- One owner's reorder state of a pass (R309). -/
structure Owner where
  oldest : Nat × Nat := (0, 0)
  released : Nat := 0
  held : List SortPacket := []
  stored : Nat := 0
  closed : Bool := false
  deriving DecidableEq, Repr

/-- A pass (R300). -/
structure Pass where
  id : Nat
  ctx : Nat
  desc : DWord
  bytes : List Byte
  rectf : Nat
  rectr : Nat
  origin : Option (Nat × Nat) := none
  owners : List Owner := []
  pixel : Option Nat := none
  failed : Bool := false
  shading : Bool := false
  /-- The counts of DRAWTAB that are known (R303): draw, task groups. -/
  draws : List (Nat × Nat) := []
  deriving DecidableEq, Repr

/-- What a save area holds of one workgroup (R369). -/
structure SaveArea where
  die : Nat
  wg : Nat
  bytes : List Byte
  deriving DecidableEq, Repr

/-- A fault record (R359), as fields. -/
structure FaultRecord where
  kind : Nat
  trap : Trap
  /-- CODE of a record that reports no fault: the spec gives it no cause (log 4). -/
  openCode : Option (BitVec 6) := none
  nested : Bool := false
  ctx : Nat
  master : Nat
  die : Nat
  core : Nat := 0xFF
  slot : Nat := 0
  grpx : Nat := 0xFF
  lanes : LaneMask := 0
  pc : DWord := 0
  lseq : Word := 0
  ticket : DWord := 0
  w : Nat := 0
  /-- The die whose control unit writes it, when it is not `die` (R439). -/
  writer : Option Nat := none
  deriving DecidableEq, Repr

/-- A context's registers (R376). -/
structure Context where
  dbg : Bool := false
  bkhalt : Bool := false
  tvec : DWord := 0
  ptbr : DWord := 0
  lease : BitVec 7 := 8
  hold : BitVec 16 := 200
  fqueue : DWord := 0
  /-- Stopped by a fatal fault (R357). -/
  stopped : Bool := false
  deriving DecidableEq, Repr

/-- A global line in the L1 of a core (R209): the line's key divided by 128, and its bytes. -/
structure L1Line where
  die : Nat
  host : Bool
  core : Nat
  line : Nat
  bytes : List Byte
  deriving DecidableEq, Repr

/-- What the consistency model leaves open for the accesses of the next step (R209, R223, R224, R230, R236). Free: `State.plan`
takes it from `Config.order` before every turn, and at reset it allows nothing (log 6). -/
structure Loose where
  /-- Lanes whose writes are performed after they issue. -/
  delay : LaneMask := 0
  /-- Lanes whose reads are fixed when their instruction completes. -/
  late : LaneMask := 0
  /-- Other paths of the split go on seeing the old bytes of a write that is performed now. -/
  old : Bool := false
  /-- A load may be answered by a line of the core's L1, and may leave its lines there; a walk may start from a cached non-leaf entry,
and may leave those it meets (R219). -/
  hit : Bool := false
  fill : Bool := false
  /-- A MAPPG takes its frame now and compares and swaps later. -/
  slow : Bool := false
  /-- A later access of a path is performed before its oldest one. -/
  ahead : Bool := false
  deriving DecidableEq, Repr

/-- A MAPPG between the taking of its frame and its compare-and-swap (R223): the split, its die, the leaf's physical address, the
new value, and the frame. -/
structure MapJob where
  group : Nat
  split : Nat
  die : Nat
  leaf : Nat
  new : Nat
  frame : Nat
  deriving DecidableEq, Repr

/-- A cached translation, in the L2 TLB of a die or in the L1 TLB of one of its cores (R217, R219): `core` is the core's number, 64
more for a host core. -/
structure Tlb where
  ctx : Nat
  die : Nat
  core : Option Nat
  page : Nat
  size : Nat
  frame : Nat
  leaf : DWord
  expiry : Nat
  deriving DecidableEq, Repr

/-- A non-leaf entry that a die's walker has cached (R219): the table to which the index bits above `low` of an address lead, and its
level. -/
structure WalkEntry where
  ctx : Nat
  die : Nat
  lvl : Nat
  low : Nat
  high : Nat
  table : Nat
  expiry : Nat
  deriving DecidableEq, Repr

/-- A line in the L2 of a die (R210, R396, R398): its physical address, and the key of its first byte. A line of another home has its
bytes as they were filled; `own` says the die may write it. A line of the die's own home is as memory is. -/
structure L2Line where
  die : Nat
  line : Nat
  key : Nat
  bytes : List Byte := []
  own : Bool := false
  deriving DecidableEq, Repr

/-- A request to another package that waits for its answer (R407, R425, R427): its TAG, address and source die, the instruction and lanes
it is for, the package, the virtual address that a denial reports, and whether the access compares tags. -/
structure Ask where
  tag : Nat
  addr : Nat
  src : Nat
  group : Nat
  flight : Nat
  lanes : LaneMask
  pkg : Nat
  va : DWord
  tagged : Bool
  index : Word := 0xFFFFFFFF
  /-- It waits for no data: a store. -/
  write : Bool := false
  deriving DecidableEq, Repr

/-- An entry of a token table (R410). -/
structure TokenEntry where
  state : BitVec 2 := 0
  gen : BitVec 6 := 0
  count : Nat := 0
  anyDenied : Bool := false
  /-- Package and die of each watcher. -/
  watchers : List (Nat × Nat) := []
  history : BitVec 64 := 0
  /-- When it became LANDED or FAILED, in cycles; and its order of retirement. -/
  since : Nat := 0
  retired : Nat := 0
  deriving DecidableEq, Repr

/-- A fabric packet (R427): the mesh header with its extension. -/
structure FabricPacket where
  pkt : MeshPacket
  spkg : Nat
  dpkg : Nat
  eseq : Nat
  lane : Nat
  /-- For a packet that arrives: the rim die it enters at (R405); for one that is sent, the DIESET whose rim dies may carry it (R427). -/
  rim : Nat := 48
  rims : Nat := 15 * 2 ^ 48
  /-- For a packet that this package keeps until it is acknowledged: the plane it was last sent on (R427). -/
  plane : Option Nat := none
  /-- The group and outstanding instruction whose access it carries, which is performed when it is acknowledged (R226). -/
  owner : Option (Nat × Nat) := none
  deriving DecidableEq, Repr

/-- Where a token store stands (R412–R418). -/
inductive StorePhase where
  /-- On its way, refused (its sender knows or is to know it), held for RELEASE or FAIL, held and polling. -/
  | sent | refused | held | polling
  /-- A request whose turn on its line has come (R418). -/
  | ready
  /-- Behind a held store of its line (R418). -/
  | behind
  /-- At another package. -/
  | away
  /-- Performed, discarded as BROKEN or as TIMEOUT: the report is under way. -/
  | landed | broken | expired
  deriving DecidableEq, Repr

/-- A token store on its way, held or refused (R412–R418). -/
structure HeldStore where
  id : Nat
  src : Nat
  dst : Nat
  /-- Issuing group, flight and lane, when of this package. -/
  group : Nat
  flight : Nat
  lane : Nat
  phys : Nat
  va : DWord
  value : Word
  token : Word
  issue : Bool
  limit : Nat
  phase : StorePhase := .sent
  /-- The package it came from, when it is not this one's, and the TAG its packet carried; the package it goes to, when it is not
this one's (R416). -/
  pkg : Option Nat := none
  tag : Nat := 0
  away : Option Nat := none
  /-- Its access compares tags (R221). -/
  tagged : Bool := false
  since : Nat := 0
  nextAt : Nat := 0
  backoff : Nat := 256
  /-- A request of another package to the same line, behind its token stores (R418). -/
  request : Option FabricPacket := none
  deriving DecidableEq, Repr

/-- Where a TKWAIT's question about a token stands (R415, R419): asked, polling, answered. -/
inductive WaitPhase where
  | asked | polling | landed | failed
  deriving DecidableEq, Repr

/-- A token of another die for which a split's TKWAIT waits (R419). -/
structure TokenWait where
  die : Nat
  group : Nat
  split : Nat
  token : Word
  phase : WaitPhase := .asked
  nextAt : Nat := 0
  deriving DecidableEq, Repr

/-- A directory region (R397). -/
structure DirRegion where
  base : Nat
  size : Nat
  owned : Bool
  sharers : BitVec 52
  lastUse : Nat
  deriving DecidableEq, Repr

/-- A die that counts acknowledgements for a line (R398), or a home that counts those of a REPLREAD region's copies (R393), for a
writer's die, or those of a recall, for which the writer is 52 (R397). -/
structure AckCount where
  die : Nat
  line : Nat
  expect : Option Nat
  got : Nat
  writer : Nat
  deriving DecidableEq, Repr

/-- A migration command being run (R402). -/
structure Migration where
  rim : Nat
  cmd : Nat
  pte : Nat
  dest : Nat
  ctx : Nat
  tier : Nat
  old : DWord
  start : Nat
  /-- L: SR_LEASE.MAX of the context, read when the wait begins, in µs. -/
  lease : Nat
  deriving DecidableEq, Repr

/-- A 16-byte event of the black box (R374), as fields. -/
structure BoxEvent where
  time : Nat
  kind : Nat
  source : Nat
  data : DWord
  deriving DecidableEq, Repr

/-- A die (R382, R383). -/
structure Die where
  poolbase : Nat := 0
  poolArmed : Bool := true
  spare : Option Nat := none
  tokens : List (Nat × TokenEntry) := []
  nextRetire : Nat := 1024
  /-- Route entries other than 0: key destination × 4 + class (R388). -/
  routes : Store 8 := []
  directory : List DirRegion := []
  box : List BoxEvent := []
  /-- Record sequence numbers of the die's sources: key source (R360). -/
  recSeq : Store 32 := []
  migbase : Nat := 0
  corrected : Nat := 0
  uncorrected : Nat := 0
  reset : Nat := 0
  deriving DecidableEq, Repr

/-- An entry of the region table (R392, R405), as its 32 bytes' fields. -/
structure RegionEntry where
  base : Nat := 0
  size : Nat := 0
  dieset : Nat := 0
  valid : Bool := false
  stride : Nat := 0
  mode : Nat := 0
  /-- Bytes 24–29. -/
  dbase : Nat := 0
  target : Nat := 0
  /-- Byte 31. -/
  pkgHi : Nat := 0
  reserved : Bool := true
  deriving DecidableEq, Repr

/-- An entry of the import table (R406). -/
structure ImportEntry where
  base : Nat := 0
  size : Nat := 0
  srcLo : Nat := 0
  srcHi : Nat := 0
  ctx : Nat := 0
  perm : Nat := 0
  deriving DecidableEq, Repr

/-- A queue entry (R182). -/
structure Queue where
  ctx : Nat := 0
  ctl : Nat := 0
  depth : Nat := 1
  seq : Word := 0
  refused : Word := 0
  deriving DecidableEq, Repr

/-- An island of clock and supply (R444, R445). -/
structure Island where
  /-- Step entries that differ from reset: key step, FREQ × 4096 + VOLT. -/
  steps : Store 32 := []
  select : Nat := 0
  stored : Option Nat := none
  lost : Bool := false
  fallback : Bool := false
  deriving DecidableEq, Repr

/-- The secrets of one direction of a link: salt and two key slots (R429). -/
structure LinkKeys where
  salt : BitVec 32 := 0
  key0 : BitVec 256 := 0
  key1 : BitVec 256 := 0
  deriving DecidableEq, Repr

/-- One link of a Lency port: link k of port p is 4 × p + k (R426, R429–R431). -/
structure Link where
  id : Nat
  up : Bool := true
  /-- The outgoing direction: secrets, slot in use, invocation counter, switch point. -/
  keysOut : LinkKeys := {}
  slot : Nat := 0
  counter : Nat := 0
  switchAt : Option Nat := none
  /-- The incoming direction: secrets, the slot of the last flit and the invocations seen under it, the slot not idle, consecutive
  authentication failures. -/
  keysIn : LinkKeys := {}
  seenSlot : Nat := 0
  seen : Nat := 0
  slotIn : Nat := 0
  fails : Nat := 0
  deriving DecidableEq, Repr

/-- A flit that its port keeps until it is acknowledged: sequence number, type, plain payload, link it went out on (R428). -/
structure KeptFlit where
  seq : Nat
  type : Nat
  body : List Byte
  link : Nat
  deriving DecidableEq, Repr

/-- A flit received and waiting for its turn (R428). -/
structure HeldFlit where
  seq : Nat
  type : Nat
  body : List Byte
  link : Nat
  slot : Nat
  deriving DecidableEq, Repr

/-- A Lency port's flit sequence state (R428). -/
structure LencyPort where
  id : Nat
  nextSend : Nat := 0
  nextRecv : Nat := 0
  window : List HeldFlit := []
  retry : List KeptFlit := []
  deriving DecidableEq, Repr

/-- A flit on a link: header fields, the encrypted payload, the authentication tag and the CRC (R428). -/
structure Flit where
  link : Nat
  type : Nat
  flags : Nat := 0
  seq : Nat
  ack : Nat
  nak : Nat := 0
  body : List Byte
  tag : BitVec 128
  crc : Word
  deriving DecidableEq, Repr

/-- An end-to-end acknowledgement (R427): the other package, the lane, the ESEQ. -/
structure FabricAck where
  pkg : Nat
  lane : Nat
  eseq : Nat
  deriving DecidableEq, Repr

/-- A notification of a collective that waits for a FABRX port (R424). -/
structure Notice where
  die : Nat
  /-- The launch whose groups receive it; for one from another package, the context. -/
  launch : Option Nat
  ctx : Nat
  word : Word
  deriving DecidableEq, Repr

/-- A write to the control space (R438): which table, which index, and the value's bytes as a number. Tables: 0 queue entry,
1 region entry, 2 route entry (index destination × 4 + class), 3 import entry, 4 POOLBASE, 5 MIGBASE, 6 ring items (0 RINGCTL,
1 PKGID, 2 + k RINGTAB[k]), 7 SELECT (index the island), 8 step entry (index island × 16 + step), 9 SWITCHAT (index the link),
10 key registers (index link × 8 + 4 × direction + 0 and 1 for the key slots, 2 for the salt; direction 0 out, 1 in). -/
structure ControlWrite where
  table : Nat
  die : Nat
  index : Nat
  value : Nat
  sys : Bool
  /-- The bytes written, when they are not the whole of it: the first one's offset and how many. -/
  part : Option (Nat × Nat) := none
  /-- Source die, tag and address of the CTRL access that made it (R391). -/
  origin : Option (Nat × Nat × Nat) := none
  deriving DecidableEq, Repr

/-- A management request (R449) and its response. -/
structure MgmtMessage where
  op : Nat
  status : Nat := 0
  /-- Payload bytes. -/
  len : Nat := 0
  seq : Nat := 0
  arg : DWord := 0
  payload : List Byte := []
  deriving DecidableEq, Repr

/-- Something that happens next that no program's word makes: which of the things waiting it takes, and the event. -/
structure Happening where
  chosen : Nat := 0
  event : Instr
  deriving DecidableEq, Repr

/-- What the identity record says of the part (R1, R2, R440): the ordering code (0 TJP48-F, 1 TJP48-S, 2 TJM48-F, 3 TJM48-S), the
live count, and the live-die and pass-through masks. Which part it is, is the model's choice in `State.reset` (log 12). -/
structure Identity where
  code : Nat := 0
  count : Nat := 48
  live : Nat := 2 ^ 48 - 1
  pass : Nat := 0
  deriving DecidableEq, Repr

/-- The whole package. -/
structure State where
  ident : Identity := {}
  groups : List Group := []
  workgroups : List Workgroup := []
  launches : List Launch := []
  children : List Child := []
  saves : List SaveArea := []
  /-- The queue served last, for the round-robin of R187. -/
  lastQueue : Nat := 127
  graphs : List Graph := []
  passes : List Pass := []
  sorts : List SortPacket := []
  contexts : List Context := List.replicate 64 {}
  dies : List Die := List.replicate 52 {}
  queues : List Queue := List.replicate 128 {}
  regions : List RegionEntry := []
  imports : List ImportEntry := []
  /-- Every byte of the package's memories, by space and offset (R197, R393); an unlisted byte reads 0 (log 3). -/
  mem : Store 8 := []
  /-- Tags of 32-byte granules, by the key of the granule's first byte divided by 32 (R221). -/
  tags : Store 4 := []
  tlb : List Tlb := []
  /-- The non-leaf entries that the walkers have cached (R219). -/
  walks : List WalkEntry := []
  /-- The lines of the L1 caches, newest first (R209). -/
  l1 : List L1Line := []
  mapping : List MapJob := []
  held : List HeldStore := []
  /-- Tokens of other dies for which TKWAITs wait (R419). -/
  waits : List TokenWait := []
  packets : List MeshPacket := []
  acks : List AckCount := []
  /-- Replica holders: page's physical address and die (R401). -/
  replicas : List (Nat × Nat) := []
  /-- The lines of the L2 caches, newest first (R210, R396). -/
  l2 : List L2Line := []
  /-- Requests to other packages not yet answered (R407). -/
  asks : List Ask := []
  /-- ATOM packets of other packages that wait for the rest of their read-modify-write (R251). -/
  parts : List FabricPacket := []
  /-- The TRACEs of rays not yet traced anew (R342). -/
  traces : List TraceNote := []
  migrations : List Migration := []
  pkgid : Nat := 0
  ringP : Nat := 1
  ringPos : Nat := 0
  /-- RINGTAB in force and staged: 512 entries, position to package number and VALID; entries not listed read 0. -/
  ringtab : Store 16 := [(0, 0x8000)]
  stagedId : Nat := 0
  stagedTab : Store 16 := [(0, 0x8000)]
  islands : List Island := List.replicate 640 {}
  links : List Link := []
  lency : List LencyPort := []
  /-- Next ESEQ to deliver per source package, destination package and lane; and packets waiting for their turn (R427). -/
  eseqIn : Store 16 := []
  eseqOut : Store 16 := []
  fabricWait : List FabricPacket := []
  /-- End-to-end acknowledgements that have arrived, and those sent (R427). -/
  eackIn : List FabricAck := []
  eackOut : List FabricAck := []
  fabricIn : List FabricPacket := []
  fabricOut : List FabricPacket := []
  /-- Notifications of collectives not yet pushed (R424). -/
  notices : List Notice := []
  flitsIn : List Flit := []
  flitsOut : List Flit := []
  controlWrites : List ControlWrite := []
  mgmtIn : List MgmtMessage := []
  mgmtOut : List MgmtMessage := []
  /-- Fatal faults taken whose context is not yet stopped (R357), oldest first. -/
  fatals : List FaultRecord := []
  /-- Sectors with an uncorrectable error, by the key of their first byte (R351). -/
  poison : List Nat := []
  /-- Frozen masters, each with its die (R373). -/
  frozen : List (Nat × Master) := []
  halted : Bool := false
  haltedAt : Nat := 0
  /-- Which rim die's control unit is active: 48 or 50 (R439). -/
  active : Nat := 48
  heartbeat : Nat := 0
  powered : Bool := true
  bootCount : DWord := 0
  booted : Bool := true
  /-- The images that boot has verified, which M measures (R441). -/
  measured : Nat := 3
  /-- Host firmware and system code have been started on the rim dies (R441). -/
  firmware : Bool := false
  cycle : Nat := 0
  ns : Nat := 0
  nextId : Nat := 0
  nextAge : Nat := 0
  /-- The model's own: the split that issues next (group id, split id). -/
  cur : Option (Nat × Nat) := none
  /-- The split that issued last on each datapath (R191). -/
  lasts : List (Nat × Nat) := []
  /-- The model's own: the split `cur` has just been selected, so it tries its word even when held. -/
  granted : Bool := false
  /-- The model's own: alternates issue and the machine's other agents. -/
  turn : Bool := false
  /-- The model's own: which of the waiting packets, writes or requests the next event takes. -/
  chosen : Nat := 0
  /-- The model's own: what the order of the next step's accesses leaves open. -/
  loose : Loose := {}
  /-- The model's own: counts the turns of the machine's agents, every other one of which takes them in rotation (R242). -/
  fair : Nat := 0
  /-- The model's own: what happens next. -/
  agenda : List Happening := []
  /-- The model's own: counts the free values taken. -/
  tick : Nat := 0
  deriving DecidableEq, Repr

/-- Why a step answers a fault: the machine as modelled has no next state. -/
inductive Fault where
  /-- Raised by every instruction's meaning when no split is selected to issue it, which no run of `step` does (safe). -/
  | noIssuer
  deriving DecidableEq, Repr

/-- Why a step answers a refusal. -/
inductive Refusal where
  /-- Raised by `exec` for an instruction without a meaning (safe). -/
  | notModelled (mnemonic : String)
  deriving DecidableEq, Repr

/-- The region table that boot builds (R395): entry d is the heap of render die d, 32 GiB at d × 64 GiB (log 12). -/
def bootRegions : List RegionEntry :=
  (List.range 48).map fun d =>
    { base := d * 2 ^ 36, size := 2 ^ 35, dieset := 2 ^ d, valid := true, stride := 9 }

/-- The machine right after reset and boot (R182, R388, R392, R395, R408, R444): no work, queues disabled. -/
def State.reset : State := { regions := bootRegions }

end Sys2Proof.Machine
end

