-- ==== Sys2Proof/Machine/Bits.lean ====
section
/-! DEFINITION. Bit fields, byte order and the sparse store's read and write. -/

namespace Sys2Proof.Machine

open Sys2Proof

/-- The value of a key: the first entry that lists it, 0 when none does. -/
def sread {w : Nat} (st : Store w) (k : Nat) : BitVec w :=
  match st with
  | [] => 0
  | (a, x) :: t => if a = k then x else sread t k

/-- Take a key out of a store. -/
def sremove {w : Nat} (st : Store w) (k : Nat) : Store w := st.filter fun e => e.1 ≠ k

/-- Put an entry before the first larger key. -/
def sinsert {w : Nat} (st : Store w) (k : Nat) (v : BitVec w) : Store w :=
  match st with
  | [] => [(k, v)]
  | (a, x) :: t => if a < k then (a, x) :: sinsert t k v else (k, v) :: (a, x) :: t

/-- Set a key's value, keeping the canonical form: keys rise strictly and no entry is 0. -/
def swrite {w : Nat} (st : Store w) (k : Nat) (v : BitVec w) : Store w :=
  if v = 0 then sremove st k else sinsert (sremove st k) k v

/-- Every key of the store is above `lo`. -/
def sabove {w : Nat} (lo : Nat) (st : Store w) : Bool :=
  match st with
  | [] => true
  | (a, _) :: _ => lo < a

/-- The canonical form of a sparse store. -/
def swf {w : Nat} (st : Store w) : Bool :=
  match st with
  | [] => true
  | (a, x) :: t => x ≠ 0 && sabove a t && swf t

/-- The canonical form of a byte memory. -/
abbrev Memory.wf (m : Store 8) : Bool := swf m

/-- Remove the keys of a range. -/
def sclear {w : Nat} (st : Store w) (lo n : Nat) : Store w := st.filter fun e => !(lo ≤ e.1 && e.1 < lo + n)

/-- Bits lo to lo + len − 1 of a number. -/
def bits (n lo len : Nat) : Nat := n / 2 ^ lo % 2 ^ len

/-- Bit k of a number. -/
def bit (n k : Nat) : Bool := n / 2 ^ k % 2 = 1

/-- The signed value of the low w bits of a number. -/
def signed (w n : Nat) : Int :=
  let x := n % 2 ^ w
  if x < 2 ^ (w - 1) then (x : Int) else (x : Int) - (2 ^ w : Nat)

/-- The w-bit pattern of an exact integer (R57). -/
def wrap (w : Nat) (t : Int) : Nat := (t % ((2 ^ w : Nat) : Int)).toNat

/-- `n` bytes of a number, least significant first. -/
def bytesOf (n : Nat) (x : Nat) : List Byte :=
  match n with
  | 0 => []
  | k + 1 => BitVec.ofNat 8 x :: bytesOf k (x / 256)

/-- The number that bytes hold, least significant first. -/
def ofBytes (bs : List Byte) : Nat :=
  match bs with
  | [] => 0
  | b :: t => b.toNat + 256 * ofBytes t

/-- The field of `n` bytes at byte `at` of a structure (R178 and the other byte maps). -/
def fieldAt (bs : List Byte) (at_ n : Nat) : Nat := ofBytes ((bs.drop at_).take n)

/-- The lanes of a mask, ascending. -/
def lanesOf (m : LaneMask) : List Nat := (List.range 32).filter fun l => bit m.toNat l

/-- The lowest lane of a mask; 0 for the empty mask. -/
def lowestLane (m : LaneMask) : Nat := (lanesOf m).headD 0

/-- The mask of a list of lanes. -/
def maskOf (ls : List Nat) : LaneMask := ls.foldl (fun m l => m ||| laneBit l) 0

/-- The number of lanes of a mask. -/
def laneCountOf (m : LaneMask) : Nat := (lanesOf m).length

def inMask (m : LaneMask) (l : Nat) : Bool := bit m.toNat l

/-- The number of 1 bits among the low n bits. -/
def popcount (n x : Nat) : Nat := ((List.range n).filter fun k => bit x k).length

/-- The ascending set bits among the low n bits. -/
def setBits (n x : Nat) : List Nat := (List.range n).filter fun k => bit x k

/-- A 64-bit value from its low and high words. -/
def join64 (lo hi : Word) : DWord := BitVec.ofNat 64 (lo.toNat + 2 ^ 32 * hi.toNat)

def lowWord (d : DWord) : Word := BitVec.ofNat 32 d.toNat
def highWord (d : DWord) : Word := BitVec.ofNat 32 (d.toNat / 2 ^ 32)

/-- Sign-extend a word to 64 bits. -/
def sext64 (x : Word) : DWord := BitVec.ofNat 64 (wrap 64 (signed 32 x.toNat))

/-- Zero-extend a word to 64 bits. -/
def zext64 (x : Word) : DWord := BitVec.ofNat 64 x.toNat

/-- ceil(a / b). -/
def ceilDiv (a b : Nat) : Nat := (a + b - 1) / b

/-- Round up to a multiple. -/
def roundUp (a m : Nat) : Nat := ceilDiv a m * m

/-- Remove the first occurrence of an element. -/
def removeFirst {α : Type} [DecidableEq α] (l : List α) (a : α) : List α :=
  match l with
  | [] => []
  | b :: t => if a = b then t else b :: removeFirst t a

/-- Replace the element at an index; other indices and a short list stay. -/
def setAt {α : Type} (l : List α) (n : Nat) (x : α) : List α :=
  match l, n with
  | [], _ => []
  | _ :: t, 0 => x :: t
  | h :: t, k + 1 => h :: setAt t k x

/-- Change the element at an index. -/
def modAt {α : Type} (l : List α) (n : Nat) (f : α → α) : List α :=
  match l, n with
  | [], _ => []
  | h :: t, 0 => f h :: t
  | h :: t, k + 1 => h :: modAt t k f

/-- Insert an element before the first one with a larger key. -/
def insertBy {α : Type} (key : α → Nat) (x : α) (l : List α) : List α :=
  match l with
  | [] => [x]
  | y :: t => if key y ≤ key x then y :: insertBy key x t else x :: y :: t

/-- A list in ascending order of a key; equal keys keep their order. -/
def sortBy {α : Type} (key : α → Nat) (l : List α) : List α := l.foldl (fun acc x => insertBy key x acc) []

/-- 32-bit and w-bit rotation left. -/
def rotl (w n c : Nat) : Nat := (n * 2 ^ c + n / 2 ^ (w - c)) % 2 ^ w

end Sys2Proof.Machine
end

