-- ==== Sys2Proof/Machine/FloatCore.lean ====
section
/-! DEFINITION. Floating-point values (R50–R56), rounding once (R59–R62), the exact sums and products behind every
floating-point instruction (R108), and the generator of stochastic rounding (R63, R290). -/

namespace Sys2Proof.Machine

open Sys2Proof

/-! ### Sticky flags (R65) -/

/-- The sticky flags an operation raises. -/
structure FFlags where
  inv : Bool := false
  dz : Bool := false
  of : Bool := false
  uf : Bool := false
  nx : Bool := false
  deriving DecidableEq, Repr

/-- Bits of SR_FSTAT: 0 NX, 1 UF, 2 OF, 3 DZ, 4 INV (R65). -/
def FFlags.code (f : FFlags) : Nat := f.nx.toNat + 2 * f.uf.toNat + 4 * f.of.toNat + 8 * f.dz.toNat + 16 * f.inv.toNat

def FFlags.join (a b : FFlags) : FFlags := ⟨a.inv || b.inv, a.dz || b.dz, a.of || b.of, a.uf || b.uf, a.nx || b.nx⟩

/-! ### Values (R50, R51) -/

/-- The value of a floating-point code: a finite one is (−1)^neg × m × 2^e. -/
inductive FVal where
  | nan (signalling : Bool)
  | inf (neg : Bool)
  | fin (neg : Bool) (m : Nat) (e : Int)
  deriving DecidableEq, Repr

/-- A floating-point format: fraction bits, exponent bits, bias, the code of its largest finite value, and whether it has
infinities and NaNs as FP32 has (R50, R51). -/
structure Fmt where
  frac : Nat
  expo : Nat
  bias : Nat
  maxCode : Nat
  ieee : Bool
  nanCode : Nat

def fp32 : Fmt := ⟨23, 8, 127, 0x7F7FFFFF, true, 0x7FC00000⟩
def fp16 : Fmt := ⟨10, 5, 15, 0x7BFF, true, 0x7E00⟩
def bf16 : Fmt := ⟨7, 8, 127, 0x7F7F, true, 0x7FC0⟩
def fmtE4m3 : Fmt := ⟨3, 4, 7, 0x7E, false, 0x7F⟩
def fmtE5m2 : Fmt := ⟨2, 5, 15, 0x7B, true, 0x7E⟩
def fmtE2m1 : Fmt := ⟨1, 2, 1, 0x7, false, 0⟩

/-- The bit of a format's sign. -/
def Fmt.signBit (f : Fmt) : Nat := 2 ^ (f.frac + f.expo)

/-- The exponent of the least normal value. -/
def Fmt.emin (f : Fmt) : Int := 1 - (f.bias : Int)

/-- The value of a code (R50, R51). E4M3's one NaN is quiet. -/
def Fmt.decode (f : Fmt) (c : Nat) : FVal :=
  let neg := bit c (f.frac + f.expo)
  let e := bits c f.frac f.expo
  let m := bits c 0 f.frac
  if f.ieee && e = 2 ^ f.expo - 1 then (if m = 0 then .inf neg else .nan (!bit m (f.frac - 1)))
  else if !f.ieee && f.nanCode ≠ 0 && c % f.signBit = f.nanCode then .nan false
  else if e = 0 then .fin neg m (f.emin - f.frac)
  else .fin neg (m + 2 ^ f.frac) ((e : Int) - f.bias - f.frac)

def FVal.isNan : FVal → Bool
  | .nan _ => true
  | _ => false
def FVal.isSig : FVal → Bool
  | .nan s => s
  | _ => false

/-! ### Rounding (R59–R62) -/

/-- How a rounding decides between lo and hi: a mode of R60, stochastic rounding with its r (R61), or a free choice (R68). -/
inductive Mode where
  | rne | rtz | rdn | rup | rsr (r : Nat) | choose (hi : Bool)

def modeOf : Rnd → Mode
  | .rne => .rne
  | .rtz => .rtz
  | .rdn => .rdn
  | .rup => .rup

/-- Whether hi is chosen, for a magnitude lo + rem/den of a step (R60, R61). -/
def Mode.up (m : Mode) (neg odd : Bool) (rem den : Nat) : Bool :=
  if rem = 0 then false
  else match m with
    | .rne => decide (den < 2 * rem) || (decide (2 * rem = den) && odd)
    | .rtz => false
    | .rdn => neg
    | .rup => !neg
    | .rsr r => decide (65536 ≤ rem * 65536 / den + r)
    | .choose hi => hi

/-- floor(log2(num / den)). -/
def ratLog2 (num den : Nat) : Int :=
  let e : Int := (Nat.log2 num : Int) - (Nat.log2 den : Int)
  let below := if 0 ≤ e then decide (num < den * 2 ^ e.toNat) else decide (num * 2 ^ (-e).toNat < den)
  if below then e - 1 else e

/-- A rational times 2^k, as numerator and denominator. -/
def ratScale (num den : Nat) (k : Int) : Nat × Nat :=
  if 0 ≤ k then (num * 2 ^ k.toNat, den) else (num, den * 2 ^ (-k).toNat)

/-- The magnitude code of num/den rounded with an upward-extended exponent range, and whether rounding was inexact and tiny
(R59, R60). A magnitude code counts the format's nonnegative values in order. -/
def Fmt.roundMag (f : Fmt) (m : Mode) (neg : Bool) (num den : Nat) : Nat × Bool × Bool :=
  if num = 0 then (0, false, false)
  else
    let e := ratLog2 num den
    let ee := max e f.emin
    let sc := ratScale num den ((f.frac : Int) - ee)
    let q := sc.1 / sc.2
    let rem := sc.1 % sc.2
    let code := q + (ee - f.emin).toNat * 2 ^ f.frac
    let code := if m.up neg (code % 2 = 1) rem sc.2 then code + 1 else code
    let tiny :=
      decide (e < f.emin) &&
      (let s2 := ratScale num den ((f.frac : Int) - e)
       let q2 := s2.1 / s2.2
       let r2 := s2.1 % s2.2
       let n := if m.up neg (q2 % 2 = 1) r2 s2.2 then q2 + 1 else q2
       !(decide (e = f.emin - 1) && decide (n = 2 ^ (f.frac + 1))))
    (code, rem ≠ 0, tiny)

/-- Whether an overflow goes to infinity or stays at the largest finite value (R62). -/
def Mode.toInf (m : Mode) (neg : Bool) : Bool :=
  match m with
  | .rtz => false
  | .rup => !neg
  | .rdn => neg
  | _ => true

/-- The code of an infinity, or of the largest finite value where the format has none (R62). -/
def Fmt.infCode (f : Fmt) : Nat := if f.ieee then f.maxCode + 1 else f.maxCode

def Fmt.signed (f : Fmt) (neg : Bool) (mag : Nat) : Nat := if neg then f.signBit + mag else mag

/-- Round an exact nonzero magnitude once (R59–R62). -/
def Fmt.round (f : Fmt) (m : Mode) (neg : Bool) (num den : Nat) : Nat × FFlags :=
  let r := f.roundMag m neg num den
  if f.maxCode < r.1 then
    (f.signed neg (if m.toInf neg then f.infCode else f.maxCode), { of := true, nx := true })
  else (f.signed neg r.1, { nx := r.2.1, uf := r.2.1 && r.2.2 })

def noFlags : FFlags := {}
def invalid : FFlags := { inv := true }

/-- Round a finite value m × 2^e; zero keeps its sign. -/
def Fmt.roundFin (f : Fmt) (m : Mode) (neg : Bool) (n : Nat) (e : Int) : Nat × FFlags :=
  if n = 0 then (f.signed neg 0, noFlags)
  else
    let s := ratScale n 1 e
    f.round m neg s.1 s.2

/-! ### Sums of exact addends (R60, R108) -/

/-- An addend: a value, or the product of zero and infinity. -/
inductive Addend where
  | val (v : FVal)
  | bad

/-- The exact product of two values (R108). -/
def mulVal (a b : FVal) : Addend :=
  match a, b with
  | .nan s, .nan t => .val (.nan (s || t))
  | .nan s, _ => .val (.nan s)
  | _, .nan t => .val (.nan t)
  | .inf s, .inf t => .val (.inf (s != t))
  | .inf s, .fin t m _ => if m = 0 then .bad else .val (.inf (s != t))
  | .fin s m _, .inf t => if m = 0 then .bad else .val (.inf (s != t))
  | .fin s m e, .fin t n k => .val (.fin (s != t) (m * n) (e + k))

def negVal : FVal → FVal
  | .nan s => .nan s
  | .inf n => .inf (!n)
  | .fin n m e => .fin (!n) m e

/-- The signed integer value of a finite addend in units of 2^u. -/
def finUnits (u : Int) : FVal → Int
  | .fin n m e => (if n then -1 else 1) * ((m * 2 ^ (e - u).toNat : Nat) : Int)
  | _ => 0

def finExp : FVal → Int
  | .fin _ m e => if m = 0 then 0 else e
  | _ => 0

/-- The sum of finite addends: sign, magnitude and exponent, with the sign of an exact zero by R60. -/
def sumFin (m : Mode) (vs : List FVal) : Bool × Nat × Int :=
  let u := vs.foldl (fun u v => min u (finExp v)) 0
  let t := (vs.map (finUnits u)).sum
  if t ≠ 0 then (decide (t < 0), t.natAbs, u)
  else
    let zero (v : FVal) (n : Bool) : Bool := match v with
      | .fin s k _ => k = 0 && s = n
      | _ => false
    let neg := if vs.all fun v => zero v true then true
      else if vs.all fun v => zero v false then false
      else match m with
        | .rdn => true
        | _ => false
    (neg, 0, 0)

/-- The rounded sum of addends, in the order of R108: signalling NaN, 0 × ∞, quiet NaN, ∞ − ∞, infinity, exact sum. `sig`
says that some operand is a signalling NaN. -/
def Fmt.sum (f : Fmt) (m : Mode) (sig : Bool) (as : List Addend) : Nat × FFlags :=
  let bad := as.any fun a => match a with
    | .bad => true
    | _ => false
  let vs := as.filterMap fun a => match a with
    | .val v => some v
    | .bad => none
  let pos := vs.any fun v => v = .inf false
  let neg := vs.any fun v => v = .inf true
  if sig || bad then (f.nanCode, invalid)
  else if vs.any FVal.isNan then (f.nanCode, noFlags)
  else if pos && neg then (f.nanCode, invalid)
  else if pos || neg then (f.signed neg f.infCode, noFlags)
  else
    let s := sumFin m vs
    f.roundFin m s.1 s.2.1 s.2.2

/-- Addition, multiplication and fused multiply-add of a format's codes (R107, R118). -/
def Fmt.add (f : Fmt) (m : Mode) (a b : Nat) : Nat × FFlags :=
  let x := f.decode a
  let y := f.decode b
  f.sum m (x.isSig || y.isSig) [.val x, .val y]

def Fmt.sub (f : Fmt) (m : Mode) (a b : Nat) : Nat × FFlags :=
  let x := f.decode a
  let y := f.decode b
  f.sum m (x.isSig || y.isSig) [.val x, .val (negVal y)]

def Fmt.mul (f : Fmt) (m : Mode) (a b : Nat) : Nat × FFlags :=
  let x := f.decode a
  let y := f.decode b
  f.sum m (x.isSig || y.isSig) [mulVal x y]

def Fmt.fma (f : Fmt) (m : Mode) (a b d : Nat) : Nat × FFlags :=
  let x := f.decode a
  let y := f.decode b
  let z := f.decode d
  f.sum m (x.isSig || y.isSig || z.isSig) [mulVal x y, .val z]

/-! ### Order (R109, R110) -/

/-- A number's place in the order of a format, −0 below +0 (R109). -/
def Fmt.key (f : Fmt) (c : Nat) : Int :=
  let mag : Int := ((c % f.signBit : Nat) : Int)
  if f.signBit ≤ c then -mag - 1 else mag

/-- FMIN and FMAX (R109); `nan` propagates NaN. -/
def Fmt.minMax (f : Fmt) (isMax nan : Bool) (a b : Nat) : Nat × FFlags :=
  let x := f.decode a
  let y := f.decode b
  let fl := if x.isSig || y.isSig then invalid else noFlags
  if x.isNan && y.isNan then (f.nanCode, fl)
  else if x.isNan then (if nan then f.nanCode else b, fl)
  else if y.isNan then (if nan then f.nanCode else a, fl)
  else if decide (f.key a < f.key b) = isMax then (b, fl) else (a, fl)

/-- The exact comparison of two values that are no NaN: a < b and a = b (R110). −0 equals +0. -/
def Fmt.less (f : Fmt) (a b : Nat) : Bool :=
  let k (c : Nat) : Int := if f.signBit ≤ c then -((c % f.signBit : Nat) : Int) else (c : Int)
  decide (k a < k b)

def Fmt.same (f : Fmt) (a b : Nat) : Bool :=
  let k (c : Nat) : Int := if f.signBit ≤ c then -((c % f.signBit : Nat) : Int) else (c : Int)
  k a = k b

/-! ### Integral values (R117, R122, R123) -/

/-- num/den rounded to an integer magnitude, and whether that was inexact. -/
def roundInt (m : Mode) (neg : Bool) (num den : Nat) : Nat × Bool :=
  let q := num / den
  let rem := num % den
  (if m.up neg (q % 2 = 1) rem den then q + 1 else q, rem ≠ 0)

/-- A finite value rounded to an exact integer. -/
def roundIntFin (m : Mode) (neg : Bool) (n : Nat) (e : Int) : Int × Bool :=
  let s := ratScale n 1 e
  let r := roundInt m neg s.1 s.2
  (if neg then -(r.1 : Int) else (r.1 : Int), r.2)

/-! ### LG6 (R54, R56) -/

/-- 2^(j/4) in units of 2^−256, rounded down. -/
def lgRoot (j : Nat) : Nat :=
  match j with
  | 0 => 2 ^ 256
  | 1 => 0x1306fe0a31b7152de8d5a46305c85edecbc27343629f502f1af16cb97df4f76df
  | 2 => 0x16a09e667f3bcc908b2fb1366ea957d3e3adec17512775099da2f590b0667322a
  | _ => 0x1ae89f995ad3ad5e8734d1773205a7fbc3ae675ea440b162d6b8275b41cef0533

/-- The magnitude of an LG6 code in units of 2^−260; 32 names the value that follows the largest (R60). -/
def lgValue (c : Nat) : Nat := if c = 0 then 0 else lgRoot (c % 4) * 2 ^ (c / 4)

/-- Rounding of num/den to an LG6 magnitude code, 32 being the extra value (R56): code, inexact, tiny. -/
def lgRound (m : Mode) (neg : Bool) (num den : Nat) : Nat × Bool × Bool :=
  let x4 := num * 2 ^ 260
  let le (c : Nat) : Bool := if c % 4 = 0 || c = 0 then decide (lgValue c * den ≤ x4) else decide (lgValue c * den < x4)
  let lo := ((List.range 33).filter le).length - 1
  let exact := decide (lgValue lo * den = x4) && (lo % 4 = 0)
  if exact || 32 ≤ lo then (lo, !exact, false)
  else
    let rem := x4 - lgValue lo * den
    let step := (lgValue (lo + 1) - lgValue lo) * den
    (if m.up neg (lo % 2 = 1) rem step then lo + 1 else lo, true, lo = 0)

/-- A value converted to LG6 with saturation (R56, R62). -/
def toLg6 (m : Mode) (v : FVal) : Nat × FFlags :=
  let sg (neg : Bool) (c : Nat) : Nat := if neg then 32 + c else c
  match v with
  | .nan _ => (0, invalid)
  | .inf n => (sg n 31, invalid)
  | .fin n k e =>
    if k = 0 then (sg n 0, noFlags)
    else
      let s := ratScale k 1 e
      let r := lgRound m n s.1 s.2
      if 31 < r.1 then (sg n 31, { of := true, nx := true })
      else (sg n r.1, { nx := r.2.1, uf := r.2.1 && r.2.2 })

/-- A value converted to a small integer format of w bits (R62). -/
def toInt (w : Nat) (m : Mode) (v : FVal) : Nat × FFlags :=
  let lo : Int := -(2 ^ (w - 1) : Nat)
  let hi : Int := (2 ^ (w - 1) : Nat) - 1
  match v with
  | .nan _ => (0, invalid)
  | .inf n => (wrap w (if n then lo else hi), invalid)
  | .fin n k e =>
    let r := roundIntFin m n k e
    if r.1 < lo then (wrap w lo, { of := true, nx := true })
    else if hi < r.1 then (wrap w hi, { of := true, nx := true })
    else (wrap w r.1, { nx := r.2 })

/-- A value converted to a floating-point format (R62, R120). -/
def Fmt.convert (f : Fmt) (m : Mode) (v : FVal) : Nat × FFlags :=
  match v with
  | .nan s =>
    if f.ieee || f.nanCode ≠ 0 then (f.nanCode, if s then invalid else noFlags) else (0, invalid)
  | .inf n => (f.signed n f.infCode, if f.ieee then noFlags else invalid)
  | .fin n k e => f.roundFin m n k e

/-! ### The generator (R290, R63) -/

/-- One round of the generator. -/
def genRound (h g rnd : Nat) : Nat × Nat :=
  let h := (h + rotl 32 g 7) % 2 ^ 32
  let g := (g ^^^ h) * 0x2C1B3C6D % 2 ^ 32
  ((rotl 32 h 13) ^^^ g ^^^ rnd, g)

/-- gen(key, x, y) (R290). -/
def gen (key x y : Nat) : Nat :=
  let s := [1, 2, 3, 4].foldl (fun (s : Nat × Nat) r => genRound s.1 s.2 r) (x ^^^ (key % 2 ^ 32), y ^^^ (key / 2 ^ 32))
  let h := (s.1 ^^^ (s.1 / 2 ^ 16)) * 0x7FEB352D % 2 ^ 32
  h ^^^ (h / 2 ^ 15)

end Sys2Proof.Machine
end

