-- ==== Sys2Proof/Machine/Combine.lean ====
section
/-! DEFINITION. What the atomic ops compute (R250), and the one read-modify-write that the lanes of one address make (R251). -/

namespace Sys2Proof.Machine

open Sys2Proof

/-- One step of an atomic op on the word x, with operand v and compare value c (R250); the FADD forms stand under R251. -/
def atomStep (op : AtomicOp) (x v c : Nat) : Nat :=
  match op with
  | .add => (x + v) % 2 ^ 32
  | .mini => if signed 32 x ≤ signed 32 v then x else v
  | .maxi => if signed 32 x ≤ signed 32 v then v else x
  | .minn => min x v
  | .maxn => max x v
  | .and => x &&& v
  | .or => x ||| v
  | .xor => x ^^^ v
  | .exch => v
  | .cas => if x = c then v else x
  | .inc => if v ≤ x then 0 else x + 1
  | .faddF32 | .faddBf16x2 => x

/-- Apply the steps in ascending lane order: the values returned, and the final word (R251). -/
def atomSteps (op : AtomicOp) (x : Nat) (vs : List (Nat × Nat)) : List Nat × Nat :=
  match vs with
  | [] => ([], x)
  | (v, c) :: t =>
    let r := atomSteps op (atomStep op x v c) t
    (x :: r.1, r.2)

/-- The running sums of R251 from a first one. -/
def faddFrom (p : Nat) (vs : List Nat) : List Nat :=
  match vs with
  | [] => [p]
  | v :: t => p :: faddFrom (fp32.add .rne p v).1 t

/-- P(1) to P(n + 1) (R251). -/
def faddPrefixes (vs : List Nat) : List Nat :=
  match vs with
  | [] => [0]
  | v :: t => 0 :: faddFrom v t

/-- The values returned and the final word of a combined FADD, with `add` the rounded sum of the word and a running sum. -/
def faddCombine (add : Nat → Nat → Nat) (x : Nat) (vs : List Nat) : List Nat × Nat :=
  let sums := (faddPrefixes vs).zipIdx.map fun p => if p.2 = 0 then x else add x p.1
  (sums.dropLast, sums.getLastD x)

/-- The BF16 sum of a half and a running FP32 sum, rounded once (R251). -/
def addBf16 (x p : Nat) : Nat :=
  let a := bf16.decode x
  let b := fp32.decode p
  (bf16.sum .rne (a.isSig || b.isSig) [.val a, .val b]).1

/-- One combined read-modify-write: the values returned in lane order, and the final word (R251). -/
def atomCombine (op : AtomicOp) (x : Nat) (vs : List (Nat × Nat)) : List Nat × Nat :=
  match op with
  | .faddF32 => faddCombine (fun x p => (fp32.add .rne x p).1) x (vs.map fun v => v.1)
  | .faddBf16x2 =>
    let part (h : Nat) := faddCombine addBf16 (bits x (16 * h) 16) (vs.map fun v => bits v.1 (16 * h) 16 * 2 ^ 16)
    let lo := part 0
    let hi := part 1
    ((lo.1.zip hi.1).map fun e => e.1 + 2 ^ 16 * e.2, lo.2 + 2 ^ 16 * hi.2)
  | op => atomSteps op x vs

/-- The distinct keys of a list, in the order they first stand. -/
def distinctKeys (ks : List (Nat × Nat)) : List Nat :=
  ks.foldl (fun ts e => if ts.contains e.2 then ts else ts ++ [e.2]) []

/-- The one operand with which a word sees the steps of several lanes, where the op has one (R238, R251). -/
def combinedOperand (op : AtomicOp) (vs : List (Nat × Nat)) : Option (Nat × Nat) :=
  match vs with
  | [] => none
  | [v] => some v
  | v :: t =>
    match op with
    | .exch => (t.getLast?).map fun u => (u.1, 0)
    | .faddF32 => ((faddPrefixes (vs.map fun u => u.1)).getLast?).map fun p => (p, 0)
    | .cas | .inc | .faddBf16x2 => none
    | op => some (t.foldl (fun a u => atomStep op a u.1 0) v.1, 0)

/-- The payloads of the ATOM requests of one read-modify-write (R387): op, how many more belong to it, v and c. One request carries it all
where the op has a combined operand; otherwise each lane has its own, and the home performs them together (R238, R251; log 53). -/
def atomPayloads (op : AtomicOp) (vs : List (Nat × Nat)) : List (List Byte) :=
  let one (n : Nat) (v : Nat × Nat) : List Byte := bytesOf 1 op.code ++ bytesOf 1 n ++ bytesOf 2 0 ++ bytesOf 4 v.1 ++ bytesOf 8 v.2
  match combinedOperand op vs with
  | some v => [one 0 v]
  | none => vs.zipIdx.map fun e => one (vs.length - 1 - e.2) e.1

end Sys2Proof.Machine
end

