-- ==== Sys2Proof/Machine/Memory.lean ====
section
/-! DEFINITION. Finding groups and splits, the memories, the region table, page walks and the checks of a global access. -/

namespace Sys2Proof.Machine

open Sys2Proof

/-! ### Lookup and update -/

def State.group? (s : State) (gid : Nat) : Option Group := s.groups.find? fun g => g.id = gid

/-- Change one group. -/
def State.modGroup (s : State) (gid : Nat) (f : Group → Group) : State :=
  { s with groups := s.groups.map fun g => if g.id = gid then f g else g }

def Group.flight? (g : Group) (fid : Nat) : Option Flight := g.flights.find? fun f => f.id = fid

def Group.modFlight (g : Group) (fid : Nat) (f : Flight → Flight) : Group :=
  { g with flights := g.flights.map fun (e : Flight) => if e.id = fid then f e else e }

def Group.dropFlight (g : Group) (fid : Nat) : Group := { g with flights := g.flights.filter fun (e : Flight) => e.id ≠ fid }

def Group.split? (g : Group) (pid : Nat) : Option Split := g.splits.find? fun p => p.id = pid

/-- Change one split of a group. -/
def Group.modSplit (g : Group) (pid : Nat) (f : Split → Split) : Group :=
  { g with splits := g.splits.map fun p => if p.id = pid then f p else p }

def State.modSplit (s : State) (gid pid : Nat) (f : Split → Split) : State := s.modGroup gid fun g => g.modSplit pid f

def State.workgroup? (s : State) (wid : Nat) : Option Workgroup := s.workgroups.find? fun w => w.id = wid

def State.modWorkgroup (s : State) (wid : Nat) (f : Workgroup → Workgroup) : State :=
  { s with workgroups := s.workgroups.map fun w => if w.id = wid then f w else w }

def State.launch? (s : State) (lid : Nat) : Option Launch := s.launches.find? fun l => l.id = lid

def State.modLaunch (s : State) (lid : Nat) (f : Launch → Launch) : State :=
  { s with launches := s.launches.map fun l => if l.id = lid then f l else l }

def State.pass? (s : State) (pid : Nat) : Option Pass := s.passes.find? fun p => p.id = pid

def State.modPass (s : State) (pid : Nat) (f : Pass → Pass) : State :=
  { s with passes := s.passes.map fun p => if p.id = pid then f p else p }

def State.context (s : State) (c : Nat) : Context := s.contexts.getD c {}

def State.modContext (s : State) (c : Nat) (f : Context → Context) : State := { s with contexts := modAt s.contexts c f }

def State.die (s : State) (d : Nat) : Die := s.dies.getD d {}

def State.modDie (s : State) (d : Nat) (f : Die → Die) : State := { s with dies := modAt s.dies d f }

/-- The launch of a group, and its record; the defaults stand for a host-core thread, which belongs to no launch. -/
def State.launchOf (s : State) (g : Group) : Option Launch := (s.workgroup? g.wg).bind fun w => s.launch? w.launch

def State.recordOf (s : State) (g : Group) : LaunchRec :=
  match s.launchOf g with
  | some l => l.record
  | none => {}

/-- The workgroup index of a group's workgroup (R184). -/
def State.wOf (s : State) (g : Group) : Nat :=
  match s.workgroup? g.wg with
  | some w => w.w
  | none => 0

/-- A fresh number for the model's own names. -/
def State.fresh (s : State) : Nat × State := (s.nextId, { s with nextId := s.nextId + 1 })

/-- A value the spec leaves open, never the same twice (log 4). -/
def State.freeWord (s : State) : Word × State := (Config.freeWord s.tick, { s with tick := s.tick + 1 })

/-- `n` such bytes. -/
def State.freeBytes (s : State) (n : Nat) : List Byte × State :=
  ((List.range n).map fun i => (Config.freeWord (s.tick + i)).setWidth 8, { s with tick := s.tick + n })

/-! ### Memory -/

/-- The memories of the package (R197, R278, R393). -/
inductive Space where
  /-- A die's memory of a target: 0 HBM4E, 1 far tier, 2 and 3 CXL (R392). -/
  | phys (target die : Nat)
  | scratch (wg : Nat)
  | slice (group lane : Nat)
  | dieScratch (launch die : Nat)
  | accum (wg : Nat)
  /-- Memory of another package, for the versions of a region's stores to it (R361). -/
  | far (pkg : Nat)

/-- The key of the byte at an offset of a space: no two bytes share a key while offsets stay below 2^64. -/
def Space.key (sp : Space) (off : Nat) : Nat :=
  match sp with
  | .phys target die => off + 2 ^ 64 * (8 * (target + 8 * die))
  | .scratch wg => off + 2 ^ 64 * (8 * wg + 1)
  | .slice group lane => off + 2 ^ 64 * (8 * (32 * group + lane) + 2)
  | .dieScratch launch die => off + 2 ^ 64 * (8 * (64 * launch + die) + 3)
  | .accum wg => off + 2 ^ 64 * (8 * wg + 4)
  | .far pkg => off + 2 ^ 64 * (8 * pkg + 5)

/-- One byte of memory. An unlisted byte reads 0 (log 3). -/
def State.byteAt (s : State) (k : Nat) : Byte := sread s.mem k

/-- `n` bytes from a key upward. -/
def State.bytesAt (s : State) (k n : Nat) : List Byte := (List.range n).map fun i => s.byteAt (k + i)

/-- The number that `n` bytes hold, little-endian. -/
def State.readMem (s : State) (k n : Nat) : Nat := ofBytes (s.bytesAt k n)

/-- Write bytes from a key upward. -/
def storeBytes (m : Store 8) (k : Nat) (bs : List Byte) : Store 8 :=
  match bs with
  | [] => m
  | b :: t => storeBytes (swrite m k b) (k + 1) t

/-- Write bytes; a write that covers a whole poisoned sector heals it (R351). -/
def State.writeMem (s : State) (k : Nat) (bs : List Byte) : State :=
  { s with mem := storeBytes s.mem k bs,
           poison := s.poison.filter fun p => !(k ≤ p && p + 32 ≤ k + bs.length) }

/-- Some byte of a range lies in a poisoned sector (R351). -/
def State.poisoned (s : State) (k n : Nat) : Bool := s.poison.any fun p => decide (p < k + n) && decide (k < p + 32)

/-- The tag of the granule that holds a key (R221). -/
def State.tagAt (s : State) (k : Nat) : BitVec 4 := sread s.tags (k / 32)

def State.writeTag (s : State) (k : Nat) (t : BitVec 4) : State := { s with tags := swrite s.tags (k / 32) t }

/-! ### Widths (R102) -/

def loadBytes : LWidth → Nat
  | .n8 | .i8 => 1
  | .n16 | .i16 => 2
  | .n32 => 4
  | .n64 => 8
  | .n128 => 16

/-- The registers that loaded bytes fill, given as a number (R102). -/
def loadWords (w : LWidth) (n : Nat) : List Word :=
  match w with
  | .n8 => [BitVec.ofNat 32 (n % 2 ^ 8)]
  | .i8 => [BitVec.ofNat 32 (wrap 32 (signed 8 n))]
  | .n16 => [BitVec.ofNat 32 (n % 2 ^ 16)]
  | .i16 => [BitVec.ofNat 32 (wrap 32 (signed 16 n))]
  | .n32 => [BitVec.ofNat 32 n]
  | .n64 => (List.range 2).map fun k => BitVec.ofNat 32 (n / 2 ^ (32 * k))
  | .n128 => (List.range 4).map fun k => BitVec.ofNat 32 (n / 2 ^ (32 * k))

/-! ### L1 (R205, R209) -/

/-- A line of the L1 of a group's core. -/
def Group.ownLine (g : Group) (e : L1Line) : Bool := e.die = g.die && e.host = g.isHost && e.core = g.core

/-- The line of a group's L1 that holds a key. -/
def State.line? (s : State) (g : Group) (k : Nat) : Option L1Line := s.l1.find? fun e => g.ownLine e && e.line = k / 128

/-- Scratchpad bytes of a workgroup (R178). -/
def State.scratchOf (s : State) (w : Workgroup) : Nat := (s.launch? w.launch).elim 0 fun l => l.record.scratch

/-- The scratchpad units of a core that no allocation touches, which are lent to its L1 (R205). -/
def State.lentUnits (s : State) (die core : Nat) : Nat :=
  ((List.range 12).filter fun u => !(s.workgroups.any fun w => !w.saved && w.die = die && w.core = core &&
    decide (0 < s.scratchOf w ∧ w.scratchBase < 32768 * (u + 1) ∧ 32768 * u < w.scratchBase + s.scratchOf w))).length

/-- Lines that a core's L1 has room for: 64 KiB and the lent units (R205). -/
def State.l1Lines (s : State) (die core : Nat) : Nat := 512 + 256 * s.lentUnits die core

/-- Keep the lines of a render die's core that fit, newest first (R206). -/
def State.fitL1 (s : State) (die core : Nat) : State :=
  let own (e : L1Line) : Bool := e.die = die && !e.host && e.core = core
  { s with l1 := (s.l1.filter own).take (s.l1Lines die core) ++ s.l1.filter fun e => !own e }

/-- Drop the lines that a predicate names. -/
def State.dropLines (s : State) (f : L1Line → Bool) : State := { s with l1 := s.l1.filter fun e => !f e }

/-- Drop the line of a group's L1 that holds a key. -/
def State.dropLine (s : State) (g : Group) (k : Nat) : State := s.dropLines fun e => g.ownLine e && e.line = k / 128

/-- An acquire at WG or wider invalidates every global line of the core's L1 (R209). -/
def State.dropL1 (s : State) (g : Group) : State := s.dropLines g.ownLine

/-- A write updates the copy in the L1 of its core (R209). -/
def State.writeLine (s : State) (g : Group) (k : Nat) (bs : List Byte) : State :=
  { s with l1 := s.l1.map fun e =>
      if g.ownLine e && e.line = k / 128 then
        { e with bytes := e.bytes.take (k % 128) ++ bs ++ e.bytes.drop (k % 128 + bs.length) }
      else e }

/-! ### The physical address map (R392–R394, R405) -/

/-- Capacity of a die's memory of a target (R4, R443). CXL memory has no size in the spec; log 14. -/
def targetCapacity (t : Nat) : Nat := if t = 0 then 2 ^ 36 else if t = 1 then 2 ^ 39 else 2 ^ 52

/-- Whether a render die is live in the identity record (R2, R3, R383). -/
def Identity.dieLive (p : Identity) (d : Nat) : Bool := d < 48 && bit p.live d

/-- The ordering codes and their live dies (R1, R440): a record that boot accepts. -/
def Identity.wf (p : Identity) : Bool :=
  decide (p.code < 4) && decide (p.live < 2 ^ 48) && decide (p.pass < 2 ^ 48) && p.count = popcount 48 p.live &&
  (p.live &&& p.pass) = 0 && (if p.code % 2 = 0 then p.count = 48 else decide (44 ≤ p.count ∧ p.count ≤ 48))

def State.dieLive (s : State) (d : Nat) : Bool := s.ident.dieLive d

/-- Whether a region entry is in force on a part (R392, R405). -/
def RegionEntry.inForce (part : Identity) (e : RegionEntry) : Bool :=
  e.valid && e.reserved && e.dieset ≠ 0 && decide (e.stride ≤ 13) &&
  (if e.target = 4 then e.mode = 0 && (setBits 56 e.dieset).all (fun d => 48 ≤ d && d < 52)
   else
    decide (popcount 56 e.dieset ≤ 52) &&
    (if e.target = 0 then (setBits 56 e.dieset).all part.dieLive
     else decide (e.target ≤ 3) && (setBits 56 e.dieset).all (fun d => 48 ≤ d && d < 52)) &&
    e.mode ≠ 3 && (e.mode ≠ 2 || decide (e.size ≤ targetCapacity e.target)))

/-- The lowest-numbered entry in force that covers an address (R392). -/
def State.regionOf (s : State) (pa : Nat) : Option RegionEntry :=
  s.regions.find? fun e => e.inForce s.ident && decide (e.base ≤ pa) && decide (pa < e.base + e.size)

/-- The offset inside a die's memory that answers: itself, or beyond the capacity a free line of that memory (log 49). -/
def inCapacity (target off : Nat) : Nat :=
  if off < targetCapacity target then off
  else Config.beyond target (off / 128) % (targetCapacity target / 128) * 128 + off % 128

/-- The key of a byte of a die's memory of a target (R393). -/
def physCell (target die off : Nat) : Nat := Space.key (.phys target die) (inCapacity target off)

/-- Where a physical address leads. -/
inductive Place where
  | cell (key : Nat) (home : Nat)
  /-- Memory of another package (R405). -/
  | remote (pkg addr : Nat)
  /-- A register of the control space, for a thread of system code (R438). -/
  | control (pa : Nat)
  | nowhere

/-- The place a read of a physical address reaches, for an accessing die (R393, R394, R405). -/
def State.placeOf (s : State) (die pa : Nat) : Place :=
  match s.regionOf pa with
  | none => .nowhere
  | some e =>
    let set := setBits 56 e.dieset
    let n := set.length
    let offset := pa - e.base
    let stride := 2 ^ (e.stride + 12)
    let q := offset / stride
    let home := set.getD (q % n) 0
    if e.target = 4 then
      .remote (bits e.dbase 40 8 + 256 * bits e.pkgHi 0 1) (bits e.dbase 0 40 * 4096 + offset)
    else if e.mode = 0 then
      .cell (physCell e.target home (e.dbase + (q / n) * stride + offset % stride)) home
    else if e.mode = 1 then
      let reader := if bit e.dieset die then die else home
      .cell (physCell e.target reader (e.dbase + offset)) reader
    else if bit e.dieset die then
      .cell (physCell e.target die (e.dbase + offset)) die
    else .nowhere

/-- The place a write or an atomic reaches: the home of a REPLREAD region (R393). -/
def State.writePlace (s : State) (die pa : Nat) : Place :=
  match s.regionOf pa with
  | none => .nowhere
  | some e =>
    if e.target ≠ 4 && e.mode = 1 then
      let home := (setBits 56 e.dieset).headD 0
      .cell (physCell e.target home (e.dbase + (pa - e.base))) home
    else s.placeOf die pa

/-- The keys of a REPLREAD region's other copies, to which the home forwards a write (R393). -/
def State.copyKeys (s : State) (pa : Nat) : List Nat :=
  match s.regionOf pa with
  | none => []
  | some e =>
    if e.target ≠ 4 && e.mode = 1 then
      ((setBits 56 e.dieset).drop 1).map fun d => physCell e.target d (e.dbase + (pa - e.base))
    else []

/-- Two ranges of bytes share one. -/
def overlap (a n b m : Nat) : Bool := decide (a < b + m) && decide (b < a + n)

/-- The keys of every copy of a REPLREAD region's byte, the home's first (R393). -/
def State.allCopies (s : State) (die pa : Nat) : List Nat :=
  match s.writePlace die pa with
  | .cell k _ => if (s.copyKeys pa).isEmpty then [] else k :: s.copyKeys pa
  | _ => []

/-- Write bytes at each of some keys, as an agent that no die's cache stands before: lines of these bytes that stand in an L2 away from
their home leave it. -/
def State.writeKeys (s : State) (ks : List Nat) (bs : List Byte) : State :=
  ks.foldl (fun s k => { s.writeMem k bs with l2 := s.l2.filter fun e => e.bytes.isEmpty || !overlap e.key 128 k bs.length }) s

/-- Write bytes at a physical address, in every copy of it. -/
def State.writeCopies (s : State) (die pa : Nat) (bs : List Byte) : State :=
  match s.writePlace die pa with
  | .cell k _ => s.writeKeys (k :: s.copyKeys pa) bs
  | _ => s

/-- The key of a physical address, for hardware accesses. -/
def State.physKey (s : State) (die pa : Nat) : Option Nat :=
  match s.placeOf die pa with
  | .cell k _ => some k
  | _ => none

/-- Hardware read of `n` bytes at a physical address; 0 where nothing answers. -/
def State.physRead (s : State) (die pa n : Nat) : Nat :=
  match s.physKey die pa with
  | some k => s.readMem k n
  | none => 0

/-- A hardware read of `n` bytes meets an uncorrectable error (R351). -/
def State.physPoisoned (s : State) (die pa n : Nat) : Bool := (s.physKey die pa).elim false fun k => s.poisoned k n

def State.physWrite (s : State) (die pa n v : Nat) : State := s.writeCopies die pa (bytesOf n v)

/-! ### The mesh and the directory (R387, R388, R397) -/

/-- The entry that a packet's source has for it now (R388). -/
def State.routeOf (s : State) (p : MeshPacket) : Nat := (sread (s.die p.src).routes (4 * p.dst + p.cls % 4)).toNat

/-- A packet is injected into the mesh under its route, whose order of dimensions CLS[2] names (R387, R388). -/
def State.send (s : State) (p : MeshPacket) : State :=
  let r := s.routeOf p
  { s with packets := s.packets ++ [{ p with route := r, cls := p.cls % 4 + 4 * (r % 2) + 8 * (p.cls / 8 % 2) }] }

/-- A fresh transaction tag. -/
def State.nextTag (s : State) : Nat × State := (s.nextId, { s with nextId := s.nextId + 1 })

def lineOf (a : Nat) : Nat := a / 128 * 128

def DirRegion.covers (r : DirRegion) (a : Nat) : Bool := decide (r.base ≤ a) && decide (a < r.base + r.size)

/-- The dies of a sharer mask. -/
def DirRegion.holders (r : DirRegion) : List Nat := setBits 52 r.sharers.toNat

/-- The largest aligned region of at most 64 KiB that holds a line and meets none of a directory's. -/
def freeRegion (ds : List DirRegion) (line : Nat) : Nat × Nat :=
  ((((List.range 10).map fun k => 65536 / 2 ^ k).find? fun n =>
    ds.all fun r => !overlap (line / n * n) n r.base r.size).map fun n => (line / n * n, n)).getD (line, 128)

/-- The region of a line; memory not listed is UNCACHED. -/
def State.dirRegion (s : State) (home line : Nat) : DirRegion :=
  let ds := (s.die home).directory
  (ds.find? fun r => r.covers line).getD
    { base := (freeRegion ds line).1, size := (freeRegion ds line).2, owned := false, sharers := 0, lastUse := s.cycle }

/-- The holders of a replica of the page of a line (R401). -/
def State.replicaHolders (s : State) (line : Nat) : List Nat :=
  (s.replicas.filter fun e => e.1 = line / 32768 * 32768).map fun e => e.2

/-! ### Lines of the L2 caches (R210, R396, R398) -/

/-- The line of a die's L2 that holds a physical address. -/
def State.l2Line? (s : State) (die pa : Nat) : Option L2Line := s.l2.find? fun e => e.die = die && e.line = lineOf pa

/-- The byte of a key in a die's L2, where the line stands away from its home. -/
def State.l2Byte? (s : State) (die k : Nat) : Option Byte :=
  (s.l2.find? fun e => e.die = die && !e.bytes.isEmpty && e.key = k / 128 * 128).bind fun e => e.bytes[k % 128]?

/-- The lines that a die's L2 holds: 96 MiB (R210). -/
def l2Lines : Nat := 786432

/-- A die reads a line that is homed at a die as it stands there or in its own L2, without asking (R396–R398). -/
def State.mayRead (s : State) (die : Nat) (h : Home) : Bool :=
  if h.coh ≠ 0 || h.repl then h.die = die
  else
    let r := s.dirRegion h.die (lineOf h.pa)
    if h.die = die then !r.owned || r.holders.all fun d => d = die
    else (s.l2Line? die h.pa).isSome

/-- A store to a line waits while a token store of the same die to it is on its way or held (R418). -/
def State.lineBlocked (s : State) (die pa : Nat) : Bool :=
  s.held.any fun h => h.src = die && h.pkg.isNone && h.phys / 128 = pa / 128 &&
    (h.phase = .sent || h.phase = .held || h.phase = .polling || h.phase = .behind)

/-- A die writes a line without asking: as its owner, as its home when no other die may hold it, or as the home of memory that is not
shared (R396, R398); and no token store of the die to the line is under way (R418). -/
def State.mayWrite (s : State) (die : Nat) (h : Home) : Bool :=
  let r := s.dirRegion h.die (lineOf h.pa)
  !s.lineBlocked die h.pa &&
  (if h.repl then false
   else if h.coh ≠ 0 then h.die = die
   else (h.die = die && r.holders.all (fun d => d = die) && (s.replicaHolders (lineOf h.pa)).isEmpty) ||
     (r.owned && bit r.sharers.toNat die && (s.l2Line? die h.pa).elim false fun e => e.own))

/-- A line enters a die's L2 as its newest; the oldest leaves a full one, and an owned one is written back (R398). -/
def State.fillL2 (s : State) (e : L2Line) : State :=
  let mine := e :: s.l2.filter fun o => o.die = e.die && o.line ≠ e.line
  let rest := s.l2.filter fun o => o.die ≠ e.die
  let s := { s with l2 := mine.take l2Lines ++ rest }
  (mine.drop l2Lines).foldl (fun s o => match s.placeOf o.die o.line with
    | .cell _ home => if o.own then s.send { type := 9, src := o.die, dst := home, addr := o.line, len := 128, payload := o.bytes } else s
    | _ => s) s

/-- A request of a die for a line, or its answer, is on its way, and no INV has overtaken it (R399). -/
def MeshPacket.fetches (p : MeshPacket) (die line : Nat) (write : Bool) : Bool :=
  p.asker = die && p.addr = line && !p.skip && !p.plain && (p.owns || !write) && (p.type = 1 || p.type = 2 || p.type = 7 || p.type = 8)

/-- The tag of a die's request for a line, RD for a read and RDO for a write: of the one on its way, or of a new one. -/
def State.askLine (s : State) (die home : Nat) (write : Bool) (line : Nat) : Nat × State :=
  match s.packets.find? fun p => p.fetches die line write with
  | some p => (p.tag, s)
  | none =>
    let t := s.nextTag
    (t.1, t.2.send { type := if write then 2 else 1, src := die, dst := home, addr := line, tag := t.1, asker := die, owns := write })

/-- A die sends for a line that it does not hold as an access needs (R398). -/
def State.fetchLine (s : State) (die home : Nat) (write : Bool) (line : Nat) : State :=
  let h : Home := { die := home, pa := line }
  if (if write then s.mayWrite die h || s.lineBlocked die line else s.mayRead die h) then s
  else (s.askLine die home write line).2

/-! ### Packets to other packages (R426, R427, R431) -/

def State.link (s : State) (n : Nat) : Link := (s.links.find? fun l => l.id = n).getD { id := n }

def State.modLink (s : State) (n : Nat) (f : Link → Link) : State :=
  { s with links := f (s.link n) :: s.links.filter fun l => l.id ≠ n }

def State.lencyPort (s : State) (n : Nat) : LencyPort := (s.lency.find? fun p => p.id = n).getD { id := n }

def State.modPort (s : State) (n : Nat) (f : LencyPort → LencyPort) : State :=
  { s with lency := f (s.lencyPort n) :: s.lency.filter fun p => p.id ≠ n }

/-- The live links of a port (R431). -/
def State.liveLinks (s : State) (port : Nat) : List Nat :=
  ((List.range 4).map fun k => 4 * port + k).filter fun n => (s.link n).up

/-- The live planes, ascending (R426, R431). -/
def State.planes (s : State) : List Nat := (List.range 32).filter fun p => !(s.liveLinks p).isEmpty

/-- The live planes whose rim dies a DIESET names (R427). -/
def State.planesIn (s : State) (rims : Nat) : List Nat := s.planes.filter fun n => bit rims (48 + n / 8)

/-- Every rim die: token-class and collective packets use every live plane (R427). -/
def allRims : Nat := 15 * 2 ^ 48

/-- The DIESET of the FABRIC entry that maps a physical address (R405). -/
def State.rimsOf (s : State) (pa : Nat) : Nat := (s.regionOf pa).elim allRims fun e => e.dieset

/-- The hash lane of an address (R240). -/
def hashLane (a : Nat) : Nat := bits a 7 3 ^^^ bits a 10 3 ^^^ bits a 13 3

/-- Send a packet to another package by the rim dies of a DIESET: it takes the next ESEQ of its package and lane, and stays until it is
acknowledged. -/
def State.sendFabric (s : State) (pkg : Nat) (p : MeshPacket) (owner : Option (Nat × Nat) := none) (rims : Nat := allRims) : State :=
  let lane := hashLane p.addr
  let n := sread s.eseqOut (8 * pkg + lane)
  { s with eseqOut := swrite s.eseqOut (8 * pkg + lane) (n + 1),
           fabricOut := s.fabricOut ++ [{ pkt := p, spkg := s.pkgid, dpkg := pkg, eseq := n.toNat, lane, owner, rims }] }

/-! ### Page walks (R212–R217) -/

/-- What an access needs of a page (R215). -/
structure Need where
  r : Bool := false
  w : Bool := false
  /-- Write permission for an access that writes nothing (R327). -/
  pw : Bool := false
  x : Bool := false

/-- The levels of a walk: lowest index bit and index width (R212). -/
def walkLevels : List (Nat × Nat) := [(51, 6), (39, 12), (27, 12), (15, 12)]

/-- A malformed entry (R215). -/
def malformed (e : Nat) (lvl : Nat) : Bool :=
  let leaf := bit e 1
  bits e 54 10 ≠ 0 || bit e 14 ||
  (if leaf then bits e 8 2 = 3 || lvl < 2 || (lvl = 2 && bits e 15 12 ≠ 0)
   else lvl = 3 || bits e 52 2 ≠ 0 || bits e 2 12 ≠ 0)

/-- A leaf found by a walk. -/
structure Leaf where
  entry : Nat
  /-- Physical address of the entry. -/
  addr : Nat
  lvl : Nat
  /-- The entries read above it: the level below, the physical address, and the table to which each leads. -/
  above : List (Nat × Nat × Nat) := []

/-- Why an access does not proceed: a fault, or it waits at the walker (R403). -/
abbrev Stop := Option Trap

def trap (c : Cause) : Trap := { cause := c }

/-- The uncorrectable error that a read of `n` bytes at a key meets, given their physical address: the sector's (R351). -/
def State.sectorTrap? (s : State) (k n pa : Nat) : Option Trap :=
  (s.poison.find? fun p => overlap k n p 32).map fun p => { trap .uncorrectable with taddr := some (BitVec.ofNat 64 (pa + p - k)) }

/-- The walk from a table at level `lvl` (R215). `fuel` lists the levels left. -/
def walkFrom (s : State) (die va : Nat) (fuel : List (Nat × Nat)) (lvl table : Nat) (above : List (Nat × Nat × Nat) := []) : Except Trap Leaf :=
  match fuel with
  | [] => .error { trap .pageProtection with malformed := true }
  | (lo, len) :: rest =>
    let addr := table + 8 * bits va lo len
    match s.physKey die addr with
    | none => .error { trap .pageProtection with noRegion := true }
    | some k =>
      let e := s.readMem k 8
      if s.poisoned k 8 then .error { trap .uncorrectable with freezes := some die }
      else if !bit e 0 then .error (trap .pageNotPresent)
      else if malformed e lvl then .error { trap .pageProtection with malformed := true }
      else if bit e 1 then .ok ⟨e, addr, lvl, above⟩
      else walkFrom s die va rest (lvl + 1) (bits e 15 37 * 2 ^ 15) (above ++ [(lvl + 1, addr, bits e 15 37 * 2 ^ 15)])

def walk (s : State) (ctx die va : Nat) : Except Trap Leaf :=
  walkFrom s die va walkLevels 0 ((s.context ctx).ptbr.toNat / 512 % 2 ^ 43 * 512)

/-- Bytes that a leaf at a level maps (R212). -/
def pageSize (lvl : Nat) : Nat := if lvl = 2 then 2 ^ 27 else 2 ^ 15

/-- FRAME of an entry, as a frame number. -/
def frameOf (e : Nat) : Nat := bits e 15 37

/-- An entry without FRAME, A and D, as the contiguous hint compares it (R216). -/
def hintFields (e : Nat) : Nat := bits e 0 12 + 2 ^ 12 * bits e 14 1 + 2 ^ 13 * bits e 52 12

/-- What the 32 entries of a contiguous hint come to: `none` when some of them is no leaf with C set, otherwise whether they
agree on one aligned 1 MiB range (R216). -/
def hintAgrees (es : List Nat) : Option Bool :=
  if es.all fun e => bit e 0 && bit e 1 && bit e 7 && !malformed e 3 then
    some (frameOf (es.headD 0) % 32 = 0 &&
      es.zipIdx.all fun e => frameOf e.1 = frameOf (es.headD 0) + e.2 && hintFields e.1 = hintFields (es.headD 0))
  else none

/-- The leaf that translates and the size it is cached with: the walk's own, or under a contiguous hint one 1 MiB translation
when the 32 entries agree, and any of the 32 when they disagree (R216). Which of these is free (log 50). -/
def hinted (s : State) (die : Nat) (lf : Leaf) : Leaf × Nat :=
  if lf.lvl ≠ 3 || !bit lf.entry 7 || !Config.contiguous s.tick then (lf, pageSize lf.lvl)
  else
    let base := lf.addr / 256 * 256
    let es := (List.range 32).map fun k => s.physRead die (base + 8 * k) 8
    match hintAgrees es with
    | none => (lf, pageSize lf.lvl)
    | some true => (lf, 2 ^ 20)
    | some false =>
      let k := (Config.freeWord s.tick).toNat % 32
      ({ lf with entry := es.getD k lf.entry, addr := base + 8 * k }, pageSize lf.lvl)

/-- A translation: physical address, the leaf's fields, the bytes to the end of its page, and the lease's end in ns. -/
structure Xlat where
  pa : Nat
  leaf : Nat
  toEnd : Nat
  expiry : Nat

/-- The lease of a translation, in ns (R219, R220). -/
def leaseNs (s : State) (ctx leaf : Nat) : Nat := max 2000 ((s.context ctx).lease.toNat * 1000 / 2 ^ bits leaf 52 2)

/-- A leaf grants what an access needs (R215, R400). -/
def grants (leaf : Nat) (need : Need) : Bool :=
  (!need.r || bit leaf 2) && (!(need.w || need.pw) || (bit leaf 3 && !bit leaf 6)) && (!need.x || bit leaf 4)

/-- A cached translation serves an access: its lease runs, it grants the need, and D is set for a write (R215, R217). -/
def Tlb.serves (t : Tlb) (now ctx die va : Nat) (need : Need) : Bool :=
  t.ctx = ctx && t.die = die && t.page = va / t.size && decide (now < t.expiry) && grants t.leaf.toNat need &&
    (!need.w || bit t.leaf.toNat 13)

/-- The cached translation that serves an access of a core: its own L1 TLB's before its die's (R217). -/
def State.cached? (s : State) (ctx die : Nat) (core : Option Nat) (va : Nat) (need : Need) : Option Tlb :=
  (s.tlb.find? fun t => core.isSome && t.core = core && t.serves s.ns ctx die va need).or
    (s.tlb.find? fun t => t.core.isNone && t.serves s.ns ctx die va need)

/-- The entries of an L1 TLB and of a die's L2 TLB (R217). -/
def tlbEntries (core : Option Nat) : Nat := if core.isSome then 256 else 16384

/-- Put a translation into one TLB; beyond its capacity the oldest is forgotten (R217). -/
def State.cache (s : State) (t : Tlb) : State :=
  let own (u : Tlb) : Bool := u.die = t.die && u.core = t.core
  let same (u : Tlb) : Bool := u.ctx = t.ctx && u.page = t.page && u.size = t.size
  { s with tlb := t :: ((s.tlb.filter fun u => own u && !same u).take (tlbEntries t.core - 1) ++ s.tlb.filter fun u => !own u) }

/-- A core's L1 TLB takes a translation (R217). -/
def State.cacheL1 (s : State) (core : Option Nat) (t : Tlb) : State := if core.isSome then s.cache { t with core } else s

/-- Discard the cached translations that failed with a fault, and the cached non-leaf entries above them (R217). -/
def State.discardStale (s : State) (t : Trap) : State :=
  if t.stale.isEmpty then s
  else { s with
    tlb := s.tlb.filter fun u => !(t.stale.any fun e => u.ctx = e.1 && u.die = e.2.1 && u.page = e.2.2 / u.size),
    walks := s.walks.filter fun w => !(t.stale.any fun e => w.ctx = e.1 && w.die = e.2.1 && w.high = e.2.2 / 2 ^ w.low) }

/-- The cached non-leaf entry from which a walk starts, when it starts from one (R219). -/
def State.walkStart? (s : State) (ctx die va : Nat) : Option WalkEntry :=
  if s.loose.hit then
    s.walks.find? fun w => w.ctx = ctx && w.die = die && w.high = va / 2 ^ w.low && decide (s.ns < w.expiry)
  else none

/-- A walk from a cached non-leaf entry, and afresh from the root when there is none or what it reaches is no leaf that grants the
need (R215, R217). -/
def State.walkFor (s : State) (ctx die va : Nat) (need : Need) : Except Trap Leaf :=
  match (s.walkStart? ctx die va).map fun w => walkFrom s die va (walkLevels.drop w.lvl) w.lvl w.table with
  | some (.ok lf) => if grants lf.entry need then .ok lf else walk s ctx die va
  | _ => walk s ctx die va

/-- The non-leaf entries of a walk are cached, with SR_LEASE.MAX (R219). -/
def State.cacheWalk (s : State) (ctx die va : Nat) (lf : Leaf) : State :=
  if !s.loose.fill then s
  else
    let new := lf.above.map fun e =>
      let low := ((walkLevels[e.1 - 1]?).getD (0, 0)).1
      ({ ctx, die, lvl := e.1, low, high := va / 2 ^ low, table := e.2.2,
         expiry := s.ns + max 2000 ((s.context ctx).lease.toNat * 1000) } : WalkEntry)
    { s with walks := new ++ s.walks.filter fun w =>
        !(new.any fun n => n.ctx = w.ctx && n.die = w.die && n.low = w.low && n.high = w.high) }

/-- The walker's reads fetch the lines of other dies into its L2 (R210). -/
def State.fetchWalk (s : State) (die : Nat) (lf : Leaf) : State :=
  (lf.above.map (fun e => e.2.1) ++ [lf.addr]).foldl (fun s a => match s.placeOf die a with
    | .cell _ home => if home = die then s else s.fetchLine die home false (lineOf a)
    | _ => s) s

/-- The 32 leaves of a contiguous hint that a walk reads hold an uncorrectable error (R351). -/
def hintPoisoned (s : State) (die : Nat) (lf : Leaf) : Bool :=
  lf.lvl = 3 && bit lf.entry 7 && Config.contiguous s.tick && s.physPoisoned die (lf.addr / 256 * 256) 256

/-- A leaf that translates an access sets A, and D for a write, and is cached (R215–R217, R219). -/
def State.useLeaf (s : State) (ctx die : Nat) (core : Option Nat) (va : Nat) (need : Need) (lf0 : Leaf) : State × Xlat :=
  let lf := (hinted s die lf0).1
  let size := (hinted s die lf0).2
  let e := lf.entry
  let e := if bit e 12 then e else e + 2 ^ 12
  let e := if need.w && !bit e 13 then e + 2 ^ 13 else e
  let s := (s.fetchWalk die lf0).cacheWalk ctx die va lf0
  let s := if e = lf.entry then s else s.physWrite die lf.addr 8 e
  let s := if bit lf0.entry 7 && lf0.lvl = 3 then { s with tick := s.tick + 1 } else s
  let frame := frameOf e * 2 ^ 15 / size * size
  let expiry := s.ns + leaseNs s ctx e
  let t : Tlb := { ctx, die, core := none, page := va / size, size, frame, leaf := BitVec.ofNat 64 e, expiry }
  ((s.cache t).cacheL1 core t, { pa := frame + va % size, leaf := e, toEnd := size - va % size, expiry })

/-- A migration has cleared the W of a leaf that had it (R402, R403). -/
def State.migrating (s : State) (lf : Leaf) : Bool :=
  !bit lf.entry 3 && !bit lf.entry 6 && s.migrations.any fun m => m.pte = lf.addr && bit m.old.toNat 3

/-- Translate an address for an access of a core, or of an engine or unit of the die, setting A and D and filling the caches
(R215–R217, R219). A write that meets a leaf whose W a migration has cleared waits (R403). Under a contiguous hint A and D go to the
leaf that the walk reached or took, and its fields stand for all 32: the spec does not say which of them an access sets (log 66). -/
def translate (s : State) (ctx die va : Nat) (need : Need) (core : Option Nat := none) : Except Stop (State × Xlat) :=
  match s.cached? ctx die core va need with
  | some t =>
    .ok (s.cacheL1 core t, { pa := t.frame + va % t.size, leaf := t.leaf.toNat, toEnd := t.size - va % t.size, expiry := t.expiry })
  | none =>
    match s.walkFor ctx die va need with
    | .error t => .error (some { t with stale := [(ctx, die, va)] })
    | .ok lf0 =>
      let lf := (hinted s die lf0).1
      if hintPoisoned s die lf0 then .error (some { trap .uncorrectable with freezes := some die })
      else if (need.w || need.pw) && s.migrating lf then .error none
      else if !grants lf.entry need then .error (some { trap .pageProtection with stale := [(ctx, die, va)] })
      else .ok (s.useLeaf ctx die core va need lf0)

/-! ### Global accesses (R103, R211, R221) -/

/-- Who accesses: the context and die of a group, whether it is a thread of system code, and the core whose L1 TLB it uses. -/
structure Agent where
  ctx : Nat
  die : Nat
  sys : Bool := false
  core : Option Nat := none

/-- The number of a group's core among the L1 TLBs of its die. -/
def Group.coreNum (g : Group) : Nat := if g.isHost then 64 + g.core else g.core

def Group.agent (g : Group) : Agent := ⟨g.ctx, g.die, g.isHost && g.sys, some g.coreNum⟩

/-- The place that an access of an agent reaches. At an address that no region holds, system code reaches the control space, by a
load or a store, not both (R438); where its registers stand is free (log 52). -/
def State.placeFor (s : State) (a : Agent) (need : Need) (pa : Nat) : Place :=
  match (if need.w then s.writePlace a.die pa else s.placeOf a.die pa) with
  | .nowhere => if a.sys && need.r != need.w && decide (Config.controlTable pa < 12) then .control pa else .nowhere
  | p => p

/-- Bits [59:57] of a pointer are 0 (R211). -/
def canonical (ea : Nat) : Bool := bits ea 57 3 = 0

/-- An address an access has been granted. -/
structure Grant where
  place : Place
  pa : Nat
  /-- The access compares tags: the leaf's T bit (R221). -/
  tagged : Bool
  /-- The leaf's COH and REP (R396, R401). -/
  coh : Nat := 0
  rep : Bool := false
  /-- Its region is REPLREAD, and the copies: for a write those other than the home's (R393). -/
  repl : Bool := false
  copies : List Nat := []
  /-- The last moment at which the access may be performed, in ns (R219). -/
  limit : Nat := 0

/-- Where a granted byte of this package has its home. -/
def Grant.home? (gr : Grant) : Option Home :=
  match gr.place with
  | .cell _ home => some { die := home, pa := gr.pa, coh := gr.coh, repl := gr.repl, limit := gr.limit }
  | _ => none

/-- Keys in each 32-byte granule that a range touches (R221). -/
def granulesOf (k size : Nat) : List Nat := k :: ((List.range (size / 32)).map fun i => k + 32 * i) ++ [k + size - 1]

/-- The region of a physical address is REPLREAD (R393). -/
def State.isRepl (s : State) (pa : Nat) : Bool := (s.regionOf pa).elim false fun e => e.target ≠ 4 && e.mode = 1

/-- What an access is granted at a place of a physical address: `tagged` that its page compares tags, `fails` that they differ. -/
def State.grantAt (s : State) (p : Place) (pa size : Nat) (need : Need) (tagged : Bool) (tag coh : Nat) (rep : Bool) (expiry : Nat) :
    Except Stop (State × Grant) :=
  let limit := expiry + 2000
  match p with
  | .nowhere => .error (some { trap .pageProtection with noRegion := true })
  | .control c => .ok (s, { place := .control c, pa, tagged := false })
  | .remote p r => .ok (s, { place := .remote p r, pa, tagged, limit })
  | .cell k h =>
    if tagged && (granulesOf k size).any (fun j => (s.tagAt j).toNat ≠ tag) then .error (some (trap .tagMismatch))
    else .ok (s, { place := .cell k h, pa, tagged, coh, rep, repl := s.isRepl pa, copies := if need.w then s.copyKeys pa else s.allCopies h pa,
                   limit })

/-- The address checks of R103 from the translation on: page, region, tag. -/
def accessMapped (s : State) (a : Agent) (ea size : Nat) (need : Need) (checkTag : Bool) : Except Stop (State × Grant) :=
  match translate s a.ctx a.die (ea % 2 ^ 57) need a.core with
  | .error e => .error e
  | .ok (s, x) =>
    s.grantAt (s.placeFor a need x.pa) x.pa size need (checkTag && bit x.leaf 5) (bits ea 60 4) (bits x.leaf 8 2) (bit x.leaf 6) x.expiry

/-- The checks of R103 in its order: alignment, canonical form, translation, permission, region, tag. -/
def access (s : State) (a : Agent) (ea size align : Nat) (need : Need) (checkTag : Bool := true) :
    Except Stop (State × Grant) :=
  if ea % align ≠ 0 then .error (some (trap .align))
  else if !canonical ea then .error (some (trap .canonical))
  else accessMapped s a ea size need checkTag

/-- The order in which checks decide between lanes (R103, R198). -/
def causeRank (c : Cause) : Nat :=
  match c with
  | .align => 0
  | .canonical => 1
  | .pageNotPresent => 2
  | .pageProtection => 3
  | .tagMismatch => 4
  | _ => 5

/-- The fault of a word from its lanes' faults: the first failing check decides; SR_TVAL is the mask of the lanes that fail
it and SR_TADDR the lowest one's address (R198, R243, R350). -/
def combineTraps (fs : List (Nat × DWord × Trap)) (once : Bool) : Option Trap :=
  match fs with
  | [] => none
  | (_, _, t0) :: _ =>
    let best := fs.foldl (fun r f => min r (causeRank f.2.2.cause)) (causeRank t0.cause)
    let same := fs.filter fun f => causeRank f.2.2.cause = best
    match same with
    | [] => none
    | (_, ea, t) :: _ =>
      some { t with tval := if once then 1 else maskOf (same.map fun f => f.1), byLanes := true, taddr := some ea,
                    stale := fs.flatMap fun f => f.2.2.stale, freezes := fs.findSome? fun f => f.2.2.freezes }

/-- Run a checked access for each item of a list, each of some lane: either every item's grant, or the word's fault, or a
wait. -/
def eachItem {α β : Type} (s : State) (items : List β) (lane : β → Nat) (ea : β → DWord) (once : Bool)
    (f : State → β → Except Stop (State × α)) : Except Stop (State × List (β × α)) :=
  let step := fun (acc : State × List (β × α) × List (Nat × DWord × Trap) × Bool) i =>
    match f acc.1 i with
    | .ok (s', x) => (s', acc.2.1 ++ [(i, x)], acc.2.2.1, acc.2.2.2)
    | .error (some t) => (acc.1, acc.2.1, acc.2.2.1 ++ [(lane i, ea i, t)], acc.2.2.2)
    | .error none => (acc.1, acc.2.1, acc.2.2.1, true)
  let r := items.foldl step (s, [], [], false)
  match combineTraps r.2.2.1 once with
  | some t => .error (some t)
  | none => if r.2.2.2 then .error none else .ok (r.1, r.2.1)

/-- Run a checked access for each lane. -/
def eachLane {α : Type} (s : State) (lanes : List Nat) (ea : Nat → DWord) (once : Bool)
    (f : State → Nat → Except Stop (State × α)) : Except Stop (State × List (Nat × α)) :=
  eachItem s lanes (fun l => l) ea once f

/-! ### Records (R358–R360, R374) -/

/-- The number of a cause (R350). -/
def Cause.code : Cause → Nat
  | .illegalOp => 0x01 | .illegalOperand => 0x02 | .illegalForm => 0x03 | .badHeader => 0x04 | .regRange => 0x05
  | .windowRange => 0x06 | .align => 0x07 | .scrBounds => 0x08 | .cluBounds => 0x09 | .dieBounds => 0x0A
  | .placeRange => 0x0B | .queueUnbound => 0x0C | .queueMisuse => 0x0D | .pageNotPresent => 0x10
  | .pageProtection => 0x11 | .tagMismatch => 0x12 | .canonical => 0x13 | .multiDenied => 0x14
  | .recordOverflow => 0x15 | .watchdog => 0x18 | .tokenExpired => 0x19 | .trailerCheck => 0x1A | .formatBlock => 0x1B
  | .softwareTrap => 0x20 | .breakpoint => 0x21 | .uncorrectable => 0x28 | .freeze => 0x30 | .halt => 0x3F

/-- The delivery classes of R350. -/
inductive CauseClass where | h | p | f | e
  deriving DecidableEq, Repr

def Cause.cls : Cause → CauseClass
  | .pageNotPresent | .pageProtection => .p
  | .uncorrectable => .f
  | .freeze | .halt => .e
  | _ => .h

/-- SR_CAUSE's fixed bits for a fault (R355). -/
def Trap.causeWord (t : Trap) : Word :=
  BitVec.ofNat 32 (t.cause.code + 64 * t.engine.toNat + 256 * t.malformed.toNat + 512 * t.noRegion.toNat + 1024 * t.remote.toNat)

/-- The 64 bytes of a fault record (R359). -/
def FaultRecord.bytes (r : FaultRecord) (time seq : Nat) : List Byte :=
  bytesOf 8 time ++ bytesOf 4 seq ++
  bytesOf 1 ((r.openCode.elim r.trap.cause.code BitVec.toNat) + 64 * r.trap.engine.toNat + 128 * r.nested.toNat) ++ bytesOf 1 r.kind ++ bytesOf 1 r.ctx ++
  bytesOf 1 r.master ++ bytesOf 1 r.die ++ bytesOf 1 r.core ++ bytesOf 1 r.slot ++ bytesOf 1 r.grpx ++
  bytesOf 4 r.lanes.toNat ++ bytesOf 8 r.pc.toNat ++ bytesOf 4 r.trap.tval.toNat ++ bytesOf 4 r.lseq.toNat ++
  bytesOf 8 (r.trap.taddr.getD 0).toNat ++ bytesOf 8 r.ticket.toNat ++ bytesOf 4 r.w ++
  bytesOf 1 (r.trap.malformed.toNat + 2 * r.trap.noRegion.toNat + 4 * r.trap.remote.toNat) ++ bytesOf 3 0

/-- Append an event to a die's black box, which keeps the newest 8,192 (R374). -/
def State.boxEvent (s : State) (die kind source : Nat) (data : DWord) : State :=
  s.modDie die fun d =>
    let box := d.box ++ [{ time := s.ns % 2 ^ 48, kind, source, data }]
    { d with box := box.drop (box.length - 8192) }

/-- The key of a record's source on its die: a core, a host core or the die's control unit (R360). -/
def FaultRecord.source (r : FaultRecord) : Nat := if r.master = 0 || r.master = 3 then r.core else 0x40

/-- Append 64 bytes to the fault queue whose register holds `fq`; a full queue counts its loss (R358). -/
def State.queueRecord (s : State) (die fq : Nat) (data : List Byte) : State :=
  let hdr := bits fq 5 47 * 32
  if !bit fq 0 || s.physPoisoned die hdr 32 then s
  else
    let ring := s.physRead die hdr 8
    let cap := s.physRead die (hdr + 8) 4
    let head := s.physRead die (hdr + 12) 4
    let tail := s.physRead die (hdr + 16) 4
    if cap = 0 || (tail + 1) % cap = head then
      s.physWrite die (hdr + 20) 4 (min 0xFFFFFFFF (s.physRead die (hdr + 20) 4 + 1))
    else (s.writeCopies die (ring + 64 * tail) data).physWrite die (hdr + 16) 4 ((tail + 1) % cap)

/-- The next record sequence number of a record's source is taken (R360). -/
def State.countRecord (s : State) (r : FaultRecord) : Nat × State :=
  let d := r.writer.getD r.die
  let seq := (sread (s.die d).recSeq r.source).toNat
  (seq, s.modDie d fun e => { e with recSeq := swrite e.recSeq r.source (BitVec.ofNat 32 (seq + 1)) })

/-- The header of the fault queue whose register holds `fq` carries an uncorrectable error (R351). -/
def State.queuePoisoned (s : State) (die fq : Nat) : Bool := bit fq 0 && s.physPoisoned die (bits fq 5 47 * 32) 32

/-- A fault record goes to a context's fault queue (R358) and to the die's black box (R374). -/
def State.putRecord (s : State) (queueCtx : Nat) (r : FaultRecord) : State :=
  let c := s.countRecord r
  let data := r.bytes s.ns c.1
  (c.2.boxEvent (r.writer.getD r.die) 1 r.source (BitVec.ofNat 64 (fieldAt data 8 8))).queueRecord r.die
    (s.context queueCtx).fqueue.toNat data

end Sys2Proof.Machine
end

