-- ==== Sys2Proof/Machine/Pending.lean ====
section
/-! DEFINITION. Accesses that are issued and not yet performed: what a split's paths see (R226–R236), when an access may be performed
(R230, R398), and what fences and rejoins hold (R136, R231, R233). -/

namespace Sys2Proof.Machine

open Sys2Proof

/-! ### What a path of a split sees (R228, R229, R236) -/

/-- A path of some lanes still sees the sector's old bytes. -/
def OldSector.hides (o : OldSector) (lanes : LaneMask) (q : Option Path) (k : Nat) : Bool :=
  o.lanes &&& lanes ≠ 0 && o.key = k / 32 * 32 &&
  q.elim true fun q => !(o.sources.any fun e => e.1 = q) && !o.barred.contains q

/-- The old byte that a path of some lanes still sees (R236). -/
def Group.oldByte? (g : Group) (lanes : LaneMask) (q : Option Path) (k : Nat) : Option Byte :=
  (g.olds.find? fun o => o.hides lanes q k).bind fun o => o.bytes[k % 32]?

/-- The byte of a key that a line of the core's L1 gives a load, when the load is answered there (R209). -/
def State.lineByte? (s : State) (g : Group) (q : Option Path) (k : Nat) : Option Byte :=
  if s.loose.hit && q = some .glb then (s.line? g k).bind fun e => e.bytes[k % 128]? else none

/-- The byte of a key on a die: as its L2 has the line, or as memory is (R210, R396). -/
def State.dieByte (s : State) (die k : Nat) : Byte := (s.l2Byte? die k).getD (s.byteAt k)

/-- A line enters the L1 of a group's core. -/
def State.fillLine (s : State) (g : Group) (k : Nat) : State :=
  let e : L1Line := { die := g.die, host := g.isHost, core := g.core, line := k / 128, bytes := (List.range 128).map fun i => s.dieByte g.die (k / 128 * 128 + i) }
  { s.dropLine g k with l1 := e :: (s.dropLine g k).l1 }.fitL1 g.die g.core

/-- The byte of a key as an access of some lanes on a path sees it: what other paths have not yet made visible (R236), then the L1
(R209), then the die's. -/
def State.seenByte (s : State) (g : Group) (lanes : LaneMask) (q : Option Path) (k : Nat) : Byte :=
  ((g.oldByte? lanes q k).or (s.lineByte? g q k)).getD (s.dieByte g.die k)

/-- `n` bytes from a key upward, so seen. -/
def State.seenBytes (s : State) (g : Group) (lanes : LaneMask) (q : Option Path) (k n : Nat) : List Byte :=
  (List.range n).map fun i => s.seenByte g lanes q (k + i)

/-! ### Values for results that wait -/

/-- A destination with another value. -/
def Dest.put (d : Dest) (x : Word) : Dest :=
  match d with
  | .vec phys lane _ => .vec phys lane x
  | .scal n _ => .scal n x
  | .word k _ => .word k x

/-- A destination that is a word of a pushed entry. -/
def Dest.isWord : Dest → Bool
  | .word .. => true
  | _ => false

/-- Destinations with the words that loaded bytes give them (R102). -/
def fillDests (ds : List Dest) (width : LWidth) (n : Nat) : List Dest :=
  match loadWords width n with
  | [x] => ds.map fun d => d.put x
  | xs => (ds.zip xs).map fun e => e.1.put e.2

/-- A word of an entry gets its value. -/
def Entry.put (e : Entry) (d : Dest) : Entry :=
  match d with
  | .word k x => { e with words := setAt e.words k x }
  | _ => e

/-- Results that have become known are added to those that wait to be written (R14). -/
def Work.fill (w : Work) (ds : List Dest) : Work :=
  match w with
  | .results rs push bt => .results (rs ++ ds.filter fun d => !d.isWord) (push.map fun e => (e.1, ds.foldl Entry.put e.2)) bt
  | w => w

/-! ### Reads -/

/-- The reads of an instruction that a predicate names get their values: each the number its bytes hold, or none yet. Their lines leave
the core's L1. -/
def State.fixReads (s : State) (g : Group) (f : Flight) (sel : LateRead → Bool) (val : LateRead → Nat) : State :=
  let rs := f.late.filter sel
  if rs.isEmpty then s
  else
    (rs.foldl (fun s r => s.dropLine g r.key) s).modGroup g.id fun h => h.modFlight f.id fun e =>
      { e with late := e.late.filter fun r => !sel r, work := e.work.fill (rs.flatMap fun r => fillDests r.dests r.width (val r)) }

/-- What a read that asks nobody gets when it is fixed. -/
def State.readNow (s : State) (g : Group) (f : Flight) (r : LateRead) : Nat :=
  ofBytes (s.seenBytes g f.lanes f.path r.key (loadBytes r.width))

/-- The reads of an instruction that ask nobody, and meet a range, are fixed now. -/
def State.fixIn (s : State) (g : Group) (f : Flight) (sel : LateRead → Bool) : State :=
  s.fixReads g f (fun r => r.asked.isNone && sel r) (s.readNow g f)

/-- The reads of a group that a predicate names, of those that ask nobody, are fixed now. -/
def State.fixGroup (s : State) (gid : Nat) (sel : LateRead → Bool) : State :=
  match s.group? gid with
  | none => s
  | some g => g.flights.foldl (fun s f => s.fixIn g f sel) s

/-- Before an engine's write of a sector, and before a line leaves an L2, every read of it that is not fixed is fixed, so that no load
mixes its bytes (R228). -/
def State.fixOver (s : State) (k n : Nat) : State :=
  s.groups.foldl (fun s g => s.fixGroup g.id fun r => overlap r.key (loadBytes r.width) k n) s

/-- So are those of the bytes that a write at a physical address is to change, in every copy. -/
def State.fixPhys (s : State) (die pa n : Nat) : State :=
  match s.writePlace die pa with
  | .cell k _ => (k :: s.copyKeys pa).foldl (fun s k => s.fixOver k n) s
  | _ => s

/-- A line leaves a die's L2, once the reads of it have been fixed (R228, R398). -/
def State.dropL2 (s : State) (die : Nat) (sel : L2Line → Bool) : State :=
  let gone := s.l2.filter fun e => e.die = die && sel e
  let s := gone.foldl (fun s e => s.fixOver e.key 128) s
  { s with l2 := s.l2.filter fun e => !(e.die = die && sel e) }

/-! ### Old bytes (R228, R236) -/

/-- Entries of a group's old bytes are dropped, once the reads under them have been fixed. -/
def State.dropOlds (s : State) (gid : Nat) (sel : OldSector → Bool) : State :=
  match s.group? gid with
  | none => s
  | some g =>
    ((g.olds.filter sel).foldl (fun s o => s.fixGroup gid fun r => overlap r.key (loadBytes r.width) o.key 32) s).modGroup gid fun g =>
      { g with olds := g.olds.filter fun o => !sel o }

/-- The sectors that a range of bytes meets. -/
def sectorsOf (k n : Nat) : List Nat := if n = 0 then [] else (List.range ((k + n - 1) / 32 - k / 32 + 1)).map fun i => (k / 32 + i) * 32

/-- What a write of some lanes on a path leaves of the old bytes of a sector: with `old`, the split's other paths go on seeing the sector
as it was, and otherwise every path sees it as it is (R236). -/
def State.noteSector (s : State) (gid : Nat) (lanes : LaneMask) (fid : Nat) (q : Path) (k : Nat) : State :=
  let mine (o : OldSector) : Bool := o.lanes &&& lanes ≠ 0 && o.key = k
  if s.loose.old then
    s.modGroup gid fun g =>
      if g.olds.any mine then
        { g with olds := g.olds.map fun o => if mine o then { o with sources := o.sources ++ [(q, fid)], lanes := o.lanes ||| lanes } else o }
      else
        let bs := (List.range 32).map fun i => s.dieByte g.die (k + i)
        { g with olds := g.olds ++ [{ lanes, sources := [(q, fid)], key := k, bytes := bs, now := bs }] }
  else s.dropOlds gid mine

/-- After a write the sectors noted are as memory is. -/
def State.noteNow (s : State) (gid : Nat) (lanes : LaneMask) (ks : List Nat) : State :=
  s.modGroup gid fun g =>
    { g with olds := g.olds.map fun o => if o.lanes &&& lanes ≠ 0 && ks.contains o.key then { o with now := s.bytesAt o.key 32 } else o }

/-- Write bytes at a key in the memory, and in the copies that the writing die's L2 and the writing core's L1 hold (R209, R398). -/
def State.putBytes (s : State) (g : Group) (k : Nat) (bs : List Byte) : State :=
  let patch (e : L2Line) : L2Line :=
    if e.die = g.die && !e.bytes.isEmpty && e.key = k / 128 * 128 then
      { e with bytes := e.bytes.take (k % 128) ++ bs ++ e.bytes.drop (k % 128 + bs.length) } else e
  { s.writeMem k bs with l2 := s.l2.map patch }.writeLine g k bs

/-- A write event of some lanes on a path. -/
def State.writeEvent (s : State) (g : Group) (lanes : LaneMask) (fid : Nat) (q : Option Path) (k : Nat) (bs : List Byte) : State :=
  let ks := sectorsOf k bs.length
  let s := q.elim s fun q => ks.foldl (fun s k => s.noteSector g.id lanes fid q k) s
  (s.putBytes g k bs).noteNow g.id lanes ks

/-! ### Performing (R226, R230, R398) -/

/-- A lane's write is performed. -/
def State.performWrite (s : State) (g : Group) (lanes : LaneMask) (fid : Nat) (q : Option Path) (w : LaneWrite) : State :=
  s.writeEvent g lanes fid q w.key w.bytes

def State.performWrites (s : State) (g : Group) (lanes : LaneMask) (fid : Nat) (q : Option Path) (ws : List LaneWrite) : State :=
  ws.foldl (fun s w => s.performWrite g lanes fid q w) s

/-- The old values that a read-modify-write gives its lanes, and the word it leaves (R251). -/
def AtomUnit.combine (u : AtomUnit) (x : Nat) : List Dest × Nat :=
  let r := atomCombine u.op x (u.items.map fun i => (i.1, i.2.1))
  ((u.items.zip r.1).flatMap fun e => e.1.2.2.map fun d => d.put (BitVec.ofNat 32 e.2), r.2)

/-- A read-modify-write is performed: one event in memory; its line leaves the core's L1 (R229, R252). -/
def State.performAtom (s : State) (g : Group) (f : Flight) (u : AtomUnit) : State :=
  let r := u.combine (s.readMem u.key 4)
  ((s.writeEvent g f.lanes f.id f.path u.key (bytesOf 4 r.2)).dropLine g u.key).modGroup g.id fun h => h.modFlight f.id fun e =>
    { e with atoms := removeFirst e.atoms u, work := e.work.fill r.1 }

/-- The key and size of each access of an instruction that is not performed or fixed. -/
def Flight.cells (f : Flight) : List (Nat × Nat) :=
  f.writes.map (fun w => (w.key, w.bytes.length)) ++ f.late.map (fun r => (r.key, loadBytes r.width)) ++ f.atoms.map fun u => (u.key, 4)

def meets (a : Nat × Nat) (cs : List (Nat × Nat)) : Bool := cs.any fun c => overlap a.1 a.2 c.1 c.2

/-- Some access of an instruction is not performed or fixed. -/
def Flight.loose (f : Flight) : Bool := !f.cells.isEmpty

/-- The instructions of a path that some lanes issued. -/
def Flight.ofLine (f : Flight) (lanes : LaneMask) (q : Option Path) : Bool := f.lanes &&& lanes ≠ 0 && f.path = q

/-- An earlier instruction of the same lanes and path has an access of the same bytes that is not performed (R230). -/
def Group.isBehind (g : Group) (f : Flight) (c : Nat × Nat) : Bool :=
  g.flights.any fun e => decide (e.id < f.id) && e.ofLine f.lanes f.path && meets c e.cells

/-- A write, or a read-modify-write, of a group may be performed as far as its home is concerned. -/
def State.homeReady (s : State) (g : Group) (asked : Option Nat) (h : Option Home) : Bool :=
  asked.isNone && h.elim true fun h => s.mayWrite g.die h

/-- Accesses of a line go to its home as WR and ATOM: a REPLREAD region's, and those of memory that is not shared and has its home on
another die (R393, R396). -/
def Home.away (h : Home) (die : Nat) : Bool := h.repl || (h.coh ≠ 0 && h.die ≠ die)

/-- A write that cannot be performed here goes to its home as WR, or asks for the ownership of its line (R393, R396, R398). -/
def State.askWrite (s : State) (g : Group) (fid : Nat) (w : LaneWrite) : State :=
  match w.asked, w.home with
  | none, some h =>
    if s.lineBlocked g.die h.pa then s
    else if h.away g.die then
      let t := s.nextTag
      (t.2.send { type := 3, src := g.die, dst := h.die, tag := t.1, addr := h.pa, payload := w.bytes, len := w.bytes.length, asker := g.die,
                  plain := true }).modGroup g.id fun e => e.modFlight fid fun f =>
        { f with writes := f.writes.map fun v => if v = w then { v with asked := some t.1 } else v }
    else s.fetchLine g.die h.die true (lineOf h.pa)
  | _, _ => s

/-- A read-modify-write that cannot be performed here goes to its home as ATOM, or asks for the ownership of its line (R396, R398). -/
def State.askAtom (s : State) (g : Group) (fid : Nat) (u : AtomUnit) : State :=
  match u.asked, u.home with
  | none, some h =>
    if s.lineBlocked g.die h.pa then s
    else if h.away g.die then
      let t := s.nextTag
      ((atomPayloads u.op (u.items.map fun i => (i.1, i.2.1))).foldl (fun s pl =>
        s.send { type := 4, src := g.die, dst := h.die, tag := t.1, addr := h.pa, payload := pl, len := 16, asker := g.die, plain := true })
        t.2).modGroup g.id fun e => e.modFlight fid fun f =>
        { f with atoms := f.atoms.map fun v => if v = u then { v with asked := some t.1 } else v }
    else s.fetchLine g.die h.die true (lineOf h.pa)
  | _, _ => s

/-- The writes of an instruction that a predicate on key and size names are performed where they may be. -/
def State.flushWrites (s : State) (g : Group) (f : Flight) (sel : Nat × Nat → Bool) : State :=
  f.writes.foldl (fun s w =>
    let c := (w.key, w.bytes.length)
    if !sel c || ((s.group? g.id).getD g).isBehind f c then s
    else if s.homeReady g w.asked w.home then
      (s.performWrite g f.lanes f.id f.path w).modGroup g.id fun h => h.modFlight f.id fun e => { e with writes := removeFirst e.writes w }
    else s.askWrite g f.id w) s

/-- The read-modify-writes of an instruction that a predicate names are performed where they may be. -/
def State.flushAtoms (s : State) (g : Group) (f : Flight) (sel : Nat × Nat → Bool) : State :=
  f.atoms.foldl (fun s u =>
    if !sel (u.key, 4) || ((s.group? g.id).getD g).isBehind f (u.key, 4) then s
    else if s.homeReady g u.asked u.home then s.performAtom g f u
    else s.askAtom g f.id u) s

/-- The accesses of an instruction that a predicate names are performed or fixed where they may be. -/
def State.settleFlight (s : State) (gid fid : Nat) (sel : Nat × Nat → Bool) : State :=
  match (s.group? gid).bind fun g => (g.flight? fid).map fun f => (g, f) with
  | none => s
  | some (g, f) =>
    ((s.flushWrites g f sel).flushAtoms g f sel).fixIn g f fun r =>
      sel (r.key, loadBytes r.width) && !g.isBehind f (r.key, loadBytes r.width)

/-- What an instruction gets from the answer to a request, given the line's bytes as they were: its reads and its read-modify-writes that
have asked under the tag (R387, R398, R399). -/
def State.answerFlight (s : State) (g : Group) (f : Flight) (tag : Nat) (line : List Byte) : State :=
  let word (k n : Nat) : Nat := fieldAt line (k % 128) n
  let us := f.atoms.filter fun u => u.asked = some tag
  let s := s.fixReads g f (fun r => r.asked = some tag) fun r => if r.forTag then fieldAt line 0 1 % 16 else word r.key (loadBytes r.width)
  if us.isEmpty then s
  else s.modGroup g.id fun h => h.modFlight f.id fun e =>
    { e with atoms := e.atoms.filter fun u => u.asked ≠ some tag, work := e.work.fill (us.flatMap fun u => (u.combine (word u.key 4)).1) }

/-- An answer reaches every instruction that has asked under its tag. -/
def State.answer (s : State) (tag : Nat) (line : List Byte) : State :=
  s.groups.foldl (fun s g => g.flights.foldl (fun s f => s.answerFlight g f tag line) s) s

/-- Every access of a group that may be performed is performed, in issue order. -/
def State.performReady (s : State) (gid : Nat) : State :=
  match s.group? gid with
  | none => s
  | some g => (g.flights.filter Flight.loose).foldl (fun s f => s.settleFlight gid f.id fun _ => true) s

/-- The cells that an access of some cells waits for: those that meet them, of earlier instructions of its lanes and path, and those
that these wait for in turn. -/
def Group.chainCells (g : Group) (lanes : LaneMask) (q : Option Path) (cells : List (Nat × Nat)) : List (Nat × Nat) :=
  g.flights.foldr (fun f cs => if f.ofLine lanes q then cs ++ f.cells.filter fun c => meets c cs else cs) cells

/-- An access waits for its split's earlier accesses of the same bytes on the same path: they are performed first, where they may
be (R230). -/
def State.orderFor (s : State) (g : Group) (lanes : LaneMask) (q : Option Path) (cells : List (Nat × Nat)) : State :=
  let cs := g.chainCells lanes q cells
  (g.flights.filter fun f => f.loose && f.ofLine lanes q).foldl (fun s f => s.settleFlight g.id f.id fun c => meets c cs) s

/-- A read still waits for an answer that an access issued now may share: a request for its line that no INV has overtaken (R399). -/
def State.sharesFill (s : State) (r : LateRead) : Bool :=
  r.asked.elim false fun t => s.packets.any fun p => p.tag = t && !p.skip && !p.plain && (p.type = 1 || p.type = 7 || p.type = 8)

/-- An access of some cells must still wait for an earlier one of its lanes and path (R230). -/
def State.blocked (s : State) (gid : Nat) (lanes : LaneMask) (q : Option Path) (cells : List (Nat × Nat)) (reads : Bool) : Bool :=
  (s.group? gid).elim false fun g => g.flights.any fun f => f.ofLine lanes q &&
    (f.writes.any (fun w => meets (w.key, w.bytes.length) cells) || f.atoms.any (fun u => meets (u.key, 4) cells) ||
     f.late.any fun r => meets (r.key, loadBytes r.width) cells && !(reads && s.sharesFill r))

/-! ### When an access is performed at its scope (R226, R239, R391) -/

/-- A unit of a COLL on its way (R387). -/
def MeshPacket.isColl (p : MeshPacket) : Bool := 0x18 ≤ p.type && p.type ≤ 0x1B

/-- A packet of an instruction has not been acknowledged by another package (R226, R427), or a unit of it is not combined (R423). -/
def State.awayFrom (s : State) (gid fid : Nat) : Bool :=
  s.fabricOut.any (fun f => f.owner = some (gid, fid)) || s.packets.any fun p => p.isColl && p.asker = gid && p.count = fid

/-- The ownership of a line that a die asked for has not come with every acknowledgement (R239), or a control register that it accesses has
not answered (R391). -/
def State.lineOpen (s : State) (die l : Nat) : Bool :=
  s.acks.any (fun a => a.writer = die && a.line = l) ||
    s.packets.any (fun q => q.addr = l &&
      ((q.owns && q.asker = die) || (q.type = 0x30 && (q.src = die || q.dst = die)) ||
       (q.type = 0xA && q.aux = 3 && q.dst = die))) ||
    s.controlWrites.any fun w => w.origin.elim false fun o => o.1 = die && o.2.2 = l

/-- A line or control register that an instruction waits for is open. -/
def State.counting (s : State) (g : Group) (f : Flight) : Bool := f.lines.any (s.lineOpen g.die)

/-- Some access of an instruction is not performed at its path's scope (R226). -/
def State.unperformed (s : State) (g : Group) (f : Flight) : Bool :=
  !f.writes.isEmpty || !f.atoms.isEmpty || s.awayFrom g.id f.id || s.counting g f

/-! ### Fences and rejoins (R136, R231, R233–R235) -/

/-- The paths whose events a fence covers without a WAITP (R231). -/
def isCovered : Path → Bool
  | .lane | .scr | .clu | .die | .glb => true
  | _ => false

/-- An instruction that some lanes issued before a number. -/
def Flight.before (f : Flight) (n : Nat) (lanes : LaneMask) : Bool := decide (f.id < n) && f.lanes &&& lanes ≠ 0

/-- An event that a release covers is not performed at its scope: for one narrower than PNL what is in memory is performed. -/
def State.coveredOpen (s : State) (g : Group) (f : Flight) (wide : Bool) : Bool :=
  f.path.elim false isCovered && (f.loose || (wide && (s.awayFrom g.id f.id || s.counting g f)))

/-- A unit's access to memory that its split's lanes have asked for and that it pushes to no port is still to be made. -/
def Work.accesses : Work → Bool
  | .copy _ | .mstat .. | .tstore _ | .tload .. | .writeout => true
  | .matrix j => j.kind ≠ 5
  | _ => false

/-- What an order still waits for in the group that made it. -/
def State.openIn (s : State) (g : Group) (o : Order) (f : Flight) : Bool :=
  f.before o.at_ o.lanes &&
  match o.kind with
  | .rel => s.coveredOpen g f o.wide
  | .acq => !f.late.isEmpty || !f.atoms.isEmpty
  | .sc => s.coveredOpen g f o.wide || !f.late.isEmpty || !f.atoms.isEmpty
  | .join => f.loose || (!f.done && f.work.accesses)

/-- An order still waits for something. -/
def State.orderOpen (s : State) (g : Group) (o : Order) : Bool :=
  g.flights.any (s.openIn g o) ||
  o.others.any fun e => (s.group? e.1).elim false fun h => (h.flight? e.2).elim false fun f => s.awayFrom h.id f.id || s.counting h f

/-- The accesses of all groups that are in memory and not acknowledged: a wide release is cumulative (R233). -/
def State.unacknowledged (s : State) : List (Nat × Nat) :=
  s.groups.flatMap fun g => (g.flights.filter fun f => s.awayFrom g.id f.id || s.counting g f).map fun f => (g.id, f.id)

/-- A group gets an order of the instructions that some lanes have issued before what they issue later. -/
def State.addOrder (s : State) (gid : Nat) (lanes : LaneMask) (kind : OrderKind) (wide : Bool := false) : State :=
  s.modGroup gid fun g =>
    let o : Order := { at_ := g.nextFlight, lanes, kind, wide, others := if wide && kind ≠ .acq then s.unacknowledged else [] }
    { g with orders := (g.orders ++ [o]).filter fun o => s.orderOpen g o }

/-- A scope at which an access is performed when it is acknowledged: PNL and SYS (R226, R231). -/
def Scope.wide (sc : Scope) : Bool := sc = .pnl || sc = .sys

/-- A release of a split (R231): it holds the writes that follow. -/
def State.release (s : State) (gid : Nat) (lanes : LaneMask) (sc : Scope) : State := s.addOrder gid lanes .rel (Scope.wide sc)

/-- A covered event of a group's instructions below a number is not performed at PNL. -/
def State.behind (s : State) (g : Group) (n : Nat) : Bool := g.flights.any fun f => decide (f.id < n) && s.coveredOpen g f true

/-- No order of a group holds what lanes do next: what a release orders holds writes alone (R231). -/
def State.releasedFor (s : State) (g : Group) (lanes : LaneMask) (writes : Bool) : Bool :=
  g.orders.all fun o => o.lanes &&& lanes = 0 || (o.kind = .rel && !writes) || o.kind = .join || !s.orderOpen g o

/-- A rejoin's order still holds the merged split (R136). -/
def State.joinOpen (s : State) (g : Group) (lanes : LaneMask) : Bool :=
  g.orders.any fun o => o.kind = .join && o.lanes &&& lanes ≠ 0 && s.orderOpen g o

/-- Some access of the lanes is not performed or fixed. -/
def Group.pendingFor (g : Group) (lanes : LaneMask) : Bool := g.flights.any fun f => f.lanes &&& lanes ≠ 0 && f.loose

/-- An acquire of some lanes: their reads that can be are fixed, at WG or wider the core's L1 forgets its global lines (R209), and the
old bytes that another agent's write has passed are forgotten (R229, R231). -/
def State.acquire (s : State) (g : Group) (lanes : LaneMask) (sc : Scope) : State :=
  let s := s.dropOlds g.id fun o => o.lanes &&& lanes ≠ 0 && s.bytesAt o.key 32 ≠ o.now
  if sc = .grp then s else s.dropL1 g

/-- What a group that ends has issued is performed, whatever ownership it still waits for; what a request has taken to its home is performed
there (R97, R146). -/
def State.performEnding (s : State) (gid : Nat) : State :=
  match s.group? gid with
  | none => s
  | some g => g.flights.foldl (fun s f =>
      let s := (f.writes.filter fun w => w.asked.isNone).foldl (fun s w => s.performWrite g f.lanes f.id f.path w) s
      (f.atoms.filter fun u => u.asked.isNone).foldl (fun s u => s.performAtom g f u) s) s

/-- Every access of a group that may be performed is performed, and every path of its splits sees it. -/
def State.performAll (s : State) (gid : Nat) : State := (s.performReady gid).dropOlds gid fun _ => true

end Sys2Proof.Machine
end

