-- ==== Sys2Proof/Machine/Splits.lean ====
section
/-! DEFINITION. Splits: rejoin records, arrival, release, divergence, deferred splits and the retirement of lanes. -/

namespace Sys2Proof.Machine

open Sys2Proof

/-! ### Records (R133–R138) -/

def Group.join? (g : Group) (n : Nat) : Option Rejoin := g.joins.find? fun r => r.num = n

/-- The records from the innermost outward (R134). `fuel` bounds the chain by the 256 records of a group. -/
def chainFrom (joins : List Rejoin) (inner : Option Nat) (fuel : Nat) : List Rejoin :=
  match fuel, inner with
  | k + 1, some n =>
    match joins.find? fun r => r.num = n with
    | some r => r :: chainFrom joins r.outer k
    | none => []
  | _, _ => []

def Group.chain (g : Group) (inner : Option Nat) : List Rejoin := chainFrom g.joins inner 256

/-- Record numbers in use, of both kinds. -/
def Group.recordsInUse (g : Group) : List Nat := g.joins.map (·.num) ++ g.defers.map (·.num)

/-- The free record numbers, ascending (R137). -/
def Group.freeRecords (g : Group) : List Nat := (List.range 256).filter fun n => !(g.recordsInUse.contains n)

/-- Note that records were referenced, the most recent first, and forget freed ones (R137). What references a record, and in
which order one act references several, is the model's choice (log 62). -/
def Group.touch (g : Group) (ns : List Nat) : Group :=
  { g with recent := (ns ++ g.recent.filter fun n => !(ns.contains n)).filter fun n => g.recordsInUse.contains n }

/-- The word offset of an address from the entry header, when R138's signed 24-bit field can hold it. -/
def Group.recordOffset (g : Group) (a : DWord) : Option Nat :=
  let d := signed 64 (a.toNat + 2 ^ 64 - g.entry.toNat)
  if -(2 ^ 25 : Int) ≤ d ∧ d < 2 ^ 25 then some (wrap 24 (d / 4)) else none

/-- The 16 bytes of a record in the rejoin area (R138). -/
def Group.recordBytes (g : Group) (n : Nat) : List Byte :=
  match g.joins.find? fun r => r.num = n with
  | some r =>
    let adr := match r.joinPc with
      | some a => (g.recordOffset a).getD 0
      | none => 0
    bytesOf 4 r.expected.toNat ++ bytesOf 4 r.arrived.toNat ++ bytesOf 3 adr ++ bytesOf 1 (r.outer.getD 0) ++
    bytesOf 1 (r.defer.getD 0) ++
    bytesOf 1 (2 * r.outer.isNone.toNat + 4 * r.joinPc.isNone.toNat + 8 * r.defer.isSome.toNat) ++ bytesOf 2 r.savedWb
  | none =>
    match g.defers.find? fun d => d.num = n with
    | some d =>
      bytesOf 4 d.lanes.toNat ++ bytesOf 4 0 ++ bytesOf 3 ((g.recordOffset d.addr).getD 0) ++ bytesOf 1 d.owner ++
      bytesOf 1 (d.reissue.getD 0) ++ bytesOf 1 (1 + 16 * d.reissue.isSome.toNat) ++ bytesOf 2 0
    | none => []

/-- The key of a byte of a lane's slice (R199). -/
def Group.sliceKey (g : Group) (lane off : Nat) : Nat := Space.key (.slice g.id lane) off

/-- Write one record's image to the rejoin area (R137). -/
def State.spillRecord (s : State) (g : Group) (n : Nat) : State :=
  s.writeMem (g.sliceKey (n / 8) (g.sliceSize - 512 + 16 * (n % 8))) (g.recordBytes n)

/-- The lanes that rejoin where records of a group are released: every access they have issued comes before what they issue next, on
every path (R136, R235). -/
def State.rejoined (s : State) (gid : Nat) (lanes : LaneMask) : State :=
  if lanes = 0 then s else (s.addOrder gid lanes .join).dropOlds gid fun o => o.lanes &&& lanes ≠ 0

/-- The lanes of the records that a change of a group has released. -/
def Group.releasedLanes (old new : Group) : LaneMask :=
  (old.joins.filter fun r => !(new.joins.any fun q => q.num = r.num)).foldl (fun m r => m ||| (r.expected &&& ~~~new.retired)) 0

/-- Put a group back; a record that has left the chip, or that changed without a place on it, is written to the rejoin area
(R137). Parts of a divergence inherit the order of their split (R235); where splits have merged, their accesses are ordered. -/
def State.putGroup (s : State) (g : Group) : State :=
  let s' := s.modGroup g.id fun _ => g
  match s.group? g.id with
  | none => s'
  | some old =>
    let s' := s'.rejoined g.id (old.releasedLanes g)
    let gone := (g.recent.drop 16).filter fun n =>
      !((old.recent.drop 16).contains n) || g.recordBytes n ≠ old.recordBytes n
    gone.foldl (fun s n => s.spillRecord g n) s'

/-! ### Limits (R139) -/

/-- The group stands on its core: its workgroup is not saved (R365). -/
def State.onCore (s : State) (g : Group) : Bool := (s.workgroup? g.wg).elim true fun w => !w.saved

/-- Free entries of the split table of a group's datapath (R127, R139). -/
def State.tableFree (s : State) (g : Group) : Nat :=
  64 - ((s.groups.filter fun h => s.onCore h && h.die = g.die && h.core = g.core && h.grpx % 2 = g.grpx % 2).map
    fun h => h.splits.length).sum

/-! ### Release and deferred starts (R135, R140) -/

/-- The release of one record: the arrived lanes continue as one split at join_pc. The merged split has no pending rejoin address, whatever
an arriving part had set by a JOINAT of its own: the spec does not say (log 65). -/
def Group.releaseOne (g : Group) (r : Rejoin) : Group :=
  let g := { g with joins := g.joins.filter fun q => q.num ≠ r.num }
  if r.arrived = 0 then g
  else
    let p : Split := { id := g.nextSplit, mask := r.arrived, pc := r.joinPc.getD 0, wb := r.savedWb, pwb := r.pwb, inner := r.outer,
                       wdog := g.budget.toNat, opener := r.opener, handler := r.handler }
    { g with splits := g.splits ++ [p], nextSplit := g.nextSplit + 1 }

/-- A record that releases now (R135). -/
def Group.releasable? (g : Group) : Option Rejoin := g.joins.find? fun r => r.defer.isNone && r.arrived = r.expected

/-- Remove lanes from a record's expected mask. -/
def Rejoin.drop (r : Rejoin) (m : LaneMask) : Rejoin := { r with expected := r.expected &&& ~~~m }

/-- Arrival at a join_pc: the split parks when its next header is one of its chain's join addresses (R134). -/
def Group.arrive (g : Group) (pid : Nat) : Group :=
  match g.split? pid with
  | none => g
  | some p =>
    let ch := g.chain p.inner
    match ch.findIdx? fun r => r.joinPc = some p.pc with
    | none => g
    | some k =>
      let inner := (ch.take k).map (·.num)
      let x := (ch.drop k).head?.map fun (r : Rejoin) => r.num
      let g := { g with
        splits := g.splits.filter fun (q : Split) => q.id ≠ pid,
        joins := g.joins.map fun (r : Rejoin) =>
          if some r.num = x then { r with arrived := r.arrived ||| p.mask }
          else if inner.contains r.num then r.drop p.mask else r }
      g.touch ((inner ++ x.toList).reverse)

/-- Release every record that can be, each merged split meeting R134 at once. `fuel` bounds the releases by the records. -/
def Group.settleJoins (g : Group) (fuel : Nat) : Group :=
  match fuel with
  | 0 => g
  | k + 1 =>
    match g.releasable? with
    | none => g
    | some r =>
      let pid := g.nextSplit
      Group.settleJoins (((g.releaseOne r).touch []).arrive pid) k

def Group.settle (g : Group) : Group := g.settleJoins 512

/-- A DEFER record whose running side is done (R140). -/
def Group.startable? (g : Group) : Option Deferred :=
  g.defers.find? fun d =>
    match g.join? d.owner with
    | some r => r.expected &&& ~~~d.lanes = r.arrived
    | none => false

/-- Start a deferred split (R140). -/
def Group.startDeferred (g : Group) (d : Deferred) : Group :=
  let wb := match g.join? d.owner with
    | some r => r.savedWb
    | none => 0
  let p : Split := { id := g.nextSplit, mask := d.lanes, pc := d.addr, wb, pwb := d.pwb, inner := some d.owner,
                     wdog := g.budget.toNat, opener := d.opener, handler := d.handler, reissue := d.reissue }
  let g := { g with
    splits := g.splits ++ [p], nextSplit := g.nextSplit + 1,
    defers := g.defers.filter fun e => e.num ≠ d.num,
    joins := g.joins.map fun (r : Rejoin) => if r.num = d.owner then { r with defer := none } else r }
  let g := g.touch [d.owner]
  if d.reissue.isSome then g else (g.arrive p.id).settle

/-! ### Retirement of lanes (R97, R135) -/

/-- No lane of the group is left in a split, a record or under a handler. -/
def Group.empty (g : Group) : Bool :=
  g.splits.isEmpty && g.defers.isEmpty && g.joins.all (fun r => r.arrived = 0) && g.handler.isNone

/-- Once every lane has retired, the entries of the ports and the words of a partial command are discarded (R266). -/
def Group.hush (g : Group) : Group :=
  if g.empty then { g with ports := g.ports.map fun p => { p with entries := [], partialCmd := [] } } else g

/-- Handler mode ends when the last lane of it has retired and none is held under it. -/
def Group.endHandler (g : Group) : Group :=
  match g.handler with
  | some h =>
    if h.held &&& ~~~g.retired = 0 && !(g.splits.any fun p => p.handler) && !(g.defers.any fun d => d.handler) &&
        !(g.joins.any fun r => r.handler && r.arrived ≠ 0) then { g with handler := none } else g
  | none => g

/-- Lanes of a split retire: they leave the split and the expected mask of every record of its chain. -/
def Group.retireLanes (g : Group) (pid : Nat) (m : LaneMask) : Group :=
  match g.split? pid with
  | none => g
  | some p =>
    let ch := (g.chain p.inner).map (·.num)
    let g := { g with
      retired := g.retired ||| m,
      splits := if p.mask &&& ~~~m = 0 then g.splits.filter fun (q : Split) => q.id ≠ pid
        else g.splits.map fun (q : Split) => if q.id = pid then { q with mask := q.mask &&& ~~~m } else q,
      joins := g.joins.map fun (r : Rejoin) => if ch.contains r.num then r.drop m else r }
    (g.touch ch).settle.endHandler.hush

/-- Every lane of a group retires. -/
def Group.retireAll (g : Group) : Group :=
  { g with retired := 0xFFFFFFFF, splits := [], joins := [], defers := [], recent := [], handler := none }.hush

/-! ### Transfers and divergence (R129–R133, R139) -/

/-- A part of a transfer: its lanes and the header they go to. -/
structure Part where
  mask : LaneMask
  target : DWord

/-- A split continues at a header: its clause is over. -/
def Split.goTo (p : Split) (a : DWord) : Split := { p with pc := a, clause := none, reissue := none, resume := none }

/-- The window base that parts of a divergence start with, and the base still pending (R131). -/
def Split.partWb (p : Split) : Nat × Option Nat :=
  if p.handler then (p.wb, p.pwb) else (p.pwb.getD p.wb, none)

/-- The split of one part. -/
def Split.part (p : Split) (id num : Nat) (q : Part) : Split :=
  { id, mask := q.mask, pc := q.target, wb := p.partWb.1, pwb := p.partWb.2, inner := some num, wdog := p.wdog,
    handler := p.handler, opener := p.opener, gtimeHi := p.gtimeHi, lastIssue := p.lastIssue }

/-- What a divergence defers: nothing, one part at its own address, or all but the first part with REISSUE (R139). -/
inductive Deferral where
  | none
  | second (q : Part)
  | rest (m : LaneMask)

def deferralOf (parts : List Part) (room : Nat) : Deferral :=
  if parts.length ≤ room then .none
  else match parts with
    | [_, q] => .second q
    | _ => .rest (parts.tail.foldl (fun m q => m ||| q.mask) 0)

/-- The parts that go live. -/
def Deferral.live (d : Deferral) (parts : List Part) : List Part :=
  match d with
  | .none => parts
  | _ => parts.take 1

/-- Divergence (R131, R133, R137, R139). `hdr` and `idx` name the transfer's clause header and word, `fx` makes the
transfer's pushes and pops in the given lanes. -/
def Group.diverge (g : Group) (p : Split) (parts : List Part) (free : Nat) (hdr : DWord) (idx : Nat)
    (fx : LaneMask → Group → Group) : Option Group :=
  let room := min (9 - g.splits.length) (free + 1)
  let df := deferralOf parts room
  let far (a : DWord) : Bool := (g.recordOffset a).isNone
  let joinFar := match p.join with
    | some a => far a
    | none => false
  match g.freeRecords, df with
  | [], _ => none
  | n :: more, df =>
    let deferred : Option (Option Deferred) :=
      match df, more with
      | .none, _ => some none
      | .second q, m :: _ =>
        if far q.target then none
        else some (some { num := m, owner := n, lanes := q.mask, addr := q.target, reissue := none, pwb := p.partWb.2,
                          opener := p.opener, handler := p.handler })
      | .rest ms, m :: _ =>
        if far hdr then none
        else some (some { num := m, owner := n, lanes := ms, addr := hdr, reissue := some idx, pwb := p.partWb.2,
                          opener := p.opener, handler := p.handler })
      | _, [] => none
    match joinFar, deferred with
    | true, _ => none
    | _, none => none
    | false, some d? =>
      let live := df.live parts
      let moved := match df with
        | .rest _ => live.foldl (fun m q => m ||| q.mask) 0
        | _ => p.mask
      let r : Rejoin := { num := n, joinPc := p.join, expected := p.mask, arrived := 0, outer := p.inner,
                          savedWb := p.partWb.1, pwb := p.partWb.2, defer := d?.map (fun (d : Deferred) => d.num), opener := p.opener, handler := p.handler }
      let ids := p.id :: (List.range (live.length - 1)).map (· + g.nextSplit)
      let news := (ids.zip live).map fun e => p.part e.1 n e.2
      let g := fx moved g
      let g := { g with
        splits := (g.splits.filter fun (q : Split) => q.id ≠ p.id) ++ news,
        nextSplit := g.nextSplit + live.length,
        joins := g.joins ++ [r], defers := g.defers ++ d?.toList }
      let g := g.touch (n :: (d?.toList.map fun (d : Deferred) => d.num))
      some (ids.foldl (fun (g : Group) i => g.arrive i) g).settle

/-- A transfer into one part or more; `none` is RECORD_OVERFLOW (R137). -/
def Group.transfer (g : Group) (p : Split) (parts : List Part) (free : Nat) (hdr : DWord) (idx : Nat)
    (fx : LaneMask → Group → Group) : Option Group :=
  match parts with
  | [] => some g
  | [q] =>
    let g := fx p.mask g
    some ((g.modSplit p.id fun p => p.goTo q.target).arrive p.id).settle
  | _ => g.diverge p parts free hdr idx fx

end Sys2Proof.Machine
end

