-- ==== Sys2Proof/Machine/Operands.lean ====
section
/-! DEFINITION. What an issuing instruction reads: registers, operands of every kind (R29, R30), ports (R261), and where its
results go. -/

namespace Sys2Proof.Machine

open Sys2Proof

/-! ### Registers -/

/-- A physical vector register of a lane (R19). -/
def Group.reg (g : Group) (phys lane : Nat) : Word := sread g.regs (phys * 32 + lane)

def Group.setReg (g : Group) (phys lane : Nat) (x : Word) : Group := { g with regs := swrite g.regs (phys * 32 + lane) x }

/-- A scalar register (R126). -/
def Group.scalar (g : Group) (n : Nat) : Word := sread g.scalars n

def Group.setScalar (g : Group) (n : Nat) (x : Word) : Group := { g with scalars := swrite g.scalars n x }

/-- The lanes whose predicate n reads 1; p7 always does (R9). -/
def Group.predMask (g : Group) (n : Nat) : LaneMask := if n = 7 then 0xFFFFFFFF else sread g.preds n

def Group.pred (g : Group) (n lane : Nat) : Bool := inMask (g.predMask n) lane

/-- Write a predicate in the lanes of a mask; p7 discards the write (R30). -/
def Group.setPred (g : Group) (n : Nat) (lanes vals : LaneMask) : Group :=
  if n = 7 then g else { g with preds := swrite g.preds n ((sread g.preds n &&& ~~~lanes) ||| (vals &&& lanes)) }

/-- The 64-bit value of s_n and s_n+1. -/
def Group.scalar64 (g : Group) (n : Nat) : DWord := join64 (g.scalar n) (g.scalar (n + 1))

/-! ### The issuing instruction -/

/-- What an instruction sees at issue: the state with its source ports popped, its group, split and clause, its literal and
the popped entries with their ports. -/
structure Ctx where
  s : State
  g : Group
  p : Split
  c : Clause
  i : Instr
  lit : Word := 0
  popped : List (Nat × Entry) := []

/-- The lanes of the split, and the lanes active in the clause (R13, R128). -/
def Ctx.mask (x : Ctx) : LaneMask := x.p.mask
def Ctx.active (x : Ctx) : LaneMask := x.c.active
def Ctx.activeLanes (x : Ctx) : List Nat := lanesOf x.c.active
def Ctx.anyActive (x : Ctx) : Bool := x.c.active ≠ 0

/-- The lane at which a scalar-pipe instruction evaluates per-lane things: the lowest of the split's mask (R82, R261). -/
def Ctx.scalarLane (x : Ctx) : Nat := lowestLane x.p.mask

/-- The lane at which an instruction that acts once reads per-lane operands: the lowest active lane (R91). -/
def Ctx.firstLane (x : Ctx) : Nat := lowestLane x.c.active

/-- The 32-bit value of an operand in a lane (R29). -/
def Ctx.src (x : Ctx) (o : Operand) (l : Nat) : Word :=
  match o with
  | .v n => x.g.reg (x.p.wb + n.val) l
  | .s n => x.g.scalar n.val
  | .zero => 0
  | .lane => BitVec.ofNat 32 l
  | .grpx => BitVec.ofNat 32 x.g.grpx
  | .wb => BitVec.ofNat 32 x.p.wb
  | .mask => x.c.active
  | .tidx => BitVec.ofNat 32 (x.g.grpx * 32 + l)
  | .lit => x.lit
  | .q n => (x.popped.find? fun e => e.1 = n.val).elim 0 fun e => e.2.words.getD l 0

/-- Register n + k of an operand that names several. -/
def Ctx.nth (x : Ctx) (o : Operand) (k l : Nat) : Word :=
  match o with
  | .v n => x.g.reg (x.p.wb + n.val + k) l
  | .s n => x.g.scalar (n.val + k)
  | _ => if k = 0 then x.src o l else 0

/-- The 64-bit value of an operand in a lane: LIT is sign-extended, the special operands zero-extended (R30). -/
def Ctx.src64 (x : Ctx) (o : Operand) (l : Nat) : DWord :=
  match o with
  | .v _ | .s _ => join64 (x.nth o 0 l) (x.nth o 1 l)
  | .lit => sext64 x.lit
  | o => zext64 (x.src o l)

/-- The pattern of an operand of a width, as a number. -/
def Ctx.val (x : Ctx) (w64 : Bool) (o : Operand) (l : Nat) : Nat :=
  if w64 then (x.src64 o l).toNat else (x.src o l).toNat

/-- int_of (R83): the exact integer value of an operand's pattern. -/
def Ctx.int (x : Ctx) (w64 sg : Bool) (o : Operand) (l : Nat) : Int :=
  let w := if w64 then 64 else 32
  if sg then signed w (x.val w64 o l) else (x.val w64 o l : Int)

/-- The words of a result of a width (R30: a pair holds the low word first). -/
def wordsOf (w64 : Bool) (n : Nat) : List Word :=
  if w64 then [BitVec.ofNat 32 n, BitVec.ofNat 32 (n / 2 ^ 32)] else [BitVec.ofNat 32 n]

/-! ### Results -/

/-- What an instruction writes: registers, a port entry, sticky flags, predicates. -/
structure Out where
  ds : List Dest := []
  push : Option (Nat × Entry) := none
  flags : Nat := 0
  preds : List (Nat × LaneMask × LaneMask) := []

/-- A scalar register destination (R31). -/
def isScalar : Operand → Bool
  | .s _ => true
  | _ => false

/-- The lanes for which an instruction with this destination is evaluated (R81): the split's lowest lane on the scalar pipe,
the active lanes otherwise. -/
def Ctx.lanesFor (x : Ctx) (d : Operand) : List Nat := if isScalar d then [x.scalarLane] else x.activeLanes

/-- The instruction has a per-lane source, so its push has the vector shape (R261). SEL's predicate is one; an instruction that reads
no source and gives each lane its own value pushes that shape too (log 59). -/
def vectorShape (i : Instr) : Bool :=
  i.fields.any (fun f => f.1.isSrc && !f.2.scalarSource) ||
  (match i with
   | .sel .. | .lvl .. | .lvlExt .. | .rpalloc .. | .scan .. | .ldl .. => true
   | _ => false)

/-- The entry that a push makes (R261). From scalar sources it holds one value; where the spec nevertheless gives each lane its own (the
rounding of PACK2.RSR and QCVT.RSR, R63), the model pushes the lowest active lane's (log 59). -/
def entryOf (vec : Bool) (lanes : List Nat) (f : Nat → Word) : Entry :=
  if vec then { words := (List.range 32).map fun l => if lanes.contains l then f l else 0, mask := maskOf lanes }
  else { words := List.replicate 32 (f (lanes.headD 0)), mask := 1 }

/-- Results in a destination for given lanes: consecutive registers of each lane, a scalar, a port entry, or nothing for
ZERO. -/
def Ctx.outOn (x : Ctx) (lanes : List Nat) (d : Operand) (f : Nat → List Word) : Out :=
  match d with
  | .v n => { ds := lanes.flatMap fun l => (f l).zipIdx.map fun e => .vec (x.p.wb + n.val + e.2) l e.1 }
  | .s n => { ds := lanes.flatMap fun l => (f l).zipIdx.map fun e => .scal (n.val + e.2) e.1 }
  | .q n =>
    if x.anyActive then
      { push := some (n.val, { entryOf (vectorShape x.i) lanes (fun l => (f l).headD 0) with
                               split := x.p.id, issue := x.c.active }) } else {}
  | _ => {}

/-- Results in a destination for every lane the instruction is evaluated for (R81). -/
def Ctx.out (x : Ctx) (d : Operand) (f : Nat → List Word) : Out := x.outOn (x.lanesFor d) d f

/-- Write registers. -/
def Group.applyDest (g : Group) (d : Dest) : Group :=
  match d with
  | .vec phys lane v => g.setReg phys lane v
  | .scal n v => g.setScalar n v
  | .word _ _ => g

def Group.applyDests (g : Group) (ds : List Dest) : Group := ds.foldl Group.applyDest g

end Sys2Proof.Machine
end

