-- ==== Sys2Proof/Machine/Flags.lean ====
section
/-! DEFINITION. The sticky flags of SR_FSTAT (R65, R66), predicates as results, wait flags and path counters. -/

namespace Sys2Proof.Machine

open Sys2Proof

/-! ### SR_FSTAT (R65) -/

/-- Raise sticky flags. -/
def Group.raiseFlags (g : Group) (n : Nat) : Group := { g with fstat := g.fstat ||| BitVec.ofNat 5 n }

/-! ### Results into the group -/

/-- Write an instruction's registers, predicates and sticky flags; its push is made where ports are (R262). -/
def Group.applyOut (g : Group) (o : Out) : Group :=
  let g := g.applyDests o.ds
  let g := o.preds.foldl (fun (g : Group) e => g.setPred e.1 e.2.1 e.2.2) g
  if o.flags = 0 then g else g.raiseFlags o.flags

/-- A predicate result in each active lane (R85, R110). -/
def Ctx.predOut (x : Ctx) (pd : Nat) (f : Nat → Bool) : Out :=
  { preds := [(pd, x.active, maskOf (x.activeLanes.filter f))] }

/-! ### Wait flags and path counters (R14, R18) -/

/-- A wait flag is busy while an instruction attached to it is outstanding. -/
def Group.flagBusy (g : Group) (k : Nat) : Bool := g.flights.any fun f => f.flag = some k

/-- A flag of a WAIT field is busy (R11). -/
def Group.waits (g : Group) (w : BitVec 12) : Bool := (setBits 12 w.toNat).any g.flagBusy

/-- What a command port's entries count on a path before its engine takes them: each entry of TRACECMD is a TRACE (R340), each five
words of CPYCMD a copy (R273), of the split that pushed it. -/
def Port.counts (p : Port) (q : Path) : Nat :=
  match p.code, q with
  | some .tracecmd, .ray => p.entries.length
  | some .cpycmd, .cpy => (p.partialCmd.length + p.entries.length) / 5
  | _, _ => 0

/-- The value of a path counter (R18). -/
def Group.pathCount (g : Group) (q : Path) : Nat :=
  (g.flights.filter fun f => f.path = some q).length + (g.ports.map fun p => p.counts q).sum

/-- Some long-latency instruction issued for lanes of a mask is outstanding (R354). -/
def Group.outstanding (g : Group) (m : LaneMask) : Bool := g.flights.any fun f => f.flag.isSome && (f.mask &&& m) ≠ 0

/-- Long instructions outstanding (R372). -/
def Group.longCount (g : Group) : Nat :=
  (g.flights.filter fun f => f.long).length + (g.ports.map fun p => p.counts .cpy).sum

/-- The flag that the next long-latency instruction of a clause attaches to (R14). -/
def Clause.flag (c : Clause) : Option Nat :=
  let n := if !c.att then c.setx else if c.sety = 15 then c.setx else c.sety
  if n < 12 then some n else none

/-! ### Completion in issue order (R18) -/

/-- Remove the completed instructions that are next in their path's order (R18). `fuel` is the number of instructions. -/
def Group.drainPath (g : Group) (p : Path) (fuel : Nat) : Group :=
  match fuel with
  | 0 => g
  | k + 1 =>
    match g.flights.find? fun f => f.path = some p with
    | some f => if f.done then Group.drainPath (g.dropFlight f.id) p k else g
    | none => g

/-- An instruction is complete: with no path it is gone, with a path it leaves in issue order (R18). -/
def Group.completeFlight (g : Group) (fid : Nat) : Group :=
  match g.flight? fid with
  | none => g
  | some f =>
    match f.path with
    | none => g.dropFlight fid
    | some p => (g.modFlight fid fun f => { f with done := true, flag := none }).drainPath p g.flights.length

end Sys2Proof.Machine
end

