-- ==== Sys2Proof/Machine/Ops.lean ====
section
/-! DEFINITION. The operations every instruction shares: versioned regions, taking a fault and returning from one, fatal
faults and escalation, and the issue of one word. -/

namespace Sys2Proof.Machine

open Sys2Proof

/-- The distributor stops the group's workgroup (R357, R365). -/
def State.stoppingGroup (s : State) (g : Group) : Bool := (s.workgroup? g.wg).elim false fun w => w.stopping

/-- A group runs: its workgroup is resident, and its context is not stopped, or is still being stopped (R357). -/
def State.live (s : State) (g : Group) : Bool :=
  (!(s.context g.ctx).stopped || s.stoppingGroup g) && s.onCore g

/-! ### Other packages (R405–R407) -/

def State.bump (s : State) : State := { s with tick := s.tick + 1 }

/-- A lane's request to another package (R405, R407, R427): the remote address, the DIESET of its FABRIC entry, the virtual address that a
denial reports, and whether the access compares tags. -/
structure Request where
  lane : Nat
  pkg : Nat
  addr : Nat
  rims : Nat
  ea : DWord
  tagged : Bool

/-- The requests to other packages that granted accesses make. -/
def State.requests (s : State) (gs : List (Nat × Grant)) (ea : Nat → DWord) : List Request :=
  gs.filterMap fun e => match e.2.place with
    | .remote p a => some { lane := e.1, pkg := p, addr := a, rims := s.rimsOf e.2.pa, ea := ea e.1, tagged := e.2.tagged }
    | _ => none

/-- Some plane carries a request (R407, R427). -/
def State.reachable (s : State) (r : Request) : Bool := !(s.planesIn r.rims).isEmpty

/-- The denial of another package (R407). -/
def remoteDenial : Trap := { trap .pageProtection with remote := true }

/-- The packet of a request (R427); its delivery is the fabric's. -/
def Request.packet (r : Request) (g : Group) (type aux : Nat) (payload : List Byte) (tag : Nat := 0) : MeshPacket :=
  { type, src := g.die, dst := g.die, tag, aux, addr := r.addr, payload, ctx := g.ctx, len := payload.length }

/-- What another package that answers at once denies of an engine's requests: a package that no plane reaches denies every request, and
only an access that compares tags can fail a tag check (R221, R407). -/
def deniedLanes (s : State) (rs : List Request) : List (Nat × Trap) :=
  rs.filterMap fun r =>
    let v := Config.remoteVerdict s.tick r.addr
    if !s.reachable r || v = 1 then some (r.lane, remoteDenial)
    else if v = 2 && r.tagged then some (r.lane, trap .tagMismatch)
    else none

/-- The requests of an access that go out: those of its lanes that are not denied. -/
def granted (rs : List Request) (denied : List (Nat × Trap)) : List Request := rs.filter fun r => !(denied.any fun d => d.1 = r.lane)

/-- Send the packets of requests, for an instruction whose accesses they carry when it has a number. -/
def State.sendRequests (s : State) (g : Group) (rs : List Request) (type aux : Nat) (payload : Request → List Byte)
    (owner : Option (Nat × Nat) := none) : State :=
  rs.foldl (fun s r => s.sendFabric r.pkg (r.packet g type aux (payload r)) owner r.rims) s

/-- Engine faults that denied lanes give the issuing group, with the progress index of a long instruction's unit (R379, R407). -/
def Group.addDenied (g : Group) (issue : Nat) (mask : LaneMask) (path : Option Path) (ea : Nat → DWord) (ds : List (Nat × Trap))
    (index : Nat → Word := fun _ => 0xFFFFFFFF) : Group :=
  { g with efaults := g.efaults ++ ds.map fun d =>
      { issue, mask, path := path.elim 0 Path.code, trap := { d.2 with taddr := some (ea d.1), index := index d.1 } } }

/-- A request that waits for its answer goes out, for some lanes of an instruction (R407, R427). -/
def State.ask (s : State) (g : Group) (fid : Nat) (lanes : LaneMask) (r : Request) (type aux : Nat) (payload : List Byte) (write : Bool)
    (index : Word := 0xFFFFFFFF) : Nat × State :=
  let t := s.nextTag
  let s := t.2.sendFabric r.pkg (r.packet g type aux payload t.1) (some (g.id, fid)) r.rims
  (t.1, { s with asks := s.asks ++ [{ tag := t.1, addr := r.addr, src := g.die, group := g.id, flight := fid, lanes, pkg := r.pkg, va := r.ea,
                                      tagged := r.tagged, index, write }] })

/-- The stores of an instruction to other packages: they go out, and a package that no plane reaches denies its own (R407). -/
def State.sendStores (s : State) (g : Group) (fid : Nat) (mask : LaneMask) (path : Option Path) (aux : Nat)
    (rs : List (Request × List Byte)) (index : Nat → Word := fun _ => 0xFFFFFFFF) : State :=
  let out := rs.filter fun e => s.reachable e.1
  let lost := (rs.filter fun e => !s.reachable e.1).map fun e => e.1
  let s := out.foldl (fun s e => (s.ask g fid (laneBit e.1.lane) e.1 3 aux e.2 true (index e.1.lane)).2) s
  if lost.isEmpty then s
  else s.modGroup g.id fun g => g.addDenied fid mask path (fun l => (lost.find? fun r => r.lane = l).elim 0 fun r => r.ea)
    (lost.map fun r => (r.lane, remoteDenial)) index

/-- The number that a group's next outstanding instruction takes. -/
def State.nextFlight (s : State) (gid : Nat) : Nat := (s.group? gid).elim 0 fun g => g.nextFlight

/-- An instruction of a group whose accesses wait for acknowledgements joins its outstanding ones: of other packages, or of the lines
whose ownership it has asked for (R226, R239). -/
def State.addWaiting (s : State) (gid : Nat) (path : Path) (mask : LaneMask) (lines : List Nat) : State :=
  s.modGroup gid fun g =>
    { g with nextFlight := g.nextFlight + 1,
             flights := g.flights ++ [{ id := g.nextFlight, split := 0, mask, lanes := mask, flag := none, path := some path, lines,
                                        work := .performed }] }

/-! ### Versioned regions (R361–R363) -/

/-- A group has an unhardened region of this split. -/
def Group.unhardened (g : Group) (p : Split) : Bool :=
  match g.region with
  | some r => p.opener && !r.hard
  | none => false

/-- The byte of a key that the version of a split's unhardened region holds (R361). -/
def Group.versioned? (g : Group) (p : Split) (k : Nat) : Option Byte :=
  match g.region with
  | some r => if p.opener && !r.hard then (r.version.find? fun e => e.1 = k).map fun e => e.2 else none
  | none => none

/-- The byte at a key as a split's access on a path sees it: the version of its unhardened region first (R361), then what any access of
its lanes sees (R209, R236). -/
def State.byteFor (s : State) (g : Group) (p : Split) (q : Option Path) (k : Nat) : Byte :=
  (g.versioned? p k).getD (s.seenByte g p.mask q k)

/-- A version's stores to other packages go out and its lines are asked for, as one further instruction of the group that is performed
when they are acknowledged (R226, R239, R407). -/
def State.sendAway (s : State) (g : Group) (r : Region) : State :=
  if r.away.isEmpty && r.homes.isEmpty then s
  else
    let id := s.nextFlight g.id
    let away := r.away.map fun a => (({ lane := a.lane, pkg := a.pkg, addr := a.pkt.addr, rims := a.rims, ea := a.ea, tagged := a.tagged } : Request), a.pkt.payload)
    let s := r.homes.foldl (fun s h => s.fetchLine g.die h.die true (lineOf h.pa)) s
    (s.sendStores g id r.lanes (some .glb) 0 away).addWaiting g.id .glb r.lanes (r.homes.map fun h => lineOf h.pa)

/-- Perform the writes of a version, oldest first (R362, R364). -/
def State.performVersion (s : State) (g : Group) (r : Region) : State :=
  (r.version.foldr (fun e s => if e.1 / 2 ^ 64 % 8 = 5 then s else s.putBytes g e.1 [e.2]) s).sendAway g r

/-- The number of 128-byte lines a version holds (R361). -/
def versionLines (v : List (Nat × Byte)) : Nat := (v.map fun e => e.1 / 128).eraseDups.length

/-- Lines held by all the regions of a die (R361). -/
def State.dieVersionLines (s : State) (d : Nat) : Nat :=
  ((s.groups.filter fun g => g.die = d).map fun g =>
    match g.region with
    | some r => if r.hard then 0 else versionLines r.version
    | none => 0).sum

/-- Saturating increment of SR_VSTAT's counts. -/
def incSat (b : Byte) : Byte := if b = 255 then b else b + 1

/-- An event that hardens an unhardened region of the split performs the version and drops the checkpoint (R362).
Reasons: 1 CAPACITY, 2 ATOMIC, 3 ENGINE, 4 SYNC. -/
def State.harden (s : State) (gid pid reason : Nat) : State :=
  match s.group? gid with
  | none => s
  | some g =>
    match g.region, g.split? pid with
    | some r, some p =>
      if r.hard || !p.opener then s
      else
        let s := s.performVersion g r
        s.modGroup gid fun g =>
          { g with region := some { r with hard := true, version := [], away := [], homes := [], regs := [], preds := [], depths := [] },
                   hreason := BitVec.ofNat 3 reason, hardens := incSat g.hardens }
    | _, _ => s

/-- Restore the checkpoint of a region into its lanes' registers (R363). -/
def Group.restoreRegs (g : Group) (r : Region) : Group :=
  (lanesOf r.lanes).foldl (fun g l =>
    (List.range r.count).foldl (fun (g : Group) k =>
      g.setReg (r.wb + r.first + k) l (sread r.regs ((r.wb + r.first + k) * 32 + l))) g) g

/-- Restore p0–p6 and the call-stack depths (R363). -/
def Group.restorePreds (g : Group) (r : Region) : Group :=
  let g := (List.range 7).foldl (fun (g : Group) n => g.setPred n r.lanes (sread r.preds n)) g
  { g with calls := g.calls.zipIdx.map fun e =>
      if inMask r.lanes e.2 then e.1.drop (e.1.length - r.depths.getD e.2 0) else e.1 }

/-- Abort an unhardened region of a split: the version is discarded, the checkpoint restored, the PC back at VBEGIN's
clause, the region closed (R363). -/
def State.abortRegion (s : State) (gid pid : Nat) : State :=
  match s.group? gid with
  | none => s
  | some g =>
    match g.region, g.split? pid with
    | some r, some p =>
      if r.hard || !p.opener then s
      else s.modGroup gid fun g =>
        let g := (g.restoreRegs r).restorePreds r
        let g := { g with region := none, last := 2, aborts := incSat g.aborts }
        g.modSplit pid fun p =>
          { p with pc := r.header, clause := none, wb := r.wb, pwb := none, join := r.join, opener := false,
                   reissue := none, resume := none }
    | _, _ => s

/-! ### Freezing (R373) -/

/-- The core or host core on which a group runs, as a master. -/
def Group.coreMaster (g : Group) : Master := if g.isHost then .host g.core else .core g.core

/-- A group is on a frozen core. -/
def State.coreFrozen (s : State) (g : Group) : Bool := s.frozen.contains (g.die, g.coreMaster)

/-- The engine of a path is frozen at a group's core. -/
def State.engineFrozen (s : State) (g : Group) (p : Option Path) : Bool :=
  p.elim false fun q => s.frozen.contains (g.die, .engine g.core (Path.code q))

/-- An engine works for a group: its context runs and the engine is not frozen. -/
def State.engineLive (s : State) (g : Group) (p : Path) : Bool := s.live g && !s.engineFrozen g (some p)

/-- A master of a group's die holds the group, or engine work of it. -/
def Master.holds (m : Master) (g : Group) : Bool :=
  match m with
  | .core n => !g.isHost && g.core = n
  | .host n => g.isHost && g.core = n
  | .engine n k => g.core = n && g.flights.any fun f => f.path.elim false fun q => Path.code q = k
  | _ => false

/-- The contexts whose groups or engine work a master holds. -/
def State.heldContexts (s : State) (d : Nat) (m : Master) : List Nat :=
  ((s.groups.filter fun g => g.die = d && m.holds g).map fun g => g.ctx).eraseDups

/-- MASTER, CORE and SLOT of a master's record (R359). -/
def Master.fields (m : Master) : Nat × Nat × Nat :=
  match m with
  | .core n => (0, n, 0)
  | .engine n k => (1, n, k)
  | .mesh k => (2, 0xFF, k)
  | .lency k => (2, 0xFF, k)
  | .host n => (3, n, 0)
  | .migration => (1, 0xFF, 0)
  | .control => (4, 0xFF, 0)

/-- A number for a master, which a FREEZE event carries. -/
def Master.code (m : Master) : Nat :=
  match m with
  | .core n => n
  | .host n => 64 + n
  | .lency n => 128 + n
  | .mesh k => 192 + k
  | .migration => 196
  | .control => 197
  | .engine n k => 256 + 16 * n + k

def Master.ofCode (n : Nat) : Master :=
  if n < 64 then .core n
  else if n < 128 then .host (n - 64)
  else if n < 192 then .lency (n - 128)
  else if n < 196 then .mesh (n - 192)
  else if n = 196 then .migration
  else if n < 256 then .control
  else .engine ((n - 256) / 16) (n % 16)

/-- SOURCE of a master's black-box event (R374). -/
def Master.source (m : Master) : Nat :=
  match m with
  | .core n | .engine n _ | .host n => n
  | .mesh k => 0x41 + k
  | _ => 0x40

/-- The record of a freezing master (R359). -/
def freezeRecord (d : Nat) (m : Master) (ctx : Nat) : FaultRecord :=
  { kind := 3, trap := trap .freeze, ctx, master := m.fields.1, die := d, core := m.fields.2.1, slot := m.fields.2.2 }

/-- The black-box event of a freeze; the spec gives it no data (log 4). -/
def State.freezeEvent (s : State) (d : Nat) (m : Master) : State :=
  { s with tick := s.tick + 2 }.boxEvent d 2 m.source (join64 (Config.freeWord s.tick) (Config.freeWord (s.tick + 1)))

/-- A master stands still, with its record, its event and the end of the contexts it holds (R373). -/
def State.freezeAlone (s : State) (d : Nat) (m : Master) : State :=
  if s.frozen.contains (d, m) then s
  else
    let cs := s.heldContexts d m
    let t := ({ s with frozen := s.frozen ++ [(d, m)] }.putRecord 0 (freezeRecord d m (cs.headD 0xFF))).freezeEvent d m
    { t with fatals := t.fatals ++ cs.map fun c => { freezeRecord d m c with kind := 1 } }

/-- A control unit that has met an uncorrectable error in a context's fault-queue header freezes (R351, R373). -/
def State.checkQueue (s : State) (die ctx : Nat) : State :=
  if s.queuePoisoned die (s.context ctx).fqueue.toNat then s.freezeAlone die .control else s

/-- A master freezes (R373); its record goes to context 0's queue, whose header may hold an error in its turn. -/
def State.freezeMaster (s : State) (d : Nat) (m : Master) : State :=
  if s.frozen.contains (d, m) then s else (s.freezeAlone d m).checkQueue d 0

/-- Write a fault record to a context's fault queue (R358) and to the die's black box (R374). -/
def State.writeRecord (s : State) (queueCtx : Nat) (r : FaultRecord) : State := (s.putRecord queueCtx r).checkQueue r.die queueCtx

/-! ### The point of a fault (R23, R355) -/

/-- The address at which a fault of the split is precise: the word, or the header. -/
def Split.faultPc (p : Split) : DWord :=
  match p.clause with
  | some c => c.base + BitVec.ofNat 64 (4 * c.idx)
  | none => p.pc

/-- SR_TSTATE for a fault at the split's place (R355). -/
def Split.tstate (p : Split) : DWord :=
  match p.clause, p.resume, p.reissue with
  | some c, _, _ =>
    BitVec.ofNat 64 (c.active.toNat + 2 ^ 32 * c.setx + 2 ^ 36 * c.sety + 2 ^ 40 * c.att.toNat
      + 2 ^ 52 * ((c.words.length - 1 - c.idx) % 16))
  | none, some t, _ => t.1
  | none, none, some k => BitVec.ofNat 64 (2 ^ 51 + 2 ^ 41 + 2 ^ 52 * (k % 16))
  | none, none, none => BitVec.ofNat 64 (2 ^ 51)

/-- The address from which the interrupted clause's branch offsets count (log 8). -/
def Split.headerAt (p : Split) : DWord :=
  match p.clause, p.resume with
  | some c, _ => c.at_
  | none, some t => t.2
  | none, none => p.pc

/-- The handler lanes (R354, R268). -/
def handlerLanes (t : Trap) (m : LaneMask) : LaneMask :=
  let k := t.chosen.getD (if t.engine then t.lanes else if t.byLanes then t.tval else m)
  if k &&& m = 0 then m else k &&& m

/-! ### Fault records of a split (R356, R357, R359) -/

/-- The ticket of an escalation, with ACT = 0 (R356). -/
def ticketOf (g : Group) : DWord :=
  BitVec.ofNat 64 (g.ctx + 2 ^ 6 * g.die + 2 ^ 12 * g.core + 2 ^ 18 * g.slot + 2 ^ 24 * g.escGen.toNat)

def State.recordFor (s : State) (g : Group) (p : Split) (t : Trap) (kind : Nat) (nested : Bool) : FaultRecord :=
  { kind, trap := t, nested, ctx := g.ctx, master := if g.isHost then 3 else 0, die := g.die, core := g.core, slot := g.slot,
    grpx := g.grpx, lanes := handlerLanes t p.mask, pc := p.faultPc,
    lseq := match s.launchOf g with
      | some l => l.seq
      | none => 0,
    ticket := if kind = 2 then ticketOf g else 0, w := s.wOf g }

/-- SR_TPC holds bits [56:2] of an address (R355). -/
def tpcOf (a : DWord) : DWord := BitVec.ofNat 64 (a.toNat % 2 ^ 57 / 4 * 4)

/-- The trap registers of a fault of a split (R23, R351, R355). -/
def Group.writeTrap (g : Group) (p : Split) (t : Trap) : Group :=
  { g with tpc := tpcOf p.faultPc, causeReg := t.causeWord, tstate := p.tstate, tval := t.tval, taddr := t.taddr.getD g.taddr }

/-- A fatal fault: the trap registers are written (R23), the split stops, and the context's end follows as FATAL_FAULT
(R357). -/
def State.fatal (s : State) (g : Group) (p : Split) (t : Trap) (nested : Bool) : State :=
  { s.modGroup g.id (fun g => (g.writeTrap p t).modSplit p.id fun p => { p with dead := true, pend := some t }) with
    fatals := s.fatals ++ [s.recordFor g p t 1 nested] }

/-- Escalation: the whole split parks and an ESCALATED record is written (R356). -/
def State.escalate (s : State) (gid pid : Nat) (t : Trap) : State :=
  let s := s.modGroup gid fun g =>
    ({ g with escGen := g.escGen + 1 }).modSplit pid fun p =>
      { p with escalated := true, gen := g.escGen + 1, pend := some t, hold := .none }
  match s.group? gid with
  | none => s
  | some g =>
    match g.split? pid with
    | none => s
    | some p => s.writeRecord g.ctx (s.recordFor g p t 2 false)

/-! ### Handler entry (R354) -/

/-- Offset of a lane's trap frame in its slice (R199). -/
def Group.frameOff (g : Group) : Nat := g.sliceSize - 384

/-- The bytes of v0–v15 of a lane, as the trap frame holds them. -/
def Group.frameBytes (g : Group) (wb lane : Nat) : List Byte :=
  (List.range 16).flatMap fun n => bytesOf 4 (g.reg (wb + n) lane).toNat

def State.saveFrames (s : State) (g : Group) (wb : Nat) (lanes : List Nat) : State :=
  lanes.foldl (fun s l => s.writeMem (g.sliceKey l g.frameOff) (g.frameBytes wb l)) s

/-- v0–v15 of a lane from its trap frame (R356). -/
def State.loadFrame (s : State) (g : Group) (wb lane : Nat) : Group :=
  (List.range 16).foldl (fun (h : Group) n =>
    h.setReg (wb + n) lane (BitVec.ofNat 32 (s.readMem (g.sliceKey lane (g.frameOff + 4 * n)) 4))) g

def State.loadFrames (s : State) (g : Group) (wb : Nat) (lanes : List Nat) : Group :=
  lanes.foldl (fun g l => s.loadFrame g wb l) g

/-- The stores of some lanes to their slices that have issued are performed, so that a frame written or read after them is in order
(R200, R230). -/
def State.settleSlices (s : State) (gid : Nat) (lanes : LaneMask) : State :=
  match s.group? gid with
  | none => s
  | some g => (g.flights.filter fun f => f.loose && f.ofLine lanes (some .lane)).foldl (fun s f => s.settleFlight gid f.id fun _ => true) s

/-- Handler entry of a faulting split: the frames are written, the trap registers set, and the handler lanes continue in
handler mode at SR_TVEC.ADDR (R354). -/
def State.enterHandler (s : State) (g : Group) (p : Split) (t : Trap) : State :=
  let lanes := handlerLanes t p.mask
  let tvec := (s.context g.ctx).tvec
  let s := (s.settleSlices g.id p.mask).saveFrames g p.wb (lanesOf lanes)
  s.modGroup g.id fun g =>
    let g := { g.writeTrap p t with
      handler := some { lanes, held := p.mask &&& ~~~lanes, at_ := p.headerAt, flight := t.flight, index := t.index } }
    g.modSplit p.id fun p =>
      { p with mask := lanes, pc := tpcOf tvec, clause := none, reissue := none, resume := none, handler := true,
               pend := none, hold := .none, wdog := g.budget.toNat, headers := 0 }

/-! ### Delivery (R352, R353) -/

/-- The oldest pending fault that can still be delivered. -/
def Group.oldestPend? (g : Group) : Option (Split × Trap) :=
  let ps := g.splits.filter fun p => p.pend.isSome && !p.dead && !p.escalated
  match ps with
  | [] => none
  | p :: rest =>
    let q := rest.foldl (fun (a : Split) b => if b.pendSeq < a.pendSeq then b else a) p
    q.pend.map fun t => (q, t)

/-- A split's own fault that is fatal at once: class F, or raised in handler mode (R352). -/
def Group.fatalPend? (g : Group) : Option (Split × Trap) :=
  let ps := g.splits.filter fun p => p.pend.isSome && !p.dead && !p.escalated
  (ps.find? fun p => p.handler || (p.pend.map fun t => t.cause.cls) = some .f).bind fun p => p.pend.map fun t => (p, t)

/-- A fault waits for the split's outstanding long-latency instructions: before handler entry (R354), and before its unhardened
region aborts, whose checkpoint no late result may overwrite (R363, R365). -/
def State.awaits (s : State) (g : Group) (p : Split) (t : Trap) : Bool :=
  g.outstanding p.mask && (bit (s.context g.ctx).tvec.toNat 0 || (g.unhardened p && (t.cause.cls = .h || t.cause.cls = .p)))

/-- A fault that is not fatal at once takes its road: an unhardened region aborts (R363), then the handler, escalation or the
fatal road follows (R352). -/
def State.takeRoad (s : State) (gid pid : Nat) (t : Trap) : State :=
  let s := if t.cause.cls = .h || t.cause.cls = .p then s.abortRegion gid pid else s
  match s.group? gid with
  | none => s
  | some g =>
    match g.split? pid with
    | none => s
    | some p =>
      if bit (s.context g.ctx).tvec.toNat 0 then s.enterHandler g p t
      else if t.cause.cls = .p then (s.modGroup gid fun g => g.writeTrap p t).escalate gid pid t
      else s.fatal g p t false

/-- Deliver a pending fault of a group: it takes the road of R352, or waits while a handler runs (R353), while its workgroup is
being stopped (R365), or for outstanding instructions. -/
def State.deliver (s : State) (gid : Nat) : State :=
  match s.group? gid with
  | none => s
  | some g =>
    match g.fatalPend? with
    | some (p, t) => s.fatal g p t p.handler
    | none =>
      if g.handler.isSome then s
      else match g.oldestPend? with
        | none => s
        | some (p, t) =>
          if s.stoppingGroup g || s.awaits g p t then s
          else s.takeRoad gid p.id t

/-- Entries that a word took from its ports go back to their heads, since the word has had no effect (R23, R145), unless the port has been
drained or unbound since (R265). Their places were kept for them. -/
def Group.giveBack (g : Group) (es : List (Nat × Entry)) : Group :=
  es.foldr (fun e (g : Group) =>
    if (g.ports.getD e.1 {}).code.isNone || e.2.gone then g
    else { g with ports := modAt g.ports e.1 fun q => { q with entries := e.2 :: q.entries } }) g

/-- A split raises a fault: the cached translations that failed are discarded (R217), what its word took goes back, the fault
becomes pending, and is delivered when it can be. An error met by a hardware access freezes a master instead (R351). -/
def State.raise (s : State) (gid pid : Nat) (t : Trap) : State :=
  match t.freezes with
  | some d => s.freezeMaster d .control
  | none =>
  let s := (s.discardStale t).modGroup gid fun g =>
    match g.split? pid with
    | none => g
    | some p =>
      ({ g.giveBack p.taken with nextSeq := g.nextSeq + 1 }).modSplit pid fun p =>
        { (match t.hdrAt with
           | some a => p.goTo a
           | none => p) with
          pend := some t, pendSeq := g.nextSeq, hold := .none, taken := [] }
  s.deliver gid

/-! ### Return from the handler (R356) -/

/-- The cause a code names. -/
def Cause.ofCode (n : Nat) : Cause :=
  ([.illegalOp, .illegalOperand, .illegalForm, .badHeader, .regRange, .windowRange, .align, .scrBounds, .cluBounds,
    .dieBounds, .placeRange, .queueUnbound, .queueMisuse, .pageNotPresent, .pageProtection, .tagMismatch, .canonical,
    .multiDenied, .recordOverflow, .watchdog, .tokenExpired, .trailerCheck, .formatBlock, .softwareTrap, .breakpoint,
    .uncorrectable, .freeze, .halt].find? fun c => Cause.code c = n).getD .illegalOp

/-- The causes whose SR_TVAL is a mask of failing lanes (R350). -/
def Cause.namesLanes : Cause → Bool
  | .align | .scrBounds | .cluBounds | .dieBounds | .placeRange | .pageNotPresent | .pageProtection | .tagMismatch
  | .canonical => true
  | _ => false

/-- The fault that the trap registers describe, for an escalation by the handler. -/
def Group.trapOfRegs (g : Group) (h : Handler) : Trap :=
  let c := g.causeReg.toNat
  { cause := Cause.ofCode (c % 64), tval := g.tval, taddr := some g.taddr, engine := bit c 6, malformed := bit c 8,
    noRegion := bit c 9, remote := bit c 10, byLanes := (Cause.ofCode (c % 64)).namesLanes, lanes := h.lanes, flight := h.flight,
    index := h.index, chosen := some h.lanes }

/-- Where the split resumes (R356): a header, a single word of a header's clause, or LEFT + 1 words. -/
def Group.resumeSplit (g : Group) (h : Handler) (p : Split) : Split :=
  let t := g.tstate.toNat
  let p := { p with mask := p.mask ||| h.held, handler := false, pc := g.tpc, clause := none, reissue := none, resume := none,
                    hold := .none }
  if bit t 51 then (if bit t 41 then { p with reissue := some (bits t 52 4) } else p)
  else { p with resume := some (g.tstate, h.at_) }

/-- Leaving handler mode: frames restored, held lanes rejoined, the resume point set; a stopped engine instruction may retry
(R268). -/
def State.leaveHandler (s : State) (g : Group) (h : Handler) (pid : Nat) (esc : Bool) : State :=
  match g.split? pid with
  | none => s
  | some p =>
    let s := s.settleSlices g.id p.mask
    let g := s.loadFrames ((s.group? g.id).getD g) p.wb (lanesOf (h.lanes &&& ~~~g.retired))
    let g := { g with handler := none,
                      flights := g.flights.map fun (f : Flight) =>
                        if !esc && some f.id = h.flight then { f with stopped := false } else f }
    let g := g.modSplit pid (g.resumeSplit h)
    let fresh := bit g.tstate.toNat 51 && !bit g.tstate.toNat 41
    s.putGroup (if fresh && !esc then (g.arrive pid).settle else g)

/-- RFT (R356): `none` while long-latency instructions of the handler are outstanding. -/
def State.returnFromHandler (s : State) (gid pid : Nat) : Option State :=
  match s.group? gid with
  | none => none
  | some g =>
    match g.handler with
    | none => none
    | some h =>
      if g.flights.any fun f => f.handlerMode && f.flag.isSome then none
      else
        let t := g.trapOfRegs h
        let esc := bit g.causeReg.toNat 7
        let s := s.leaveHandler g h pid esc
        some ((if esc then s.escalate gid pid t else s).deliver gid)

/-! ### Holding, advancing, ending a clause (R11) -/

/-- The split stays at its word, held; the hold is timed from its beginning (R145). -/
def State.holdSplit (s : State) (gid pid : Nat) (h : Hold) : State :=
  s.modSplit gid pid fun p => if p.hold = h then p else { p with hold := h, holdSince := s.cycle }

/-- The address of the header that follows a clause. -/
def Clause.next (c : Clause) : DWord := c.base + BitVec.ofNat 64 (4 * c.words.length)

/-- The split goes to a header, which may be a join address of its chain (R134). -/
def State.goHeader (s : State) (gid pid : Nat) (a : DWord) : State :=
  match s.group? gid with
  | none => s
  | some g => s.putGroup ((g.modSplit pid fun p => { p.goTo a with hold := .none }).arrive pid).settle

/-- The word has issued: the split moves `n` words on, or its clause ends (R11, R140). -/
def State.advance (s : State) (gid pid n : Nat) : State :=
  match (s.group? gid).bind fun g => g.split? pid with
  | none => s
  | some p =>
    match p.clause with
    | none => s
    | some c =>
      if c.words.length ≤ c.idx + n || c.only then s.goHeader gid pid c.next
      else s.modSplit gid pid fun p => { p with hold := .none, clause := some { c with idx := c.idx + n } }

/-! ### Ports (R260–R262) -/

/-- A push puts an entry into its port. The fifth word of a CPYCMD command takes a number among the group's instructions, as the count of
its path rises with it (R273). -/
def Group.pushPort (g : Group) (n : Nat) (e : Entry) : Group :=
  let p := g.ports.getD n {}
  let whole := p.code = some .cpycmd && (p.partialCmd.length + p.entries.length + 1) % 5 = 0
  let e := if whole then { e with note := g.nextFlight + 1 } else e
  { g with ports := modAt g.ports n fun p => { p with entries := p.entries ++ [e] },
           nextFlight := if whole then g.nextFlight + 1 else g.nextFlight }

/-- An MSAMPLE entry counts as popped for its MARCH's ring (R347). -/
def Group.notePopped (g : Group) (e : Entry) : Group :=
  if e.note = 0 then g
  else { g with flights := g.flights.map fun (f : Flight) =>
    if f.id + 1 = e.note then
      match f.work with
      | .march desc popped ring slot step pool => { f with work := .march desc (popped + 1) ring slot step pool }
      | _ => f
    else f }

/-- The first entry of a port is gone. -/
def Group.popPort (g : Group) (n : Nat) : Group :=
  let g := match (g.ports.getD n {}).entries with
    | e :: _ => g.notePopped e
    | [] => g
  { g with ports := modAt g.ports n fun p => { p with entries := p.entries.drop 1 } }

/-- Every entry of a port is discarded, with the words of a partial command (R265, R266); those that held words have taken do not go
back. -/
def Group.flushPort (g : Group) (n : Nat) : Group :=
  let g := (g.ports.getD n {}).entries.foldl Group.notePopped g
  { g with ports := modAt g.ports n fun p => { p with entries := [], partialCmd := [] },
           splits := g.splits.map fun p => { p with taken := p.taken.map fun e => if e.1 = n then (e.1, { e.2 with gone := true }) else e } }

/-- The places of a port that held words' entries still take. -/
def Group.takenFrom (g : Group) (n : Nat) : Nat := (g.splits.map fun p => (p.taken.filter fun e => e.1 = n && !e.2.gone).length).sum

/-- A push must wait: for room in the port (R32), or for the counter of the command that it makes (R18, R273, R340). -/
def Group.portFull (g : Group) (n : Nat) : Bool :=
  let p := g.ports.getD n {}
  decide (16 ≤ p.entries.length + g.takenFrom n) ||
    [Path.ray, Path.cpy].any fun q => (decide (63 ≤ g.pathCount q) || (q = .cpy && decide (64 ≤ g.longCount))) &&
      decide (p.counts q < { p with entries := p.entries ++ [({ words := [], mask := 0 } : Entry)] }.counts q)

/-- A command port: the program pushes (R260). -/
def isCommand : EnginePort → Bool
  | .cpycmd | .tracecmd => true
  | _ => false

/-! ### Issue (R11–R13, R32, R41, R263) -/

/-- The ports an instruction names in source fields, in their order. -/
def srcPorts (i : Instr) : List Nat :=
  i.fields.filterMap fun f => match f.1.isSrc, f.2 with
    | true, .q n => some n.val
    | _, _ => none

/-- The port an instruction names in its destination field. -/
def dstPort (i : Instr) : Option Nat :=
  i.fields.findSome? fun f => match f.1.isDst, f.2 with
    | true, .q n => some n.val
    | _, _ => none

/-- The number of words an instruction takes of its clause. -/
def wordCount (i : Instr) : Nat := if i.usesLit then 2 else 1

/-- Register ranges beyond the allocation (R19, R163, R364). -/
def regRange (i : Instr) (wb count : Nat) : Bool :=
  (i.fields.any fun f => match f.2 with
    | .v n => decide (count < wb + n.val + f.1.width)
    | _ => false) ||
  (match i with
   | .regroup _ _ fr n => decide (count < wb + fr.val + n.val)
   | .vbegin fr n => decide (count < wb + fr.val + n.val)
   | _ => false)

/-- The rendering roles of a group (R299, R305, R312). -/
def State.isTask (s : State) (g : Group) : Bool :=
  match s.launchOf g with
  | some l => l.pass.isSome && (s.workgroup? g.wg).elim true fun w => w.square.isNone
  | none => false

/-- The control group of a square: its workgroup runs a square, and the group is no batch group. -/
def State.isControl (s : State) (g : Group) : Bool :=
  g.batch.isNone && (s.workgroup? g.wg).elim false fun w => w.square.isSome

/-- The square that a group's workgroup runs (R312). -/
def State.squareOf (s : State) (g : Group) : Option Square := (s.workgroup? g.wg).bind fun w => w.square

/-- TNEXT and TDONE have their place: in the control group, before TDONE (R320, R321). -/
def State.controls (s : State) (g : Group) : Bool :=
  !g.isHost && s.isControl g && (s.squareOf g).elim false fun q => !q.tdone

/-- The last sub-pass of a group's square (R320). -/
def State.lastSub (s : State) (g : Group) : Bool :=
  (s.squareOf g).elim true fun q => (s.pass? q.pass).elim true fun p => decide (fieldAt p.bytes 6 1 ≤ q.sub + 1)

/-- A launch that is a cluster launch (R155, R178). -/
def LaunchRec.cluster (r : LaunchRec) : Bool := bit r.flags 0

/-- Faults of a word's form or place (R12, R35, R151, R167, R305–R308, R320, R355, R364, R375, R377, R378, R422). -/
def formFault (i : Instr) (s : State) (g : Group) (p : Split) (c : Clause) : Bool :=
  (i.isTransfer && c.idx + wordCount i ≠ c.words.length) || decide (c.words.length < c.idx + wordCount i) ||
  (match i with
   | .vbegin .. => p.handler || g.isHost || g.region.isSome || c.idx ≠ 0 || c.base ≠ c.at_ + 4
   | .window .. | .bar .. | .launchG .. | .launchL .. => p.handler
   | .regroup .. => p.handler || g.isHost
   | .cbar .. => p.handler || g.isHost || !(s.recordOf g).cluster
   | .rft | .kill => !p.handler || decide (1 < (g.splits.filter fun q => q.handler).length)
   | .mappg .. => !p.handler || g.isHost
   | .haltall => !(s.context g.ctx).dbg || (g.isHost && !g.sys)
   | .emitv .. | .emitp .. | .emitend => !s.isTask g || g.closed || g.isHost
   | .trace .. | .resume .. | .commit .. | .rpalloc .. | .rpfree .. | .march .. | .hgfetch .. => g.isHost
   | .tload .. | .tstore .. => g.isHost || (s.squareOf g).isNone
   | .tnext => !s.controls g || s.lastSub g
   | .tdone => !s.controls g
   | .coll .. | .collPkg .. => g.isHost
   | _ => false)

/-- What the checks and holds before a word's own effect decide. -/
inductive Issue where
  | fault (t : Trap)
  | hold (h : Hold)
  | go (x : Ctx)

/-- The instructions of the scalar pipe, and those that act once whatever the guard (R160–R162, R248, R255, R265, R411). -/
def scalarPipe (i : Instr) : Bool :=
  i.scalarDst ||
  (match i with
   | .voteBallot .. | .lred .. | .splitqLive .. | .splitqLowest .. | .splitqCount .. | .btset .. | .waitp .. | .qcount ..
   | .stxt .. | .emitend | .tnext | .tdone | .mstat .. => true
   | .swr d _ => d.scalarSource
   | .mappg a b => a.scalarSource && b.scalarSource
   | _ => false)

/-- Instructions that raise no counter when no lane is active (R271, R275, R284). -/
def quietIdle : Instr → Bool
  | .cpyl .. | .cpyt .. | .cpym .. | .gath .. | .mmaAcc .. | .mmaSet .. | .mclr .. | .mload .. | .mdrain .. | .mdrainMrow .. | .mtrq .. | .mfmt .. => true
  | _ => false

/-- The instruction acts: on the scalar pipe whatever the guard, otherwise when a lane is active (R262). -/
def acts (i : Instr) (c : Clause) : Bool := scalarPipe i || c.active ≠ 0

/-- The access classes of system registers (R376). -/
inductive SrClass where | g | h | r | c | s
  deriving DecidableEq, Repr

/-- The class of a register number; `none` for a reserved number (R376). -/
def srClass (n : Nat) : Option SrClass :=
  if n ≤ 0x09 then some .g
  else if 0x10 ≤ n ∧ n ≤ 0x17 then some .h
  else if n = 0x18 ∨ n = 0x19 then some .r
  else if n = 0x20 ∨ (0x22 ≤ n ∧ n ≤ 0x29) then some .c
  else if n = 0x2A ∨ n = 0x2B then some .s
  else none

/-- A thread of system code (R376). -/
def Group.system (g : Group) : Bool := g.isHost && g.sys

/-- A split may access a register (R376). -/
def srAllowed (n : Nat) (write : Bool) (g : Group) (p : Split) : Bool :=
  match srClass n with
  | none => false
  | some .g => true
  | some .h => !write || p.handler
  | some .r => !write
  | some .c => !write || g.system
  | some .s => g.system

/-- A reserved number or a refused access is ILLEGAL_OPERAND with the number (R376). -/
def sysFault (i : Instr) (g : Group) (p : Split) : Option Trap :=
  match i with
  | .srd _ r => if srAllowed r.val false g p then none else some { trap .illegalOperand with tval := BitVec.ofNat 32 r.val }
  | .swr _ r => if srAllowed r.val true g p then none else some { trap .illegalOperand with tval := BitVec.ofNat 32 r.val }
  | _ => none

/-- The long instructions that a group may have 64 of (R269, R372). COPY commands and the others of R379. -/
def isLongRun : Instr → Bool
  | .cpyl .. | .cpyt .. | .cpym .. | .gath .. | .scat .. | .mload .. | .mdrain .. | .mdrainMrow .. | .mtrq .. | .march ..
  | .coll .. | .collPkg .. => true
  | _ => false

/-- The ports that an instruction names, in field order, and whether it pops them. -/
def namedPorts (i : Instr) : List (Nat × Bool) :=
  i.fields.filterMap fun f => match f.2 with
    | .q n => if f.1.isSrc then some (n.val, true) else if f.1.isDst then some (n.val, false) else none
    | _ => none

/-- The port checks of R263: that the ports are bound, then that each has the kind for its use; of several, the first field's (log 46). -/
def portFault (i : Instr) (g : Group) : Option Trap :=
  let code (n : Nat) : Option EnginePort := (g.ports.getD n {}).code
  match (namedPorts i).find? fun e => (code e.1).isNone, (namedPorts i).find? fun e => (code e.1).elim false fun c => isCommand c = e.2 with
  | some e, _ => some { cause := .queueUnbound, tval := BitVec.ofNat 32 e.1 }
  | none, some e => some { cause := .queueMisuse, tval := BitVec.ofNat 32 e.1 }
  | none, none => none

/-- Pop ports in their order: the group after it and the entries taken, or none when one is empty (R32, R262). -/
def Group.popPorts (g : Group) (ns : List Nat) : Option (Group × List (Nat × Entry)) :=
  match ns with
  | [] => some (g, [])
  | n :: rest =>
    match (g.ports.getD n {}).entries with
    | [] => none
    | e :: _ => ((g.popPort n).popPorts rest).map fun r => (r.1, (n, e) :: r.2)

/-- The counter of an instruction's path stands at its limit of 63 (R18). -/
def pathFull (i : Instr) (g : Group) : Bool := i.path.elim false fun q => decide (63 ≤ g.pathCount q)

/-- A result of the split has found its port full: the port holds the split that issued it (R32, R104; log 48). -/
def Group.lateFull (g : Group) (p : Split) : Bool :=
  g.flights.any fun f => f.split = p.id && f.stuck && (match f.work with
    | .results _ (some (n, _)) _ => g.portFull n
    | _ => false)

/-- The instruction writes memory, by itself or by an engine that it starts (R231). -/
def writesMemory : Instr → Bool
  | .ld .. | .ldl .. | .lds .. | .ldc .. | .ldd .. | .ldb .. | .tagget .. | .hgfetch .. | .gath .. | .texs .. | .texl .. | .texf ..
  | .tload .. => false
  | i => i.path.isSome

/-- The instruction's accesses are events that a fence orders (R231). -/
def isEvent (i : Instr) : Bool := i.path.isSome || (match i with
  | .waitmem .. | .tkwait .. | .launchG .. | .launchL .. | .phaseend .. => true
  | _ => false)

/-- No order of the split holds what an instruction does (R231). -/
def State.released (s : State) (g : Group) (p : Split) (i : Instr) : Bool := !isEvent i || s.releasedFor g p.mask (writesMemory i)

/-- The instruction waits until every access of its split is performed: a barrier, which acts as a FENCE ACQREL (R166, R237), and LAUNCH,
which reads its records after a release (R169). -/
def isRendezvous : Instr → Bool
  | .bar .. | .cbar .. | .regroup .. | .launchG .. | .launchL .. => true
  | _ => false

/-- The checks of a word, in the order of R41: encoding, system register, place, register range, ports. -/
def checkWord (i : Instr) (s : State) (g : Group) (p : Split) (c : Clause) : Option Trap :=
  if !i.wf then some (trap .illegalOperand)
  else match sysFault i g p with
    | some t => some t
    | none =>
      if formFault i s g p c then some (trap .illegalForm)
      else if regRange i p.wb g.regCount then some (trap .regRange)
      else portFault i g

/-- What holds a word that acts: the number of long instructions (R372), a full port (R32, R104), a release (R231). -/
def holdWord (i : Instr) (s : State) (g : Group) (p : Split) : Option Hold :=
  if isLongRun i && decide (64 ≤ g.longCount) then some .work
  else if (dstPort i).elim false g.portFull && !i.isLong then some .port
  else if g.lateFull p then some .port
  else if !s.released g p i || (isRendezvous i && g.pendingFor p.mask) then some .path
  else none

/-- What a pop orders before every later access of its split: the accesses of a notification's collective (R424), the traversal unit's
writes (R339), the bytes of a MARCH's batch (R347). -/
def State.popOrder (s : State) (g : Group) (lanes : LaneMask) (e : Nat × Entry) : State :=
  match (g.ports.getD e.1 {}).code with
  | some .fabrx => s.acquire g lanes .sys
  | some .rayhit | some .rayisect => s.acquire g lanes .grp
  | some .msample => s.dropOlds g.id fun o => o.lanes &&& lanes ≠ 0 && o.sources.any fun q => q.2 + 1 = e.2.note
  | _ => s

/-- A word that has taken its entries, after what their pops order. -/
def Ctx.ordered (x : Ctx) : Ctx :=
  let s := x.popped.foldl (fun s e => s.popOrder x.g x.p.mask e) x.s
  { x with s, g := (s.group? x.g.id).getD x.g }

/-- The word takes the entries of its source ports: those that it took when it was first held, or the heads of its ports; an empty port
holds it (R32, R262). -/
def takeEntries (x : Ctx) : Issue :=
  if x.p.taken.isEmpty then
    match x.g.popPorts (srcPorts x.i) with
    | none => .hold .port
    | some (h, []) => .go { x with g := h }
    | some (h, e :: t) => .go { x with s := x.s.putGroup h, g := h, popped := e :: t : Ctx }.ordered
  else
    let h := x.g.modSplit x.p.id fun p => { p with taken := [] }
    .go { x with s := x.s.putGroup h, g := h, popped := x.p.taken : Ctx }.ordered

/-- A word before its source ports are read. -/
def freshCtx (i : Instr) (s : State) (g : Group) (p : Split) (c : Clause) : Ctx :=
  { s, g, p, c, i, lit := if i.usesLit then c.words.getD (c.idx + 1) 0 else 0 }

/-- Everything before the instruction's own effect: the checks, then the holds on counters and ports (R18, R32, R41, R372). -/
def preIssue (i : Instr) (s : State) (g : Group) (p : Split) (c : Clause) : Issue :=
  match checkWord i s g p c with
  | some t => .fault t
  | none =>
    if pathFull i g && (acts i c || !quietIdle i) then .hold .path
    else if !acts i c then .go (freshCtx i s g p c)
    else match holdWord i s g p with
      | some h => .hold h
      | none => takeEntries (freshCtx i s g p c)

/-- What an instruction's own effect comes to. -/
inductive Res where
  /-- It issued; the split moves on. -/
  | done (s : State)
  /-- It issued and placed the split itself. -/
  | moved (s : State)
  /-- It faults, precise at the word: nothing else of it happens. -/
  | fault (t : Trap)
  /-- It is held and has had no effect, but for what `s` records. -/
  | hold (h : Hold)
  /-- Held with a change of state that the hold itself makes (an arrival). -/
  | held (h : Hold) (s : State)
  /-- It faults after it has had its effect: a trap (R100), or the part of a word that precedes its fault (R24, R343). -/
  | raised (t : Trap) (s : State)

/-- The issuing split and its clause. -/
def State.issuer (s : State) : Option (Group × Split × Clause) :=
  match s.cur with
  | none => none
  | some (gid, pid) =>
    match s.group? gid with
    | none => none
    | some g =>
      match g.split? pid with
      | none => none
      | some p => p.clause.map fun c => (g, p, c)

/-- Complete the issue of a word. -/
def State.finish (s : State) (gid pid n : Nat) (r : Res) : State :=
  match r with
  | .done s' => s'.advance gid pid n
  | .moved s' => s'
  | .fault t => s.raise gid pid t
  | .hold h => s.holdSplit gid pid h
  | .held h s' => s'.holdSplit gid pid h
  | .raised t s' => s'.raise gid pid t

/-- An instruction on a path with no lane active counts on it until every earlier one is complete, and attaches to its flag
without holding it (R13, R18). -/
def Group.passOver (g : Group) (q : Path) : Group :=
  let id := g.nextFlight
  let f : Flight := { id, split := 0, mask := 0, flag := none, path := some q, done := true, work := .performed }
  let g := { g with nextFlight := id + 1, flights := g.flights ++ [f] }
  g.drainPath q g.flights.length

/-- What becomes of an instruction that does not act (R13, R18). -/
def Ctx.idle (x : Ctx) (r : Res) : Res :=
  if acts x.i x.c then
    match r with
    | .held h s => .held h (s.modSplit x.g.id x.p.id fun p => { p with taken := x.popped })
    | r => r
  else match r, x.i.path with
    | .done s, some q => if quietIdle x.i then r else .done (s.modGroup x.g.id fun g => g.passOver q)
    | r, _ => r

/-- Issue one word: the checks, then the instruction's own effect. -/
def issue (i : Instr) (s : State) (body : Ctx → Res) : Host.Outcome State Fault Refusal :=
  match s.issuer with
  | none => .fault .noIssuer
  | some (g, p, c) =>
    match preIssue i s g p c with
    | .fault t => .next (s.raise g.id p.id t)
    | .hold h => .next (s.holdSplit g.id p.id h)
    | .go x => .next (s.finish g.id p.id (wordCount i) (x.idle (body x)))

/-! ### Results (R14, R81) -/

/-- Change the issuing group of the state the instruction works on. -/
def Ctx.mod (x : Ctx) (f : Group → Group) : State := x.s.modGroup x.g.id f

/-- A port entry of a result. -/
def Group.pushOut (g : Group) (o : Out) : Group :=
  match o.push with
  | some (n, e) => g.pushPort n e
  | none => g

/-- A short instruction's results take effect at once. -/
def Ctx.write (x : Ctx) (o : Out) : Res := .done (x.mod fun g => (g.applyOut o).pushOut o)

/-- The clause after a long-latency instruction has attached (R14). -/
def Ctx.attached (x : Ctx) (g : Group) : Group :=
  g.modSplit x.p.id fun p => { p with clause := some { x.c with att := true } }

/-- Add an outstanding instruction for the issuing split. -/
def Group.addFlight (g : Group) (f : Flight) : Group :=
  { g with flights := g.flights ++ [{ f with id := g.nextFlight }], nextFlight := g.nextFlight + 1 }

/-- The lanes an instruction is issued for: its active lanes, or the split's on the scalar pipe with none active. -/
def Ctx.issueMask (x : Ctx) : LaneMask := if x.c.active = 0 then x.p.mask else x.c.active

/-- The outstanding instruction that an issuing word becomes. -/
def Ctx.flight (x : Ctx) (flag : Option Nat) (w : Work) : Flight :=
  { id := 0, split := x.p.id, mask := x.issueMask, lanes := x.p.mask, flag, path := x.i.path, handlerMode := x.p.handler,
    issued := x.s.cycle, unitAt := x.s.cycle, work := w }

/-- A wide release of some lanes that covers all that they have issued. -/
def Group.isRelease (g : Group) (lanes : LaneMask) (o : Order) : Bool :=
  o.kind = .rel && o.wide && lanes &&& ~~~o.lanes = 0 && !(g.flights.any fun f => decide (o.at_ ≤ f.id) && f.lanes &&& lanes ≠ 0)

/-- A word that acts as a release at PNL before it has its effect hardens a versioned region (R362) and releases, unless a release that it
made as it was held stands. -/
def Ctx.atRelease (x : Ctx) (reason : Nat) : State :=
  let s := x.s.harden x.g.id x.p.id reason
  if (s.group? x.g.id).elim false fun g => g.orders.any fun o => g.isRelease x.p.mask o then s else s.release x.g.id x.p.mask .pnl

/-- That release still waits for what it covers (R231). -/
def Ctx.releaseOpen (x : Ctx) (s : State) : Bool :=
  (s.group? x.g.id).elim false fun g => g.orders.any fun o => g.isRelease x.p.mask o && s.orderOpen g o

/-- A word's effect comes after its release: what the release covers is performed first, and until then the word is held (R231). -/
def Ctx.afterRelease (x : Ctx) (reason : Nat) (k : State → Res) : Res :=
  let s := x.atRelease reason
  if x.releaseOpen s then .held .path s else k s

/-- A long-latency instruction whose results are known at issue: they wait to be written (R14, R16). -/
def Ctx.later (x : Ctx) (s : State) (o : Out) (bt : Option (Nat × BtEntry) := none) (late : List LateRead := [])
    (lines : List Nat := []) : Res :=
  if acts x.i x.c then
    .done (s.modGroup x.g.id fun g =>
      ((x.attached g).raiseFlags o.flags).addFlight { x.flight x.c.flag (.results o.ds o.push bt) with late, lines })
  else .done (s.modGroup x.g.id x.attached)

/-- The scalar operands of an instruction, in field order (R372). -/
def Ctx.captured (x : Ctx) : List Word :=
  x.i.fields.flatMap fun f => match f.2 with
    | .s n => (List.range f.1.width).map fun k => x.g.scalar (n.val + k)
    | _ => []

/-- A short instruction on a path whose accesses are performed: it counts until its turn comes (R18). -/
def Ctx.counted (x : Ctx) (s : State) (w : Work := .performed) (writes : List LaneWrite := []) (lines : List Nat := [])
    (fault : Option Trap := none) : Res :=
  if acts x.i x.c then
    .done (s.modGroup x.g.id fun g => g.addFlight
      { x.flight none w with
        fault, long := isLongRun x.i, word := x.c.words.getD x.c.idx 0, ops := x.captured, fmt := x.g.fmt.getD [], writes, lines })
  else .done s

end Sys2Proof.Machine
end

