-- ==== Sys2Proof/Machine/Clause.lean ====
section
/-! DEFINITION. Fetching and starting a clause (R11, R25, R451), reserved words, and what completes outstanding
instructions (R14, R18). -/

namespace Sys2Proof.Machine

open Sys2Proof

/-! ### Fetch (R25) -/

/-- Fetch one word with X permission; instruction fetch makes no tag check (R25). Words of another package's memory are not
known (log 10). -/
def fetchWord (s : State) (a : Agent) (va : Nat) : Except Stop (State × Word) :=
  match access s a va 4 1 { x := true } false with
  | .error e => .error e
  | .ok (s, gr) =>
    match gr.place with
    | .cell k _ =>
      (s.sectorTrap? k 4 gr.pa).elim (.ok (s, BitVec.ofNat 32 (s.readMem k 4))) fun t => .error (some t)
    | _ => let f := s.freeWord; .ok (f.2, f.1)

/-- Fetch `n` words from an address; a fault carries the address of the first word that fails (R25). -/
def fetchWords (s : State) (a : Agent) (va n : Nat) : Except Stop (State × List Word) :=
  match n with
  | 0 => .ok (s, [])
  | k + 1 =>
    match fetchWord s a va with
    | .error (some t) =>
      .error (some { t with tval := 0, taddr := some (if t.cause = .uncorrectable then t.taddr.getD 0 else BitVec.ofNat 64 va) })
    | .error none => .error none
    | .ok (s, w) =>
      match fetchWords s a ((va + 4) % 2 ^ 64) k with
      | .error e => .error e
      | .ok (s, ws) => .ok (s, w :: ws)

/-! ### Engine faults at a header (R268) -/

/-- The fault that is delivered next: of those found and not delivered, the earliest-issued instruction's, in the order
found. -/
def Group.engineFault? (g : Group) : Option EngineFault :=
  match g.efaults with
  | [] => none
  | e :: rest => some (rest.foldl (fun (a : EngineFault) b => if b.issue < a.issue then b else a) e)

/-- Every lane of an issuing mask has exited (R268). -/
def Group.allExited (g : Group) (mask : LaneMask) : Bool := mask &&& ~~~g.retired = 0

/-- The live split that holds the lowest lane of a mask that has not exited (R268); none while that lane is parked at a record,
deferred or held under a handler. -/
def Group.receiver? (g : Group) (mask : LaneMask) : Option Split :=
  let m := mask &&& ~~~g.retired
  if m = 0 then none else g.splits.find? fun p => inMask p.mask (lowestLane m)

/-- What the handler sees of an engine fault: SR_TVAL[31] = 1 and the path number in [27:24], unless its entry gives
another coding (R268). -/
def engineTrap (e : EngineFault) : Trap :=
  { e.trap with engine := true, lanes := e.mask,
                tval := if e.trap.byLanes then e.trap.tval else BitVec.ofNat 32 (2 ^ 31 + 2 ^ 24 * e.path + e.trap.tval.toNat % 2 ^ 24) }

/-- The engine fault that a split receives now, at a header or at a hold of WAITP or QDRAIN. -/
def Group.engineFaultFor (g : Group) (p : Split) : Option EngineFault :=
  if p.handler then none
  else match g.engineFault? with
    | some e => match g.receiver? e.mask with
      | some q => if q.id = p.id then some e else none
      | none => none
    | none => none

/-- Deliver an engine fault to a split, precise where it stands (R268). -/
def State.raiseEngine (s : State) (gid pid : Nat) (e : EngineFault) : State :=
  (s.modGroup gid fun g => { g with efaults := removeFirst g.efaults e }).raise gid pid (engineTrap e)

/-! ### The scan for a long-latency word (R451) -/

/-- A long-latency word lies before the first word that would raise ILLEGAL_OP, ILLEGAL_OPERAND or ILLEGAL_FORM. `fuel` is the number of words left. -/
def scanLong (s : State) (g : Group) (p : Split) (c : Clause) (fuel : Nat) : Bool :=
  match fuel with
  | 0 => false
  | k + 1 =>
    match c.words.drop c.idx with
    | [] => false
    | w :: _ =>
      match decode w with
      | .ok i => if (sysFault i g p).isSome || formFault i s g p c then false else i.isLong || scanLong s g p { c with idx := c.idx + wordCount i } k
      | _ => false

/-! ### CLAUSE_HEADER (R11) -/

/-- The guard's lanes (R11). -/
def guardLanes (h : Header) (g : Group) (m : LaneMask) : LaneMask :=
  m &&& (if h.sense then ~~~g.predMask h.pred.val else g.predMask h.pred.val)

/-- The split whose next word is a header. -/
def State.headerIssuer (s : State) : Option (Group × Split) :=
  match s.cur with
  | none => none
  | some (gid, pid) =>
    match s.group? gid with
    | none => none
    | some g =>
      match g.split? pid with
      | none => none
      | some p => if p.clause.isNone && p.resume.isNone then some (g, p) else none

/-- The clause a header starts. -/
def Header.clause (h : Header) (g : Group) (p : Split) (ws : List Word) : Clause :=
  { at_ := p.pc, base := p.pc + 4, words := ws, idx := 0, active := guardLanes h g p.mask, setx := h.setx.val,
    sety := h.sety.val, att := false, only := false }

/-- The start of a clause: its counts, and the pending window base takes effect, but not in handler mode (R20, R91, R144). -/
def Split.startClause (p : Split) (c : Clause) (limit : Nat) : Split :=
  { p with
    clause := some c, hold := .none, headers := p.headers + 1,
    wdog := if limit = 0 then p.wdog else p.wdog - 1,
    wb := if p.handler then p.wb else p.pwb.getD p.wb,
    pwb := if p.handler then p.pwb else none }

/-- A header after its words are fetched: R451's scan, the wait, the guard, the first word (R11). -/
def startHeader (h : Header) (s : State) (g : Group) (p : Split) (ws : List Word) : State :=
  let c := Header.clause h g p ws
  match p.reissue with
  | some k =>
    if k < ws.length then
      s.modSplit g.id p.id fun p => { p with clause := some { c with idx := k, only := true }, hold := .none, reissue := none }
    else s.goHeader g.id p.id c.next
  | none =>
    if h.setx.val = 15 && scanLong s g p c ws.length then s.raise g.id p.id (trap .badHeader)
    else if g.waits h.wait then s.holdSplit g.id p.id .flag
    else s.modGroup g.id fun g =>
      ({ g with clauses := g.clauses + 1 }).modSplit p.id fun p => p.startClause c g.budget.toNat

/-- CLAUSE_HEADER (R11, R25, R134, R144, R268). A merged split waits here until the accesses of the splits it comes from are performed
(R136, R235). -/
def execClauseHeader (h : Header) (s : State) : Host.Outcome State Fault Refusal :=
  match s.headerIssuer with
  | none => .fault .noIssuer
  | some (g, p) =>
    match g.engineFaultFor p with
    | some e => .next (s.raiseEngine g.id p.id e)
    | none =>
      if s.joinOpen g p.mask then .next (s.holdSplit g.id p.id .flag)
      else if !(Instr.clauseHeader h).wf then .next (s.raise g.id p.id (trap .badHeader))
      else if p.reissue.isNone && g.budget ≠ 0 && p.wdog = 0 then .next (s.raise g.id p.id (trap .watchdog))
      else match fetchWords s g.agent ((p.pc.toNat + 4) % 2 ^ 64) (h.n1.val + 1) with
        | .error (some t) => .next (s.raise g.id p.id t)
        | .error none => .next (s.holdSplit g.id p.id .flag)
        | .ok (s', ws) => .next (startHeader h s' g p ws)

/-! ### RESERVED_OPCODE (R34, R40) -/

/-- A word that names no instruction raises its fault at itself: ILLEGAL_OP, or ILLEGAL_OPERAND for a bad field (R40, R41). -/
def execReservedOpcode (w : Word) (s : State) : Host.Outcome State Fault Refusal :=
  match s.issuer with
  | none => .fault .noIssuer
  | some (g, p, _) =>
    .next (s.raise g.id p.id (match decode w with
      | .illegalOperand => trap .illegalOperand
      | _ => trap .illegalOp))

/-! ### Completion (R14, R18) -/

/-- A later result is written, unless its lane has retired (R97). -/
def Group.applyLate (g : Group) (m : LaneMask) (d : Dest) : Group :=
  match d with
  | .vec phys lane v => if inMask g.retired lane then g else g.setReg phys lane v
  | .scal n v => if m &&& ~~~g.retired = 0 then g else g.setScalar n v
  | .word _ _ => g

/-- Destinations two instructions share (R17). -/
def Dest.sameAs (a b : Dest) : Bool :=
  match a, b with
  | .vec p l _, .vec q k _ => p = q && l = k
  | .scal n _, .scal m _ => n = m
  | _, _ => false

/-- The registers that an outstanding instruction still has to write. -/
def Flight.dests (f : Flight) : List Dest :=
  (match f.work with
   | .results ds _ _ => ds
   | _ => []) ++ (f.late.flatMap fun r => r.dests) ++ f.atoms.flatMap fun u => u.items.flatMap fun i => i.2.2

/-- The base slot that an outstanding BTSET fills. -/
def Flight.slot? (f : Flight) : Option Nat :=
  match f.work with
  | .results _ _ (some (k, _)) => some k
  | _ => none

/-- An earlier instruction of the same path still has to write a register this one writes (R17), or an earlier BTSET of the same split
the slot that this one fills (R248). -/
def Group.shadowed (g : Group) (f : Flight) : Bool :=
  f.path.isSome && g.flights.any fun e =>
    decide (e.id < f.id) && e.path = f.path && !e.done &&
    ((e.dests.any fun d => f.dests.any fun c => d.sameAs c) || (f.slot?.isSome && e.slot? = f.slot? && e.lanes &&& f.lanes ≠ 0))

/-- A fault of a group's instruction is fatal (R351, R352): through the split that holds its lanes, or with no live split of them
through the record and the registers alone. -/
def State.fatalFor (s : State) (g : Group) (mask : LaneMask) (t : Trap) : State :=
  match g.receiver? mask with
  | some p => s.fatal g p t false
  | none =>
    { s.modGroup g.id (fun g => { g with causeReg := t.causeWord, tval := t.tval, taddr := t.taddr.getD g.taddr }) with
      fatals := s.fatals ++ [s.recordFor g { id := 0, mask, pc := 0, wdog := 0 } t 1 false] }

end Sys2Proof.Machine
end

