-- ==== Sys2Proof/Machine/Tables.lean ====
section
/-! DEFINITION. What a read of the control space returns (R182, R222, R388, R392, R402, R406, R408, R438, R440, R441, R444), and
which launches are pending (R182, R300). -/

namespace Sys2Proof.Machine

open Sys2Proof

/-! ### Pending launches (R182) -/

/-- The flags GRAPH and PIXEL of a launch record (R178). -/
def LaunchRec.graph (r : LaunchRec) : Bool := bit r.flags 2
def LaunchRec.pixel (r : LaunchRec) : Bool := bit r.flags 4

/-- A launch has workgroups not yet all made resident (R182). `total` is how many it has. -/
def Launch.pendingOf (l : Launch) (total : Nat) : Bool :=
  match l.state with
  | .finished _ => false
  | .pending => true
  | .running => !l.record.graph && decide (l.placed.length < total)

/-- Squares of a pass (R300). -/
def Pass.width (p : Pass) : Nat := fieldAt p.bytes 0 2
def Pass.height (p : Pass) : Nat := fieldAt p.bytes 2 2
def Pass.side (p : Pass) : Nat := 16 * 2 ^ bits (fieldAt p.bytes 4 1) 0 2
def Pass.sqx (p : Pass) : Nat := ceilDiv p.width p.side
def Pass.sqy (p : Pass) : Nat := ceilDiv p.height p.side
def Pass.planes (p : Pass) : Nat := fieldAt p.bytes 5 1
def Pass.nsub (p : Pass) : Nat := fieldAt p.bytes 6 1
def Pass.ndraw (p : Pass) : Nat := fieldAt p.bytes 8 2

/-- How many workgroups a launch makes resident: one for each square of a pixel launch. -/
def State.total (s : State) (l : Launch) : Nat :=
  if l.record.pixel then
    match l.pass.bind s.pass? with
    | some p => if p.failed then 0 else p.sqx * p.sqy
    | none => 0
  else l.record.wgtotal

def State.pending (s : State) (l : Launch) : Bool := l.pendingOf (s.total l)

/-- The pending launches of a queue: its PENDING field (R182). -/
def State.pendingIn (s : State) (q : Nat) : Nat := (s.launches.filter fun l => l.record.queue = q && s.pending l).length

/-! ### The registers' bytes -/

/-- The 16 bytes of a queue entry (R182). -/
def State.queueBytes (s : State) (k : Nat) : List Byte :=
  let q := s.queues.getD k {}
  bytesOf 1 q.ctx ++ bytesOf 1 q.ctl ++ bytesOf 2 q.depth ++ bytesOf 4 q.seq.toNat ++ bytesOf 4 (s.pendingIn k) ++
    bytesOf 4 q.refused.toNat

/-- The 32 bytes of a region entry (R392, R405). -/
def RegionEntry.bytes (e : RegionEntry) : List Byte :=
  bytesOf 8 e.base ++ bytesOf 8 e.size ++ bytesOf 7 e.dieset ++ bytesOf 1 (e.mode + 4 * e.stride + 128 * e.valid.toNat) ++
    bytesOf 6 e.dbase ++ bytesOf 1 e.target ++ bytesOf 1 e.pkgHi

/-- The 32 bytes of an import entry (R406). -/
def ImportEntry.bytes (e : ImportEntry) : List Byte :=
  bytesOf 8 e.base ++ bytesOf 8 e.size ++ bytesOf 2 e.srcLo ++ bytesOf 2 e.srcHi ++ bytesOf 1 e.ctx ++ bytesOf 1 e.perm ++
    bytesOf 10 0

/-- A step entry: 600 MHz and 0x2BC until it is written (R444). -/
def Island.step (i : Island) (k : Nat) : Nat := let e := (sread i.steps k).toNat; if e = 0 then 600 * 4096 + 0x2BC else e

/-- A byte of the identity record of a part (R440). -/
def identityByte (p : Identity) (k : Nat) : Byte :=
  let fixed := bytesOf 2 1 ++ bytesOf 1 p.code ++ bytesOf 1 p.count ++ bytesOf 8 Config.serial.toNat ++ bytesOf 6 p.live ++
    bytesOf 6 p.pass ++ bytesOf 1 0xF ++ bytesOf 7 0
  if k < 32 then fixed.getD k 0
  else if (32 ≤ k ∧ k < 96) ∨ (128 ≤ k ∧ k < 29920) then Config.identityByte k
  else 0

/-- The ring items in force: RINGCTL, PKGID, RINGTAB (R408). -/
def State.ringBytes (s : State) (k : Nat) : List Byte :=
  if k = 0 then bytesOf 4 (s.ringP + 2 ^ 16 * s.ringPos)
  else if k = 1 then bytesOf 2 s.pkgid
  else bytesOf 2 (sread s.ringtab (k - 2)).toNat

/-- The bytes of a register of the control space, by its table, die and index as in `ControlWrite`; table 11 is the identity record
(R2), and the key registers always read 0 (R441). -/
def State.controlBytes (s : State) (table die k : Nat) : List Byte :=
  match table with
  | 0 => s.queueBytes k
  | 1 => (s.regions.getD k {}).bytes
  | 2 => bytesOf 1 (sread (s.die die).routes k).toNat
  | 3 => (s.imports.getD k {}).bytes
  | 4 => bytesOf 8 (s.die die).poolbase
  | 5 => bytesOf 8 (s.die die).migbase
  | 6 => s.ringBytes k
  | 7 => bytesOf 4 (s.islands.getD k {}).select
  | 8 => bytesOf 4 ((s.islands.getD (k / 16) {}).step (k % 16))
  | 9 => bytesOf 8 ((s.link k).switchAt.getD 0)
  | 10 => List.replicate 32 0
  | _ => (List.range 128).map fun i => identityByte s.ident (k + i)

/-- The number that a read of `n` bytes of the control space at a physical address gives (R387, R438; log 52). -/
def State.controlRead (s : State) (pa n : Nat) : Nat :=
  ofBytes (((s.controlBytes (Config.controlTable pa) (Config.controlDie pa) (Config.controlIndex pa)).drop
    (Config.controlOffset pa)).take n)

end Sys2Proof.Machine
end

