-- ==== Sys2Proof/Machine/Access.lean ====
section
/-! DEFINITION. What loads and stores of every level share: widths (R102), level addresses and bounds (R197–R207), global
accesses of lanes (R103), lanes that write the same byte (R224), versioned writes (R361), other packages (R405–R407). -/

namespace Sys2Proof.Machine

open Sys2Proof

/-! ### Widths (R102) -/

def storeSize : SWidth → Nat
  | .n8 => 1
  | .n16 => 2
  | .n32 => 4
  | .n64 => 8
  | .n128 => 16

/-- The bytes a store of a width takes from its data operand in a lane (R102). -/
def Ctx.storeData (x : Ctx) (w : SWidth) (d : Operand) (l : Nat) : List Byte :=
  match w with
  | .n64 => bytesOf 8 (x.src64 d l).toNat
  | .n128 => (List.range 4).flatMap fun k => bytesOf 4 (x.nth d k l).toNat
  | w => bytesOf (storeSize w) (x.src d l).toNat

/-! ### Levels (R197–R207) -/

/-- The explicit levels. -/
inductive Level4 where | lane | scratch | cluster | die
  deriving DecidableEq, Repr

/-- Scratchpad bytes of a group's workgroup; a host core has none (R202). -/
def State.scratchSize (s : State) (g : Group) : Nat := if g.isHost then 0 else (s.recordOf g).scratch

/-- The die scratchpad allocation of a group's launch (R178, R207). -/
def State.dieScratchSize (s : State) (g : Group) : Nat := if g.isHost then 0 else roundUp (s.recordOf g).diescratch 4096

/-- The workgroup at another position of the group's cluster (R155, R203). -/
def State.clusterPeer (s : State) (g : Group) (pos : Nat) : Option Nat :=
  match s.workgroup? g.wg with
  | none => none
  | some w => if pos = w.core % 4 then some w.id
    else (s.workgroups.find? fun u => u.launch = w.launch && u.w = w.w / 4 * 4 + pos).map fun u => u.id

/-- What a level address reaches: bytes at a key, nothing but zeros, or a bounds fault. -/
inductive Reach where
  | key (k : Nat)
  | zeros
  | bad (c : Cause)

/-- The bytes a cluster address names (R203, R204). The allocation of a workgroup of the cluster that has ended answers no more: the
address raises CLU_BOUNDS, which the spec does not say (log 72). -/
def State.clusterReach (s : State) (g : Group) (addr size : Nat) : Reach :=
  let off := bits addr 0 21
  let pos := ((g.core % 4 : Nat) : Int) + signed 3 (bits addr 21 3)
  if bits addr 24 8 ≠ 0 || decide (pos < 0) || decide (3 < pos) then .bad .cluBounds
  else if bits addr 21 3 ≠ 0 && !(s.recordOf g).cluster then .bad .cluBounds
  else if s.scratchSize g < off + size then .bad .cluBounds
  else match (if bits addr 21 3 = 0 then some g.wg else s.clusterPeer g pos.toNat) with
    | some w => .key (Space.key (.scratch w) off)
    | none => .bad .cluBounds

/-- The bytes a level address names (R198–R207). -/
def State.reach (s : State) (g : Group) (lv : Level4) (lane addr size : Nat) : Reach :=
  match lv with
  | .lane => if g.sliceSize < addr + size then .zeros else .key (g.sliceKey lane addr)
  | .scratch => if s.scratchSize g < addr + size then .bad .scrBounds else .key (Space.key (.scratch g.wg) addr)
  | .cluster => s.clusterReach g addr size
  | .die => if s.dieScratchSize g < addr + size then .bad .dieBounds
    else .key (Space.key (.dieScratch ((s.launchOf g).elim 0 fun l => l.id) g.die) addr)

/-- The level address of a lane (R197). -/
def Ctx.levelAddr (x : Ctx) (a b : Operand) (l : Nat) : Nat := ((x.src a l).toNat + (x.src b l).toNat) % 2 ^ 32

/-- The checks of a level access in every lane (R198): alignment first, then bounds. -/
def Ctx.levelFault (x : Ctx) (lv : Level4) (lanes : List Nat) (addr : Nat → Nat) (size : Nat) (once : Bool) : Option Trap :=
  let mis := lanes.filter fun l => addr l % size ≠ 0
  let bads := lanes.filterMap fun l => match x.s.reach x.g lv l (addr l) size with
    | .bad c => some (l, c)
    | _ => none
  if mis ≠ [] then
    some { trap .align with tval := if once then 1 else maskOf mis, byLanes := true,
                            taddr := some (BitVec.ofNat 64 (addr (mis.headD 0))) }
  else match bads with
    | [] => none
    | (_, c) :: _ => some { trap c with tval := if once then 1 else maskOf (bads.map fun e => e.1), byLanes := true }

/-! ### Lanes that write the same place (R224) -/

/-- Of the lanes whose writes go to one key, one lane's value remains; which one is free (log 11). -/
def winner (tick : Nat) (all : List (Nat × Nat)) (l k : Nat) : Bool :=
  match all.filter fun e => e.2 = k with
  | [_] => true
  | same => (same.getD (Config.laneChoice tick k % same.length) (l, k)).1 = l

/-- The writes that remain, given which lane makes each and where. -/
def remaining {α : Type} (tick : Nat) (at_ : α → Nat × Nat) (ws : List α) : List α :=
  ws.filter fun e => winner tick (ws.map at_) (at_ e).1 (at_ e).2

/-- The lane and key of a write. -/
def LaneWrite.place (w : LaneWrite) : Nat × Nat := (w.lane, w.key)

/-- The key and size of a write. -/
def LaneWrite.cell (w : LaneWrite) : Nat × Nat := (w.key, w.bytes.length)

/-! ### Global reads and writes of a split (R103, R361) -/

/-- The bytes that a write puts into a version, with their keys in every copy, the last first. -/
def LaneWrite.versionBytes (s : State) (w : LaneWrite) : List (Nat × Byte) :=
  ((w.key :: w.home.elim [] fun h => s.copyKeys h.pa).flatMap fun k => w.bytes.zipIdx.map fun b => (k + b.2, b.1)).reverse

/-- The bytes that a store to another package puts into a version. -/
def AwayStore.versionBytes (a : AwayStore) : List (Nat × Byte) :=
  (a.pkt.payload.zipIdx.map fun b => (Space.key (.far a.pkg) (a.pkt.addr + b.2), b.1)).reverse

/-- Add stores to a version, newest first. -/
def versionAdd (s : State) (v : List (Nat × Byte)) (ws : List LaneWrite) (away : List AwayStore := []) : List (Nat × Byte) :=
  (away.foldl (fun v a => a.versionBytes ++ v) (ws.foldl (fun v w => w.versionBytes s ++ v) v))

/-- The unhardened region of the issuing split in a state (R361). -/
def Ctx.region? (x : Ctx) (s : State) : Option Region :=
  (s.group? x.g.id).bind fun g => if g.unhardened x.p then g.region else none

/-- A version that may hold more lines, within the limits of R361. -/
def State.versionFits (s : State) (die : Nat) (r : Region) (v : List (Nat × Byte)) : Bool :=
  decide (versionLines v ≤ 2048) && decide (s.dieVersionLines die + (versionLines v - versionLines r.version) ≤ 131072)

/-- The address checks of R103 for every lane. -/
def Ctx.lanes (x : Ctx) (s : State) (lanes : List Nat) (ea : Nat → DWord) (size align : Nat) (need : Need) (tag once : Bool) :
    Except Stop (State × List (Nat × Grant)) :=
  eachLane s lanes ea once fun s l => access s x.g.agent (ea l).toNat size align need tag

/-- A fault, or a wait at the walker (R403). -/
def stopRes (e : Stop) : Res :=
  match e with
  | some t => .fault t
  | none => .hold .map

/-! ### Loads and stores -/

/-- Some byte of the lanes' cells carries an uncorrectable error (R351). -/
def State.poisonOf (s : State) (gs : List (Nat × Grant)) (size : Nat) : Option Trap :=
  gs.findSome? fun e => match e.2.place with
    | .cell k _ => s.sectorTrap? k size e.2.pa
    | _ => none

/-- Byte i of what a lane reads from another package's memory: the version's, or free (R361, log 10). -/
def State.farByte (s : State) (g : Group) (p : Split) (l pkg addr i : Nat) : Byte :=
  (g.versioned? p (Space.key (.far pkg) (addr + i))).getD
    (BitVec.ofNat 8 ((Config.remoteWord s.tick l (i / 4)).toNat / 2 ^ (8 * (i % 4))))

/-- The number a lane reads on a path, of `size` bytes. -/
def State.readGrant (s : State) (g : Group) (p : Split) (q : Option Path) (l : Nat) (gr : Grant) (size : Nat) : Nat :=
  match gr.place with
  | .cell k _ => ofBytes ((List.range size).map fun i => s.byteFor g p q (k + i))
  | .remote pkg a => ofBytes ((List.range size).map fun i => s.farByte g p l pkg a i)
  | .control pa => s.controlRead pa size
  | .nowhere => 0

/-! ### Order and traffic (R230, R396–R398, R401) -/

/-- An access of some cells comes after the split's earlier ones of the same bytes on its path: those that can be are performed, and while
one is left the word is held (R230). -/
def Ctx.inOrder (x : Ctx) (s : State) (cells : List (Nat × Nat)) (reads : Bool) (f : State → Group → Res) : Res :=
  let s := s.orderFor x.g x.p.mask x.i.path cells
  if s.blocked x.g.id x.p.mask x.i.path cells reads then .held .path s
  else f s ((s.group? x.g.id).getD x.g)

/-- The first read of a replicated page by a die other than its home puts a replica into the die's pool, which forgets the one used longest
ago when it is full (R401). -/
def State.useReplica (s : State) (die : Nat) (gr : Grant) : State :=
  let page := (gr.pa / 32768 * 32768, die)
  let n := Config.replicaFrames die
  let mine := page :: s.replicas.filter fun e => e.2 = die && e ≠ page
  { s with replicas := (if n = 0 then s.replicas.filter fun e => e.2 = die else mine.take n) ++ s.replicas.filter fun e => e.2 ≠ die }

/-- A read that its home serves without a copy staying: an RD for the line, or one that has not been served yet (R393, R396). -/
def State.askPlain (s : State) (die : Nat) (h : Home) : Nat × State :=
  match s.packets.find? fun p => p.type = 1 && p.plain && p.asker = die && p.addr = lineOf h.pa with
  | some p => (p.tag, s)
  | none =>
    let t := s.nextTag
    (t.1, t.2.send { type := 1, src := die, dst := h.die, addr := lineOf h.pa, tag := t.1, asker := die, plain := true })

/-- The request for a line that a die may not read as it stands. -/
def State.askRead (s : State) (die : Nat) (h : Home) : Nat × State :=
  if h.repl || h.coh ≠ 0 then s.askPlain die h else s.askLine die h.die false (lineOf h.pa)

/-- The traffic of an access that reads memory as its unit is performed, or that writes it so: the lines of other dies are asked for. -/
def State.fetchLines (s : State) (die : Nat) (write : Bool) (gs : List (Nat × Grant)) : State :=
  gs.foldl (fun s e => match e.2.home? with
    | some h =>
      let s := if e.2.rep && !write && h.die ≠ die then s.useReplica die e.2 else s
      if write then (if h.repl || h.coh ≠ 0 then s else s.fetchLine die h.die true (lineOf h.pa))
      else if s.mayRead die h then s else (s.askRead die h).2
    | none => s) s

/-- The lines whose acknowledgements writes wait for, and the control registers they reach (R239, R391, R393). -/
def linesOf (gs : List (Nat × Grant)) : List Nat :=
  gs.filterMap fun e => match e.2.place with
    | .cell _ _ => if e.2.coh ≠ 0 && !e.2.repl then none else some (lineOf e.2.pa)
    | .control pa => some pa
    | _ => none

/-- The keys and sizes of granted accesses to this package's memory, in every copy of a REPLREAD region (R393). -/
def grantCells (gs : List (Nat × Grant)) (size : Nat) : List (Nat × Nat) :=
  gs.flatMap fun e => match e.2.place with
    | .cell k _ => (k :: e.2.copies).map fun k => (k, size)
    | _ => []

/-- A die's own write to a REPLREAD region's line has not reached every copy, so the die's reads of the line wait (R229, R393). -/
def State.copying (s : State) (die : Nat) (gs : List (Nat × Grant)) : Bool :=
  gs.any fun e => e.2.repl && s.acks.any fun a => a.writer = die && a.line = lineOf e.2.pa

/-- A line may stand in the L1 of a die's cores (R396). -/
def Grant.inL1 (gr : Grant) (die home : Nat) : Bool := gr.coh = 0 || (gr.coh = 1 && home = die)

/-- A line leaves the L1 of the core and the L2 of the die before its memory is read past them. -/
def State.passCaches (s : State) (g : Group) (k : Nat) : State :=
  (s.dropL2 g.die fun e => !e.bytes.isEmpty && e.key = k / 128 * 128 && !e.own).dropLine g k

/-- What a load does to the caches: a line that answers it stays, and a line read from memory is filled or left out (R209); data under a
tag check comes past them (R258). -/
def State.noteLine (s : State) (g : Group) (gr : Grant) : State :=
  match gr.place with
  | .cell k home =>
    if gr.tagged || gr.coh ≠ 0 || gr.repl then s.passCaches g k
    else if s.loose.hit && (s.line? g k).isSome then s
    else if s.loose.fill && gr.inL1 g.die home then s.fillLine g k
    else s.dropLine g k
  | _ => s

/-- A host core's access to the control space goes to its die as CTRL (R387, R438): with no payload it is a read. -/
def State.sendControl (s : State) (g : Group) (gs : List (Nat × Grant)) (f : Nat → List Byte) : State :=
  gs.foldl (fun s e => match e.2.place with
    | .control pa => s.send { type := 0x30, src := g.die, dst := Config.controlDie pa % 52, tag := g.core, addr := pa,
                              payload := f e.1, len := (f e.1).length, ctx := g.ctx }
    | _ => s) s

/-- A port destination takes its entry at issue. -/
def isPort : Operand → Bool
  | .q _ => true
  | _ => false

/-- The grant of a lane. -/
def grantOf (gs : List (Nat × Grant)) (l : Nat) : Option Grant := (gs.find? fun e => e.1 = l).map fun e => e.2

/-! ### Loads -/

/-- How a lane's read gets its value. -/
inductive ReadBy where
  /-- As the machine stands. -/
  | now
  /-- From the answer to the request with a tag. -/
  | answer (tag : Nat)
  /-- Never: no plane reaches its package (R407). -/
  | lost

/-- What a lane's granted read of another package asks for. A read of a version's own bytes asks nobody (R361). -/
def Ctx.readAway (x : Ctx) (s : State) (aux fid pkg addr : Nat) (e : Nat × Grant) (ea : DWord) : ReadBy × State :=
  let r : Request := { lane := e.1, pkg, addr, rims := s.rimsOf e.2.pa, ea, tagged := e.2.tagged }
  if (x.g.versioned? x.p (Space.key (.far pkg) addr)).isSome then (.now, s)
  else if s.reachable r then
    let t := s.ask x.g fid (laneBit e.1) r 1 aux [] false
    (.answer t.1, t.2)
  else (.lost, s)

/-- What a lane's granted read asks for (R393, R396, R398, R405): a line that the die may not read as it stands gives its value when it
comes. A read under a tag check, and one in an unhardened region, is of the memory as it stands. -/
def Ctx.readBy (x : Ctx) (s : State) (fid : Nat) (e : Nat × Grant) (ea : DWord) : ReadBy × State :=
  match e.2.place, e.2.home? with
  | .remote pkg addr, _ => x.readAway s 0 fid pkg addr e ea
  | _, some h =>
    let s := if e.2.rep && h.die ≠ x.g.die then s.useReplica x.g.die e.2 else s
    if s.mayRead x.g.die h then (.now, s)
    else
      let t := s.askRead x.g.die h
      if e.2.tagged || (x.region? s).isSome then (.now, t.2) else (.answer t.1, t.2)
  | _, _ => (.now, s)

/-- The requests of a load, lane by lane. -/
def Ctx.readsBy (x : Ctx) (s : State) (fid : Nat) (gs : List (Nat × Grant)) (ea : Nat → DWord) : List (Nat × Grant × ReadBy) × State :=
  gs.foldl (fun acc e =>
    let r := x.readBy acc.2 fid e (ea e.1)
    (acc.1 ++ [(e.1, e.2, r.1)], r.2)) ([], s)

/-- The places of a destination that a lane's late read fills. -/
def Ctx.lateDests (x : Ctx) (w : LWidth) (d : Operand) (l : Nat) : List Dest :=
  if isPort d then (if vectorShape x.i then [.word l 0] else (List.range 32).map fun k => .word k 0)
  else (x.outOn [l] d fun _ => loadWords w 0).ds

/-- The results of a load that are known at issue, and its reads that are not, with their keys and what they ask. -/
def Ctx.loadOut (x : Ctx) (w : LWidth) (d : Operand) (lanes : List Nat) (late : Nat → Bool) (read : Nat → LateRead) (val : Nat → Nat) :
    Out × List LateRead :=
  let known := lanes.filter fun l => !late l
  let o := x.outOn (if isPort d then lanes else known) d fun l => loadWords w (if late l then 0 else val l)
  (o, (lanes.filter late).map fun l => { read l with dests := x.lateDests w d l })

/-- The read of a lane as one that is not fixed yet. -/
def lateRead (w : LWidth) (l : Nat) (gr : Grant) (by_ : ReadBy) : LateRead :=
  let key : Nat := match gr.place with
    | .cell k _ => k
    | .remote p a => Space.key (.far p) a
    | _ => 0
  { lane := l, key, width := w, dests := [], home := gr.home?, asked := match by_ with
      | .answer t => some t
      | _ => none }

/-- A lane's read is not fixed at issue (R226): it waits for an answer, or the step leaves it open; not so in an unhardened region, nor
under a tag check (R258). -/
def Ctx.isLate (x : Ctx) (s : State) (l : Nat) (gr : Grant) (by_ : ReadBy) : Bool :=
  match by_, gr.place with
  | .answer _, _ => true
  | .now, .cell _ _ => inMask s.loose.late l && !gr.tagged && (x.region? s).isNone
  | _, _ => false

/-- A global load whose lanes have been granted their addresses: its results wait (R104). -/
def Ctx.loadGranted (x : Ctx) (s : State) (w : LWidth) (d : Operand) (gs : List (Nat × Grant)) (ea : Nat → DWord) : Res :=
  if s.copying x.g.die gs then .held .path s else
  x.inOrder s (grantCells gs (loadBytes w)) true fun s g =>
    let fid := s.nextFlight x.g.id
    let s := gs.foldl (fun s e => if e.2.tagged || e.2.coh ≠ 0 || e.2.repl then s.noteLine x.g e.2 else s) s
    let bad := s.poisonOf gs (loadBytes w)
    let r := x.readsBy s fid gs ea
    let late (l : Nat) : Bool := r.1.any fun e => e.1 = l && x.isLate s l e.2.1 e.2.2
    let lost := (r.1.filter fun e => match e.2.2 with
      | .lost => true
      | _ => false).map fun e => (e.1, remoteDenial)
    let lanes := (r.1.map fun e => e.1).filter fun l => !(lost.any fun e => e.1 = l)
    let o := x.loadOut w d lanes late
      (fun l => (r.1.find? fun e => e.1 = l).elim { lane := l, key := 0, width := w, dests := [] } fun e => lateRead w l e.2.1 e.2.2)
      fun l => (grantOf gs l).elim 0 fun gr => s.readGrant g x.p x.i.path l gr (loadBytes w)
    let s := gs.foldl (fun s e => if late e.1 then s else s.noteLine x.g e.2) r.2
    let s := (s.sendControl x.g gs fun _ => []).bump
    if acts x.i x.c then
      .done (s.modGroup x.g.id fun g =>
        let g := (x.attached g).addFlight
          { x.flight x.c.flag (.results o.1.ds o.1.push none) with fault := bad, late := o.2, lines := linesOf gs }
        if lost.isEmpty then g else g.addDenied fid x.issueMask x.i.path ea lost)
    else .done (s.modGroup x.g.id x.attached)

/-- A global load (R103, R104). -/
def Ctx.loadGlobal (x : Ctx) (w : LWidth) (d : Operand) (ea : Nat → DWord) : Res :=
  let size := loadBytes w
  match x.lanes x.s (x.lanesFor d) ea size size { r := true } true (isScalar d) with
  | .error e => stopRes e
  | .ok (s, gs) => x.loadGranted s w d gs ea

/-! ### Stores -/

/-- The writes of lanes granted their addresses in this package. -/
def grantWrites (gs : List (Nat × Grant)) (f : Nat → List Byte) : List LaneWrite :=
  gs.filterMap fun e => match e.2.place with
    | .cell k _ => some { lane := e.1, key := k, bytes := f e.1, home := e.2.home? }
    | _ => none

/-- The stores of lanes to other packages, as a version holds them. -/
def awayStores (s : State) (g : Group) (gs : List (Nat × Grant)) (ea : Nat → DWord) (f : Nat → List Byte) : List AwayStore :=
  (s.requests gs ea).map fun r =>
    { pkg := r.pkg, pkt := r.packet g 3 0 (f r.lane), lane := r.lane, ea := r.ea, tagged := r.tagged, rims := r.rims }

/-- The unit of a lane of a long instruction: its place among the active lanes (R269, R379). -/
def Ctx.laneUnit (x : Ctx) (l : Nat) : Word :=
  if isLongRun x.i then BitVec.ofNat 32 (x.activeLanes.takeWhile fun k => k ≠ l).length else 0xFFFFFFFF

/-- A write that is performed as it issues, whatever its line's state, in every copy: one under a tag check, which is one unit with it
(R258). -/
def State.writeThrough (s : State) (g : Group) (p : Split) (fid : Nat) (q : Option Path) (w : LaneWrite) (gr : Grant) : State :=
  let s := (s.fetchLines g.die true [(w.lane, gr)]).performWrite g p.mask fid q w
  s.writeKeys gr.copies w.bytes

/-- Stores that issue now: those that may be are performed, unless the step delays them; the others stay with the instruction and ask
their homes; the requests to other packages go out (R226, R398, R407). -/
def Ctx.storeNow (x : Ctx) (s : State) (ws : List LaneWrite) (gs : List (Nat × Grant)) (ea : Nat → DWord) (f : Nat → List Byte) : Res :=
  let fid := s.nextFlight x.g.id
  let tagged (w : LaneWrite) : Bool := (grantOf gs w.lane).elim false fun gr => gr.tagged
  let wait (w : LaneWrite) : Bool := !tagged w && (inMask s.loose.delay w.lane || !s.homeReady x.g none w.home)
  let s' := (ws.filter fun w => !wait w).foldl (fun s w => match grantOf gs w.lane with
    | some gr => if gr.tagged then s.writeThrough x.g x.p fid x.i.path w gr else s.performWrite x.g x.p.mask fid x.i.path w
    | none => s.performWrite x.g x.p.mask fid x.i.path w) s
  let s' := (s'.sendControl x.g gs f).bump
  let s' := s'.sendStores x.g fid x.issueMask x.i.path 0 ((s.requests gs ea).map fun r => (r, f r.lane)) x.laneUnit
  match x.counted s' .performed (ws.filter wait) (linesOf gs) with
  | .done s' => .done ((ws.filter wait).foldl (fun s w => s.askWrite x.g fid w) s')
  | r => r

/-- A global store whose lanes have been granted their addresses (R103, R104): into the version of an unhardened region of the split,
unless it exceeds its limits, which hardens the region first (R361, R362). -/
def Ctx.storeGranted (x : Ctx) (s : State) (gs : List (Nat × Grant)) (ea : Nat → DWord) (f : Nat → List Byte) : Res :=
  let ws := remaining s.tick LaneWrite.place (grantWrites gs f)
  x.inOrder s (ws.map LaneWrite.cell ++ grantCells (gs.filter fun e => e.2.repl) ((ws.head?.map fun w => w.bytes.length).getD 0)) false fun s _ =>
    match x.region? s with
    | none => x.storeNow s ws gs ea f
    | some r =>
      let away := awayStores s x.g gs ea f
      let v := versionAdd s r.version ws away
      let homes := (ws.filterMap fun w => w.home).filter fun h => h.repl || h.coh = 0
      if s.versionFits x.g.die r v then
        x.counted ((s.modGroup x.g.id fun g =>
          { g with region := some { r with version := v, away := r.away ++ away, homes := r.homes ++ homes } }).bump)
      else x.storeNow (s.harden x.g.id x.p.id 1) ws gs ea f

/-- A global store (R103). -/
def Ctx.storeGlobal (x : Ctx) (w : SWidth) (d : Operand) (ea : Nat → DWord) : Res :=
  let size := storeSize w
  match x.lanes x.s x.activeLanes ea size size { w := true } true false with
  | .error e => stopRes e
  | .ok (s, gs) => x.storeGranted s gs ea (x.storeData w d)

/-- The key of a level address, where it has one. -/
def Ctx.levelKey (x : Ctx) (lv : Level4) (a b : Operand) (size l : Nat) : Option Nat :=
  match x.s.reach x.g lv l (x.levelAddr a b l) size with
  | .key k => some k
  | _ => none

/-- What a lane of a level load reads. -/
def Ctx.levelValue (x : Ctx) (s : State) (g : Group) (lv : Level4) (a b : Operand) (size l : Nat) : Nat :=
  match x.levelKey lv a b size l with
  | some k => ofBytes ((List.range size).map fun i => s.byteFor g x.p x.i.path (k + i))
  | none => 0

/-- A level load (R245, R246). -/
def Ctx.loadLevel (x : Ctx) (lv : Level4) (w : LWidth) (d a b : Operand) : Res :=
  let size := loadBytes w
  let lanes := x.lanesFor d
  match x.levelFault lv lanes (x.levelAddr a b) size (isScalar d) with
  | some t => .fault t
  | none =>
    x.inOrder x.s ((lanes.filterMap (x.levelKey lv a b size)).map fun k => (k, size)) true fun s g =>
      let late (l : Nat) : Bool := inMask s.loose.late l && (x.levelKey lv a b size l).isSome
      let o := x.loadOut w d lanes late (fun l => { lane := l, key := (x.levelKey lv a b size l).getD 0, width := w, dests := [] })
        (x.levelValue s g lv a b size)
      x.later s o.1 none o.2

/-- The writes of a level store that remain. -/
def Ctx.levelWrites (x : Ctx) (lv : Level4) (w : SWidth) (d a b : Operand) : List LaneWrite :=
  remaining x.s.tick LaneWrite.place (x.activeLanes.filterMap fun l =>
    (x.levelKey lv a b (storeSize w) l).map fun k => { lane := l, key := k, bytes := x.storeData w d l })

/-- A level store (R245, R246). -/
def Ctx.storeLevel (x : Ctx) (lv : Level4) (w : SWidth) (d a b : Operand) : Res :=
  match x.levelFault lv x.activeLanes (x.levelAddr a b) (storeSize w) false with
  | some t => .fault t
  | none =>
    let ws := x.levelWrites lv w d a b
    x.inOrder x.s (ws.map LaneWrite.cell) false fun s _ => x.storeNow s ws [] (fun _ => 0) fun _ => []

end Sys2Proof.Machine
end

