-- ==== Sys2Proof/Machine/Atomic.lean ====
section
/-! DEFINITION. Atomics (R249–R252). -/

namespace Sys2Proof.Machine

open Sys2Proof

/-- Perform the read-modify-writes of lanes at keys; each lane's old value (R238, R251). -/
def State.atomics (s : State) (op : AtomicOp) (at_ : List (Nat × Nat)) (vc : Nat → Nat × Nat) : State × List (Nat × Nat) :=
  (distinctKeys at_).foldl (fun acc k =>
    let ls := (at_.filter fun e => e.2 = k).map fun e => e.1
    let r := atomCombine op (acc.1.readMem k 4) (ls.map vc)
    (acc.1.writeMem k (bytesOf 4 r.2), acc.2 ++ ls.zip r.1)) (s, [])

/-- Operand v and compare value c of a lane (R249): `level` for ATOMS and ATOMC. -/
def Ctx.atomVals (x : Ctx) (level : Bool) (op : AtomicOp) (d b : Operand) (l : Nat) : Nat × Nat :=
  (x.val false (if level && op ≠ .cas then d else b) l, x.val false d l)

/-- The read-modify-writes of an atomic instruction, one for each key, from its lanes' keys and operands (R238, R251). -/
def Ctx.atomUnits (x : Ctx) (op : AtomicOp) (d : Operand) (at_ : List (Nat × Nat)) (vc : Nat → Nat × Nat) (home : Nat → Option Home) :
    List AtomUnit :=
  (distinctKeys at_).map fun k =>
    let ls := (at_.filter fun e => e.2 = k).map fun e => e.1
    { lane := ls.headD 0, key := k, op, items := ls.map fun l => ((vc l).1, (vc l).2, x.lateDests .n32 d l), home := home (ls.headD 0) }

/-- The read-modify-writes of an instruction that has just issued: those that may be are performed, unless the step delays them, those
that `at_once` names whatever their lines' state; the others ask their homes (R230, R398). -/
def State.startAtoms (s : State) (g : Group) (fid : Nat) (atOnce : AtomUnit → Bool) : State :=
  ((s.group? g.id).bind fun g => g.flight? fid).elim s fun f => f.atoms.foldl (fun s u =>
    if atOnce u || (!inMask s.loose.delay u.lane && s.homeReady g u.asked u.home) then s.performAtom g f u else s.askAtom g fid u) s

/-- An atomic with results joins the outstanding instructions with its read-modify-writes, and starts them. -/
def Ctx.atomIssue (x : Ctx) (s : State) (d : Operand) (lanes : List Nat) (units : List AtomUnit) (bad : Option Trap) (lines : List Nat)
    (atOnce : AtomUnit → Bool) : Res :=
  if acts x.i x.c then
    let fid := s.nextFlight x.g.id
    .done ((s.modGroup x.g.id fun g => (x.attached g).addFlight
      { x.flight x.c.flag (.results [] (x.outOn lanes d fun _ => [0]).push none) with fault := bad, lines, atoms := units }).startAtoms
        x.g fid atOnce)
  else .done (s.modGroup x.g.id x.attached)

/-- An atomic at a level address (R249, R252). -/
def Ctx.atomLevel (x : Ctx) (lv : Level4) (op : AtomicOp) (d a b : Operand) : Res :=
  let lanes := x.lanesFor d
  match x.levelFault lv lanes (x.levelAddr a b) 4 (isScalar d) with
  | some t => .fault t
  | none =>
    let at_ := lanes.filterMap fun l => match x.s.reach x.g lv l (x.levelAddr a b l) 4 with
      | .key k => some (l, k)
      | _ => none
    x.inOrder x.s (at_.map fun e => (e.2, 4)) false fun s _ =>
      x.atomIssue s d lanes (x.atomUnits op d at_ (x.atomVals true op d b) fun _ => none) none [] fun _ => false

/-- The lanes of an access to this package's memory, with their keys. -/
def grantKeys (gs : List (Nat × Grant)) : List (Nat × Nat) :=
  gs.filterMap fun e => match e.2.place with
    | .cell k _ => some (e.1, k)
    | _ => none

/-- One read-modify-write at another package: its requests go out under one tag (R238, R407). -/
def State.askAway (s : State) (g : Group) (fid : Nat) (lanes : List Nat) (r : Request) (u : AtomUnit) : AtomUnit × State :=
  match atomPayloads u.op (u.items.map fun i => (i.1, i.2.1)) with
  | [] => (u, s)
  | p :: ps =>
    let t := s.ask g fid (maskOf lanes) r 4 0 p false
    ({ u with asked := some t.1 },
      ps.foldl (fun s p => s.sendFabric r.pkg (r.packet g 4 0 p t.1) (some (g.id, fid)) r.rims) t.2)

/-- The read-modify-writes of an instruction's lanes at other packages, one for each address, with their requests. -/
def Ctx.farUnits (x : Ctx) (s : State) (op : AtomicOp) (d : Operand) (fid : Nat) (rs : List Request) (vc : Nat → Nat × Nat) :
    List AtomUnit × State :=
  let key (r : Request) : Nat := Space.key (.far r.pkg) r.addr
  (x.atomUnits op d (rs.map fun r => (r.lane, key r)) vc fun _ => none).foldl (fun acc u =>
    match rs.filter fun r => key r = u.key with
    | [] => acc
    | r :: t =>
      let a := acc.2.askAway x.g fid (r.lane :: t.map fun r => r.lane) r u
      (acc.1 ++ [a.1], a.2)) ([], s)

/-- A global atomic whose lanes have their addresses (R251, R252, R407): its region is hardened, its read-modify-writes of this package
and of others are formed, and what cannot be reached is denied. `f` makes the instruction of them. -/
def Ctx.atomGranted (x : Ctx) (s : State) (op : AtomicOp) (d : Operand) (gs : List (Nat × Grant)) (ea : Nat → DWord)
    (vc : Nat → Nat × Nat) (f : State → List Nat → List AtomUnit → (AtomUnit → Bool) → Res) : Res :=
  let s := if acts x.i x.c then s.harden x.g.id x.p.id 2 else s
  x.inOrder s (grantCells gs 4) false fun s _ =>
    let fid := s.nextFlight x.g.id
    let rs := s.requests gs ea
    let out := rs.filter s.reachable
    let lost := (rs.filter fun r => !s.reachable r).map fun r => (r.lane, remoteDenial)
    let far := x.farUnits s op d fid out vc
    let near := x.atomUnits op d (grantKeys gs) vc fun l => (grantOf gs l).bind Grant.home?
    let tagged (u : AtomUnit) : Bool := (grantOf gs u.lane).elim false fun gr => gr.tagged && gr.home?.isSome
    let s := far.2.fetchLines x.g.die true (gs.filter fun e => e.2.tagged)
    let s := if lost.isEmpty then s else s.modGroup x.g.id fun g => g.addDenied fid x.issueMask x.i.path ea lost
    let lanes := (gs.map fun e => e.1).filter fun l => !(lost.any fun e => e.1 = l)
    f s.bump lanes (near ++ far.1) tagged

/-- ATOMS (R249–R252). -/
def execAtoms (o : AtomicOp) (d a b : Operand) (s : State) : Host.Outcome State Fault Refusal :=
  issue (.atoms o d a b) s fun x => x.atomLevel .scratch o d a b

/-- ATOMC (R249–R252). -/
def execAtomc (o : AtomicOp) (d a b : Operand) (s : State) : Host.Outcome State Fault Refusal :=
  issue (.atomc o d a b) s fun x => x.atomLevel .cluster o d a b

/-- ATOMG (R249–R252). -/
def execAtomg (o : AtomicOp) (d a b : Operand) (s : State) : Host.Outcome State Fault Refusal :=
  issue (.atomg o d a b) s fun x =>
    let ea (l : Nat) : DWord := x.src64 a l
    match x.lanes x.s (x.lanesFor d) ea 4 4 { r := true, w := true } true (isScalar d) with
    | .error e => stopRes e
    | .ok (s, gs) =>
      x.atomGranted s o d gs ea (x.atomVals false o d b) fun s lanes units tagged =>
        x.atomIssue s d lanes units (s.poisonOf gs 4) (linesOf gs) tagged

/-- The atomic op of a REDG (R249). -/
def redAtomic : RedOp → AtomicOp
  | .add => .add | .mini => .mini | .maxi => .maxi | .minn => .minn | .maxn => .maxn | .and => .and | .or => .or | .xor => .xor
  | .faddF32 => .faddF32 | .faddBf16x2 => .faddBf16x2 | .inc => .inc

/-- REDG (R249–R252). -/
def execRedg (o : RedOp) (d a : Operand) (s : State) : Host.Outcome State Fault Refusal :=
  issue (.redg o d a) s fun x =>
    let ea (l : Nat) : DWord := x.src64 a l
    match x.lanes x.s x.activeLanes ea 4 4 { r := true, w := true } true false with
    | .error e => stopRes e
    | .ok (s, gs) =>
      x.atomGranted s (redAtomic o) .zero gs ea (fun l => (x.val false d l, 0)) fun s _ units tagged =>
        let fid := s.nextFlight x.g.id
        let s := (s.poisonOf gs 4).elim s fun t => s.fatal x.g x.p t false
        match x.counted s .performed [] (linesOf gs) with
        | .done s => .done ((s.modGroup x.g.id fun g => g.modFlight fid fun f => { f with atoms := units }).startAtoms x.g fid tagged)
        | r => r

end Sys2Proof.Machine
end

