-- ==== Sys2Proof/Machine/Engine.lean ====
section
/-! DEFINITION. Queue ports, the copy engine, gather and scatter (R260–R276, R453). -/

namespace Sys2Proof.Machine

open Sys2Proof

/-! ### Ports (R260, R263–R266, R453) -/

/-- The port of a group bound to a code. -/
def Group.portOf (g : Group) (e : EnginePort) : Option Nat := g.ports.findIdx? fun p => p.code = some e

/-- An engine's push: it waits (`none`) while the port is full; it is discarded when nothing can pop it or the port has been
drained since the instruction issued (R265, R266, R453). -/
def Group.enginePush (g : Group) (code : EnginePort) (fid : Nat) (e : Entry) : Option Group :=
  match g.portOf code with
  | none => some (g.notePopped e)
  | some n =>
    if g.empty || decide (fid < (g.ports.getD n {}).drain) then some (g.notePopped e)
    else if g.portFull n then none
    else some (g.pushPort n e)

/-- The code that an outstanding instruction pushes to. -/
def Work.pushes (w : Work) : Option EnginePort :=
  match w with
  | .gather _ _ => some .gather
  | .matrix j => if j.kind = 5 then some .mrow else none
  | .mrow _ => some .mrow
  | .march .. => some .msample
  | _ => none

/-- An instruction issued before a number still has entries to push to a code, or a ray to report (R265). -/
def Group.pushing (g : Group) (code : Option EnginePort) (n : Nat) : Bool :=
  g.flights.any (fun f => decide (f.id < n) && !f.done && f.work.pushes.isSome && f.work.pushes = code) ||
  ((code = some .rayhit || code = some .rayisect) && g.rays.any fun r => decide (r.issue < n))

/-- The partial batch of a ray port is lost with its entries. -/
def Group.flushBatch (g : Group) (code : Option EnginePort) : Group :=
  if code = some .rayhit then { g with hitBatch := {} }
  else if code = some .rayisect then { g with isectBatch := {} }
  else g

def queueFault (c : Cause) (n : Nat) : Trap := { cause := c, tval := BitVec.ofNat 32 n }

/-- The port a QCTL or QBIND field names. -/
def portNum (o : Operand) : Nat :=
  match o with
  | .q n => n.val
  | _ => 0

/-- QBIND (R264). -/
def execQbind (d : Operand) (ep : EnginePort) (s : State) : Host.Outcome State Fault Refusal :=
  issue (.qbind d ep) s fun x =>
    let n := portNum d
    if (x.g.ports.getD n {}).code.isSome || (x.g.portOf ep).isSome then .fault (queueFault .queueMisuse n)
    else .done (x.mod fun g => { g with ports := setAt g.ports n { code := some ep } })

/-- QDRAIN's discard and hold, and what follows once nothing pushes any more (R265). -/
def Ctx.drain (x : Ctx) (n : Nat) (after : Group → Group) : Res :=
  let p := x.g.ports.getD n {}
  if p.code.isNone then .fault (queueFault .queueUnbound n)
  else
    let first := x.p.hold ≠ .drain
    let s := if first then x.mod fun g =>
        let g := (g.flushPort n).flushBatch p.code
        { g with ports := modAt g.ports n fun q => { q with drain := g.nextFlight } } else x.s
    if !x.g.pushing p.code (if first then x.g.nextFlight else p.drain) then .done (s.modGroup x.g.id after)
    else match x.g.engineFaultFor x.p with
      | some e => .moved (s.raiseEngine x.g.id x.p.id e)
      | none => .held .drain s

/-- QUNBIND (R265). -/
def execQunbind (d : Operand) (s : State) : Host.Outcome State Fault Refusal :=
  issue (.qunbind d) s fun x => x.drain (portNum d) fun g => { g with ports := setAt g.ports (portNum d) {} }

/-- QDRAIN (R265). -/
def execQdrain (d : Operand) (s : State) : Host.Outcome State Fault Refusal :=
  issue (.qdrain d) s fun x => x.drain (portNum d) fun g => g

/-- QCOUNT (R265). -/
def execQcount (d a : Operand) (s : State) : Host.Outcome State Fault Refusal :=
  issue (.qcount d a) s fun x =>
    let p := x.g.ports.getD (portNum a) {}
    if p.code.isNone then .fault (queueFault .queueUnbound (portNum a))
    else x.write (x.outOn [x.scalarLane] d fun _ => wordsOf false p.entries.length)

/-! ### Engine faults (R268) -/

/-- The index that PIDX reads for a fault of an instruction (R269, R379). -/
def Flight.index (f : Flight) : Word := if f.long then BitVec.ofNat 32 f.progress else 0xFFFFFFFF

/-- An engine stops an instruction at a unit boundary (R268): the fault waits for its receiving split, is fatal when every lane of
the issuing mask has exited, and freezes the unit when a hardware access met it (R351). -/
def State.stopFlight (s : State) (g : Group) (f : Flight) (t : Trap) : State :=
  match t.freezes with
  | some d => s.freezeMaster d .control
  | none =>
    let s := s.discardStale t
    if t.cause.cls = .f || g.allExited f.mask then (s.fatalFor g f.mask t).modGroup g.id fun g => g.completeFlight f.id
    else s.modGroup g.id fun g =>
      { g.modFlight f.id (fun f => { f with stopped := true }) with
        efaults := g.efaults ++ [{ issue := f.id, mask := f.mask, path := f.path.elim 0 Path.code,
                                   trap := { t with flight := some f.id, index := f.index } }] }

/-- A fault that stops nothing: another package has denied a unit of an instruction, which is not retried (R407). -/
def State.noteFault (s : State) (g : Group) (f : Flight) (t : Trap) : State :=
  if g.allExited f.mask then s.fatalFor g f.mask t
  else s.modGroup g.id fun g =>
    { g with efaults := g.efaults ++ [{ issue := f.id, mask := f.mask, path := f.path.elim 0 Path.code,
                                        trap := { t with index := f.index } }] }

/-- An engine's access: the control space is not for it (log 52). -/
def Group.engine (g : Group) : Agent := { ctx := g.ctx, die := g.die }

/-- An engine's request to another package. -/
def engineRequest (s : State) (gr : Grant) (pkg a ea : Nat) : Request :=
  { lane := 0, pkg, addr := a, rims := s.rimsOf gr.pa, ea := BitVec.ofNat 64 ea, tagged := gr.tagged }

/-- What another package answers an engine's request, when it denies it (R407). -/
def engineDenied (s : State) (r : Request) : Option Trap :=
  (deniedLanes s [r]).head?.map fun d => { d.2 with denied := true, taddr := some r.ea }

/-- The bytes that an engine reads at a key: for an outstanding instruction as its path sees them (R236), otherwise as the die does. -/
def State.engineSees (s : State) (g : Group) (f : Option Flight) (k n : Nat) : List Byte :=
  match f with
  | some f => s.seenBytes g f.lanes f.path k n
  | none => (List.range n).map fun i => s.dieByte g.die (k + i)

/-- An engine's check of a global address: the fault carries the address (R268). -/
def engineAccess (s : State) (g : Group) (ea n : Nat) (need : Need) : Except Stop (State × Grant) :=
  match access s g.engine ea n 1 need true with
  | .error e => .error (e.map fun t => { t with taddr := some (BitVec.ofNat 64 ea) })
  | .ok r => .ok r

/-- An engine access to global memory on behalf of a group: read permission and tags (R221, R271). That of an `update`, whose write follows
in the same step, reads the home's bytes and not an older copy. -/
def engineRead (s : State) (g : Group) (ea n : Nat) (need : Need := { r := true }) (f : Option Flight := none) (update : Bool := false) :
    Except Stop (State × List Byte) :=
  match engineAccess s g ea n need with
  | .error e => .error e
  | .ok (s, gr) =>
    match gr.place with
    | .cell k _ =>
      let s := if gr.tagged || gr.coh ≠ 0 || gr.repl || update then s.passCaches g k else s
      (s.sectorTrap? k n gr.pa).elim (.ok (s.fetchLines g.die false [(0, gr)], s.engineSees g f k n)) fun t => .error (some t)
    | .remote p a =>
      let r := engineRequest s gr p a ea
      match engineDenied s r with
      | some t => .error (some t)
      | none =>
        .ok (s.bump.sendRequests g [r] 1 0 fun _ => [],
          (List.range n).map fun i => BitVec.ofNat 8 ((Config.remoteWord s.tick 0 (i / 4)).toNat / 2 ^ (8 * (i % 4))))
    | _ => .ok (s, [])

/-- An engine's write of bytes at a key and its copies is one event (R228, R272): reads of them that are not fixed are fixed, and
their lines leave the L1s. -/
def State.engineStore (s : State) (g : Group) (f : Option Flight) (k : Nat) (copies : List Nat) (bs : List Byte) : State :=
  let s := (s.fixOver k bs.length).dropLines fun e => overlap (e.line * 128) 128 k bs.length
  let s := match f with
    | some f => s.writeEvent g f.lanes f.id f.path k bs
    | none => s.putBytes g k bs
  s.writeKeys copies bs

/-- An engine's write of a line that its home alone writes goes there as WR, and stays with its instruction until it is performed (R393,
R396). -/
def State.engineWr (s : State) (g : Group) (f : Flight) (k : Nat) (h : Home) (bs : List Byte) : State :=
  let w : LaneWrite := { lane := 0, key := k, bytes := bs, home := some h }
  (s.modGroup g.id fun g => g.modFlight f.id fun e =>
    { e with writes := e.writes ++ [w], lines := e.lines ++ (if h.repl then [lineOf h.pa] else []) }).askWrite g f.id w

/-- An engine write to global memory, for an outstanding instruction when it has one: a request to another package, and an ownership
that is asked for, hold its completion (R226, R239). The bytes of a line that is asked for are placed at once, as those of an `update`
are, a read-modify-write of what has just been read (log 6). -/
def engineWrite (s : State) (g : Group) (f : Option Flight) (ea : Nat) (bs : List Byte) (need : Need := { w := true })
    (update : Bool := false) : Except Stop State :=
  match engineAccess s g ea bs.length need with
  | .error e => .error e
  | .ok (s, gr) =>
    match gr.place with
    | .cell k home =>
      let h : Home := gr.home?.getD { die := home, pa := gr.pa }
      if s.lineBlocked g.die gr.pa then .error none
      else match f with
        | some f =>
          if h.away g.die && !gr.tagged && !update then .ok (s.engineWr g f k h bs)
          else .ok (((s.fetchLines g.die true [(0, gr)]).engineStore g (some f) k gr.copies bs).modGroup g.id fun g =>
            g.modFlight f.id fun e => { e with lines := e.lines ++ linesOf [(0, gr)] })
        | none => .ok ((s.fetchLines g.die true [(0, gr)]).engineStore g none k gr.copies bs)
    | .remote p a =>
      let r := engineRequest s gr p a ea
      match engineDenied s r with
      | some t => .error (some t)
      | none => .ok (s.bump.sendRequests g [r] 3 0 (fun _ => bs) (f.map fun f => (g.id, f.id)))
    | _ => .ok s

/-! ### Copies (R269–R273) -/

def CopyDesc.len (d : CopyDesc) : Nat := if d.kind = 1 then (bits d.ctl 13 8 + 1) * 16 else bits d.ctl 0 25
def CopyDesc.rows (d : CopyDesc) : Nat := if d.kind = 1 then bits d.ctl 21 8 + 1 else 1
def CopyDesc.gstride (d : CopyDesc) : Nat := bits d.ctl 0 13 * 16
def CopyDesc.toGlobal (d : CopyDesc) : Bool := d.kind ≠ 2 && bit d.ctl 29
def CopyDesc.level (d : CopyDesc) : Nat := bits d.ctl 30 2
/-- The cluster positions, relative to the group's, that a CPYM names. -/
def CopyDesc.targets (d : CopyDesc) : List Nat := setBits 4 (bits d.ctl 28 4)

/-- The pieces of a copy (R271): global address, local address, bytes. -/
def CopyDesc.pieces (d : CopyDesc) : List (Nat × Nat × Nat) :=
  (List.range d.rows).map fun r => ((d.gaddr + r * d.gstride) % 2 ^ 64, d.laddr + r * d.len, d.len)

/-- Unit `n` of a list of pieces: each piece is cut at 32-byte sectors of its destination (R269). -/
def unitAt (toGlobal : Bool) (ps : List (Nat × Nat × Nat)) (n : Nat) : Option (Nat × Nat × Nat) :=
  match ps with
  | [] => none
  | (g, l, len) :: t =>
    let skew := (if toGlobal then g else l) % 32
    let count := if len = 0 then 0 else ceilDiv (skew + len) 32
    if n < count then
      let off := 32 * n - skew
      some ((g + off) % 2 ^ 64, l + off, min len (32 * (n + 1) - skew) - off)
    else unitAt toGlobal t (n - count)

/-- The level of a copy's local address. -/
def CopyDesc.level4 (d : CopyDesc) : Level4 := if d.level = 1 then .cluster else if d.level = 2 then .die else .scratch

/-- The local places of a range of a copy (R203, R271): one, or one for every target of a CPYM. -/
def CopyDesc.locals (d : CopyDesc) (s : State) (g : Group) (l n : Nat) : List Reach :=
  if d.kind = 2 then
    d.targets.map fun j =>
      if j ≠ 0 && !(s.recordOf g).cluster then .bad .cluBounds
      else if s.scratchSize g < l + n then .bad .scrBounds
      else match (if j = 0 then some g.wg else s.clusterPeer g ((g.core + j) % 4)) with
        | some w => .key (Space.key (.scratch w) l)
        | none => .bad .cluBounds
  else [s.reach g d.level4 0 l n]

/-- The descriptor's own rules (R271, check 2). -/
def CopyDesc.bad (d : CopyDesc) : Bool :=
  if d.kind = 0 then d.level = 3 || bits d.ctl 25 4 ≠ 0
  else if d.kind = 1 then d.level = 3 || (d.toGlobal && decide (1 < d.rows) && decide (d.gstride < d.len))
  else bits d.ctl 28 4 = 0 || bits d.ctl 25 3 ≠ 0

/-- The checks of R271 after the word's own. -/
def CopyDesc.check (d : CopyDesc) (s : State) (g : Group) : Option Trap :=
  let total := d.rows * d.len
  if d.bad then some (trap .illegalOperand)
  else if d.gaddr % 16 ≠ 0 then some { trap .align with taddr := some (BitVec.ofNat 64 d.gaddr) }
  else if d.laddr % 16 ≠ 0 || d.len % 16 ≠ 0 then some { trap .align with taddr := some (BitVec.ofNat 64 d.laddr) }
  else if !canonical d.gaddr then some { trap .canonical with taddr := some (BitVec.ofNat 64 d.gaddr) }
  else
    let far := d.kind = 2 && !(s.recordOf g).cluster && d.targets.any fun j => j ≠ 0
    if far then some (trap .cluBounds)
    else if total = 0 then none
    else (d.locals s g d.laddr total).findSome? fun r => match r with
      | .bad c => some (trap c)
      | _ => none

/-- The descriptor in four scalars (R270). -/
def Ctx.copyDesc (x : Ctx) (kind : Nat) (a : Operand) : CopyDesc :=
  { kind, gaddr := (x.src64 a x.firstLane).toNat, laddr := (x.nth a 2 x.firstLane).toNat, ctl := (x.nth a 3 x.firstLane).toNat }

/-- A copy that touches no byte is performed as it issues. -/
def CopyDesc.work (d : CopyDesc) : Work := if d.len = 0 then .performed else .copy d

/-- The copy instructions (R271). -/
def Ctx.copy (x : Ctx) (kind : Nat) (a : Operand) : Res :=
  if !x.anyActive then .done x.s
  else
    let d := x.copyDesc kind a
    match d.check x.s x.g with
    | some t => .fault { t with tval := 1, byLanes := true }
    | none => x.counted (x.s.harden x.g.id x.p.id 3) d.work

/-- CPYL (R271). -/
def execCpyl (a : Operand) (s : State) : Host.Outcome State Fault Refusal := issue (.cpyl a) s fun x => x.copy 0 a

/-- CPYT (R271). -/
def execCpyt (a : Operand) (s : State) : Host.Outcome State Fault Refusal := issue (.cpyt a) s fun x => x.copy 1 a

/-- CPYM (R271). -/
def execCpym (a : Operand) (s : State) : Host.Outcome State Fault Refusal := issue (.cpym a) s fun x => x.copy 2 a

/-- Read the global bytes of a unit, 16 at a time, since a unit may span two pages. -/
def copyRead (s : State) (g : Group) (f : Flight) (ea n : Nat) : Except Stop (State × List Byte) :=
  match engineRead s g ea (min n 16) { r := true } (some f) with
  | .error e => .error e
  | .ok (s, a) =>
    if n ≤ 16 then .ok (s, a)
    else match engineRead s g ((ea + 16) % 2 ^ 64) (n - 16) { r := true } (some f) with
      | .error e => .error e
      | .ok (s, b) => .ok (s, a ++ b)

/-- Perform one unit of a copy as one write event (R272). -/
def copyUnit (s : State) (g : Group) (f : Flight) (d : CopyDesc) (u : Nat × Nat × Nat) : Except Stop State :=
  let places := d.locals s g u.2.1 u.2.2
  if d.toGlobal then
    let bs := match places with
      | .key k :: _ => s.engineSees g (some f) k u.2.2
      | _ => List.replicate u.2.2 0
    engineWrite s g (some f) u.1 bs
  else match copyRead s g f u.1 u.2.2 with
    | .error e => .error e
    | .ok (s, bs) => .ok (places.foldl (fun s r => match r with
        | .key k => s.engineStore g (some f) k [] bs
        | _ => s) s)

/-- An earlier copy of a split from which a copy's split descends: some lane was in both (R235, R272). A complete command that its engine has
not taken is one (R273). -/
def Group.copyBefore (g : Group) (f : Flight) : Bool :=
  g.flights.any (fun e => decide (e.id < f.id) && (e.lanes &&& f.lanes) ≠ 0 && !e.done && (match e.work with
    | .copy _ => true
    | _ => false)) ||
  g.ports.any fun p => p.code = some .cpycmd && p.entries.any fun e => e.note ≠ 0 && decide (e.note ≤ f.id) && e.issue &&& f.lanes ≠ 0

/-- Copies that can go on: of each split and those it descends from, the oldest one (R235, R272). -/
def State.copies (s : State) : List (Group × Flight × CopyDesc) :=
  s.groups.flatMap fun g =>
    if !s.engineLive g .cpy then []
    else g.flights.filterMap fun f => match f.work with
      | .copy d =>
        if f.stopped || f.done || g.copyBefore f then none else some (g, f, d)
      | _ => none

/-- The element of a list that an event takes. -/
def State.pick {α : Type} (s : State) (l : List α) : Option α := if l.isEmpty then none else l[s.chosen % l.length]?

/-- The next unit of a long instruction is done; after the last one nothing remains but its completion on its path (R18, R226). -/
def State.unitDone (s : State) (g : Group) (f : Flight) (last : Bool) : State :=
  s.modGroup g.id fun g => g.modFlight f.id fun f =>
    { f with progress := f.progress + 1, unitAt := s.cycle, work := if last then .performed else f.work }

/-- A unit that another package denies is dropped, and its instruction goes on (R407). -/
def State.unitDenied (s : State) (g : Group) (f : Flight) (t : Trap) (last : Bool) : State :=
  (s.noteFault g f t).bump.unitDone g f last

/-- COPY_UNIT (R269, R272). The units of one copy are performed in the order of their indices, which the spec leaves open (log 67). -/
def execCopyUnit (s : State) : Host.Outcome State Fault Refusal :=
  match s.pick s.copies with
  | none => .next s
  | some (g, f, d) =>
    match unitAt d.toGlobal d.pieces f.progress with
    | none => .next (s.modGroup g.id fun g => g.modFlight f.id fun f => { f with work := .performed })
    | some u =>
      match copyUnit s g f d u with
      | .ok s' => .next (s'.unitDone g f (unitAt d.toGlobal d.pieces (f.progress + 1)).isNone)
      | .error _ => .next s

/-- A fault that waits for a split, every lane of whose issuing mask has exited (R268). -/
def State.orphan? (s : State) : Option (Group × EngineFault) :=
  s.groups.findSome? fun g => (g.efaults.find? fun e => g.allExited e.mask).map fun e => (g, e)

/-- ENGINE_FAULT (R268): the next unit of a copy faults, or nobody is left to take a fault found earlier. -/
def execEngineFault (s : State) : Host.Outcome State Fault Refusal :=
  match s.orphan? with
  | some (g, e) =>
    let s := s.fatalFor g e.mask (engineTrap e)
    .next (s.modGroup g.id fun g => { g with efaults := removeFirst g.efaults e })
  | none =>
    match s.pick s.copies with
    | none => .next s
    | some (g, f, d) =>
      match unitAt d.toGlobal d.pieces f.progress with
      | none => .next s
      | some u =>
        match copyUnit s g f d u with
        | .error (some t) =>
          if t.denied then .next (s.unitDenied g f t (unitAt d.toGlobal d.pieces (f.progress + 1)).isNone)
          else .next (s.stopFlight g f t)
        | _ => .next s

/-! ### CPYCMD (R273) -/

/-- The word of a command entry: W[k], k the lowest set bit of the mask. -/
def Entry.word (e : Entry) : Word := e.words.getD (lowestLane e.mask) 0

/-- Groups whose CPYCMD port holds a word that the engine can take. -/
def State.commands (s : State) : List (Group × Nat × Entry) :=
  s.groups.filterMap fun g =>
    if !s.engineLive g .cpy || g.empty then none
    else (g.portOf .cpycmd).bind fun n => ((g.ports.getD n {}).entries.head?).bind fun e =>
      if e.note = 0 || s.releasedFor g (e.issue ||| (g.split? e.split).elim 0 fun p => p.mask) true then some (g, n, e) else none

/-- A complete command becomes a copy of the split that pushed its last word, with the number it took then. -/
def State.runCommand (s : State) (g : Group) (e : Entry) (ws : List Word) : State :=
  let w (k : Nat) : Word := ws.getD k 0
  let h := (w 0).toNat
  let d : CopyDesc := { kind := h % 4, gaddr := (join64 (w 1) (w 2)).toNat, laddr := (w 3).toNat, ctl := (w 4).toNat }
  let mask := if e.issue = 0 then (g.split? e.split).elim 0 fun p => p.mask else e.issue
  let bad := if 3 ≤ h then some (trap .illegalOperand) else d.check s g
  let lanes := mask ||| (g.split? e.split).elim 0 fun p => p.mask
  let f : Flight := { id := e.note - 1, split := e.split, mask, lanes, flag := none, path := some .cpy, long := true,
                      unitAt := s.cycle, work := d.work }
  match bad with
  | some t =>
    if g.allExited mask then s.fatalFor g mask t
    else s.modGroup g.id fun g =>
      { g with efaults := g.efaults ++ [{ issue := f.id, mask, path := Path.code .cpy, trap := t }] }
  | none => (s.harden g.id e.split 3).modGroup g.id fun g =>
    { g with flights := g.flights.takeWhile (fun o => decide (o.id < f.id)) ++ [f] ++ g.flights.dropWhile fun o => decide (o.id < f.id) }

/-- CPYCMD_COMMAND (R273): the copy engine takes a word; the fifth one makes a copy. -/
def execCpycmdCommand (s : State) : Host.Outcome State Fault Refusal :=
  match s.pick s.commands with
  | none => .next s
  | some (g, n, e) =>
    let ws := (g.ports.getD n {}).partialCmd ++ [e.word]
    let full := decide (5 ≤ ws.length)
    let s := s.modGroup g.id fun g =>
      { g.popPort n with ports := modAt (g.popPort n).ports n fun p => { p with partialCmd := if full then [] else ws } }
    .next (if full then s.runCommand ((s.group? g.id).getD g) e ws else s)

/-! ### Gather and scatter (R274–R276) -/

/-- The width of an element descriptor. -/
def elemWidth (n : Nat) : Option LWidth :=
  match n with
  | 0 => some .n8
  | 1 => some .i8
  | 2 => some .n16
  | 3 => some .i16
  | 4 => some .n32
  | _ => none

/-- Reserved bits of an element descriptor (R274). WIDTH 5–7 is refused like a reserved bit: R275 and R276 name no fault for it (log 68). -/
def badElem (d : Nat) : Bool := bits d 13 3 ≠ 0 || bits d 3 5 ≠ 0 || (elemWidth (d % 8)).isNone

/-- GATH's elements: lane and index, lanes ascending. -/
def gatherItems (lanes : List Nat) (count : Nat) : List (Nat × Nat) :=
  lanes.flatMap fun l => (List.range count).map fun k => (l, k)

/-- The first element of a lane that another package denies, with its fault (R407). -/
def deniedItem (s : State) (gs : List ((Nat × Nat) × Grant)) (l : Nat) : Option (Nat × Trap) :=
  gs.findSome? fun e => if e.1.1 ≠ l then none else
    ((deniedLanes s (s.requests [(l, e.2)] fun _ => 0)).head?).map fun d => (e.1.2, d.2)

/-- GATH after its checks: the entries it will push, as they stand when it issues (R275). What a denied element's word holds is
free, as every word of another package's memory is (log 10). -/
def Ctx.gathered (x : Ctx) (s : State) (d : GatherDesc) (ea : Nat × Nat → DWord) (gs : List ((Nat × Nat) × Grant)) : Res :=
  let n := loadBytes d.width
  let by' := gs.map fun e => (e.1.1, e.2)
  let denied := x.activeLanes.filterMap fun l => (deniedItem s gs l).map fun e => (l, e.2)
  let unit (l : Nat) : Nat := (deniedItem s gs l).elim 0 fun e => e.1
  x.inOrder (s.harden x.g.id x.p.id 3) (grantCells by' n) true fun s g =>
  let val (k l : Nat) : Word :=
    (gs.find? fun e => e.1 = (l, k)).elim 0 fun e => (loadWords d.width (s.readGrant g x.p x.i.path l e.2 n)).headD 0
  let es := (List.range d.count).map fun k => ({ words := (List.range 32).map (val k), mask := x.active } : Entry)
  let s' := by'.foldl (fun s e => if e.2.tagged then s.noteLine x.g e.2 else s) (s.fetchLines x.g.die false by')
  let s' := (s'.sendRequests x.g (granted (s.requests by' fun l => ea (l, 0)) denied) 1 0 (fun _ => []) (some (x.g.id, s.nextFlight x.g.id))).bump
  let s' := if denied.isEmpty then s' else
    s'.modGroup x.g.id fun g => g.addDenied g.nextFlight x.issueMask x.i.path (fun l => ea (l, unit l)) denied
      fun l => BitVec.ofNat 32 (unit l)
  x.counted s' (.gather es d) [] [] (s.poisonOf by' n)

/-- GATH (R275). -/
def execGath (a b : Operand) (s : State) : Host.Outcome State Fault Refusal :=
  issue (.gath a b) s fun x =>
    let d := (x.src b x.firstLane).toNat
    if !x.anyActive then .done x.s
    else if (x.g.portOf .gather).isNone then .fault (queueFault .queueUnbound 0)
    else match (if badElem d then none else elemWidth (d % 8)) with
      | none => .fault { trap .illegalOperand with tval := x.active, byLanes := true }
      | some w =>
        let count := bits d 8 5 + 1
        let ea (i : Nat × Nat) : DWord := x.src64 a i.1 + BitVec.ofNat 64 (i.2 * bits d 16 16)
        let gd : GatherDesc := { bases := x.activeLanes.map fun l => (l, x.src64 a l), width := w, count, stride := bits d 16 16 }
        match eachItem x.s (gatherItems x.activeLanes count) (fun i => i.1) ea false fun s i =>
            access s x.g.agent (ea i).toNat (loadBytes w) (loadBytes w) { r := true } with
        | .error e => stopRes e
        | .ok (s, gs) => x.gathered s gd ea gs

/-- The oldest GATH of each group, unless it is stopped. -/
def State.gathers (s : State) : List (Group × Flight × List Entry × GatherDesc) :=
  s.groups.filterMap fun g =>
    if !s.engineLive g .gat then none
    else (g.flights.findSome? fun f => match f.work with
      | .gather es d => some (f, es, d)
      | _ => none).bind fun r => if r.1.stopped then none else some (g, r)

/-- Read the elements of entry `k` again (R269): a lane's word that another package denies is noted as its fault. -/
def gatherAgain (s : State) (g : Group) (f : Flight) (d : GatherDesc) (k : Nat) (lanes : List (Nat × DWord)) :
    Except Stop (State × List (Nat × Word)) :=
  match lanes with
  | [] => .ok (s, [])
  | (l, base) :: t =>
    match engineRead s g ((base.toNat + k * d.stride) % 2 ^ 64) (loadBytes d.width) { r := true } (some f) with
    | .error (some e) =>
      if !e.denied then .error (some e)
      else (gatherAgain (s.noteFault g f e).bump g f d k t).map fun r => (r.1, (l, Config.remoteWord s.tick l 0) :: r.2)
    | .error none => .error none
    | .ok (s, bs) => (gatherAgain s g f d k t).map fun r => (r.1, (l, (loadWords d.width (ofBytes bs)).headD 0) :: r.2)

/-- The next entry of a GATH: as read at issue, or read again after a stop (R269). -/
def gatherEntry (s : State) (g : Group) (f : Flight) (es : List Entry) (d : GatherDesc) : Except Stop (State × Entry) :=
  match es with
  | e :: _ => .ok (s, e)
  | [] => (gatherAgain s g f d f.progress d.bases).map fun r =>
    (r.1, { words := (List.range 32).map fun l => (r.2.find? fun e => e.1 = l).elim 0 fun e => e.2, mask := maskOf (d.bases.map (·.1)) })

/-- GATHER_PUSH (R275). -/
def execGatherPush (s : State) : Host.Outcome State Fault Refusal :=
  match s.pick s.gathers with
  | none => .next s
  | some (g, f, es, d) =>
    match f.fault with
    | some t => .next (s.stopFlight g f t)
    | none =>
      match gatherEntry s g f es d with
      | .error none => .next s
      | .error (some t) => .next (s.stopFlight g f t)
      | .ok (s', e) =>
        match ((s'.group? g.id).getD g).enginePush .gather f.id e with
        | none => .next s
        | some g' =>
          .next ((s'.modGroup g.id fun _ => g'.modFlight f.id fun f => { f with work := .gather (es.drop 1) d }).unitDone g f
            (decide (d.count ≤ f.progress + 1)))

/-- SCAT (R276). -/
def execScat (d a b : Operand) (s : State) : Host.Outcome State Fault Refusal :=
  issue (.scat d a b) s fun x =>
    let e := (x.src b x.firstLane).toNat
    let size := [1, 0, 2, 0, 4].getD (e % 8) 0
    if !x.anyActive then .done x.s
    else if badElem e || bits e 8 5 ≠ 0 || size = 0 then .fault { trap .illegalOperand with tval := x.active, byLanes := true }
    else
      let ea (l : Nat) : DWord := x.src64 a l
      match x.lanes x.s x.activeLanes ea size size { w := true } true false with
      | .error e => stopRes e
      | .ok (s, gs) => x.storeGranted (s.harden x.g.id x.p.id 3) gs ea fun l => bytesOf size (x.src d l).toNat

end Sys2Proof.Machine
end

