-- ==== Sys2Proof/Machine/FloatFn.lean ====
section
/-! DEFINITION. The functions of R112: square roots, reciprocals, exponential, logarithm, sine, cosine and hyperbolic tangent,
computed to 2^−380 or better and rounded once (R68–R70, R113–R115). -/

namespace Sys2Proof.Machine

open Sys2Proof

/-! ### Fixed point with 384 fraction bits -/

/-- Fraction bits of the fixed-point values below. -/
def fxBits : Nat := 384
def fxOne : Nat := 2 ^ 384

/-- floor(π × 2^512). -/
def piFix : Nat :=
  0x3243f6a8885a308d313198a2e03707344a4093822299f31d0082efa98ec4e6c89452821e638d01377be5466cf34e90c6cc0ac29b7c97c50dd3f84d5b5b5470917

/-- floor(ln 2 × 2^384). -/
def ln2Fix : Nat := 0xb17217f7d1cf79abc9e3b39803f2f6af40f343267298b62d8a0d175b8baafa2be7b876206debac98559552fb4afa1b10

/-- floor(log2 e × 2^384). -/
def log2eFix : Nat := 0x171547652b82fe1777d0ffda0d23a7d11d6aef551bad2b4b1164a2cd9a342648fbc3887eeaa2ed9ac49b25eeb82d7c167

/-- floor(√n), found bit by bit from bit `k` − 1 down. -/
def sqrtFrom (n k r : Nat) : Nat :=
  match k with
  | 0 => r
  | j + 1 => sqrtFrom n j (if (r + 2 ^ j) * (r + 2 ^ j) ≤ n then r + 2 ^ j else r)

def isqrt (n : Nat) : Nat := sqrtFrom n (Nat.log2 n / 2 + 1) 0

/-- e^t for 0 ≤ t < 1, by its series. -/
def expFix (t : Nat) : Nat :=
  ((List.range 90).foldl (fun (acc : Nat × Nat) k => (acc.1 + acc.2, acc.2 * t / fxOne / (k + 1))) (0, fxOne)).1

/-- The alternating series of sine (from t) or cosine (from 1): each term is the last times t²/((j+1)(j+2)). -/
def alternating (t first j : Nat) : Int :=
  ((List.range 50).foldl (fun (acc : Int × Nat × Bool) k =>
    (if acc.2.2 then acc.1 - acc.2.1 else acc.1 + acc.2.1,
     acc.2.1 * t / fxOne * t / fxOne / ((j + 2 * k + 1) * (j + 2 * k + 2)), !acc.2.2)) ((0 : Int), first, false)).1

/-- sin t and cos t for 0 ≤ t < 1. -/
def sinFix (t : Nat) : Nat := (alternating t t 1).toNat
def cosFix (t : Nat) : Nat := (alternating t fxOne 0).toNat

/-- ln m for 1 ≤ m < 2, as 2 artanh((m − 1)/(m + 1)). -/
def lnFix (m : Nat) : Nat :=
  let z := (m - fxOne) * fxOne / (m + fxOne)
  let z2 := z * z / fxOne
  2 * ((List.range 130).foldl (fun (acc : Nat × Nat) k => (acc.1 + acc.2 / (2 * k + 1), acc.2 * z2 / fxOne)) (0, z)).1

/-! ### Rounding a function's value (R68, R70, R113) -/

/-- The names by which the free choice of R68 is made. -/
inductive FnName where | rcp | rsq | exp2 | log2 | sin | cos
  deriving DecidableEq, Repr

def FnName.code : FnName → Nat
  | .rcp => 2 | .rsq => 3 | .exp2 => 5 | .log2 => 6 | .sin => 7 | .cos => 8

/-- Round to one of the two bracketing values; at the overflow boundary as RNE does (R68, R113). -/
def roundFn (fn : FnName) (a : Word) (neg : Bool) (num den : Nat) : Nat × FFlags :=
  let lo := (fp32.roundMag .rtz neg num den).1
  fp32.round (if lo = fp32.maxCode then .rne else .choose (Config.ulpChoice fn.code a)) neg num den

/-- The value of a code of FP32. -/
def f32 (a : Word) : FVal := fp32.decode a.toNat

/-- The canonical NaN, with NV for a signalling operand (R58). -/
def nanOf (sig : Bool) : Nat × FFlags := (fp32.nanCode, if sig then invalid else noFlags)
def infOf (neg : Bool) : Nat := fp32.signed neg fp32.infCode
def zeroOf (neg : Bool) : Nat := fp32.signed neg 0
def divZero : FFlags := { dz := true }
def oneCode : Nat := 0x3F800000

def fabsOf (a : Word) : Nat × FFlags :=
  match f32 a with
  | .nan s => nanOf s
  | _ => (a.toNat % 2 ^ 31, noFlags)

def fnegOf (a : Word) : Nat × FFlags :=
  match f32 a with
  | .nan s => nanOf s
  | _ => ((a ^^^ 0x80000000).toNat, noFlags)

def frcpOf (a : Word) : Nat × FFlags :=
  match f32 a with
  | .nan s => nanOf s
  | .inf n => (zeroOf n, noFlags)
  | .fin n m e =>
    if m = 0 then (infOf n, divZero)
    else
      let q := ratScale 1 m (-e)
      roundFn .rcp a n q.1 q.2

/-- √(m × 2^e) × 2^384, with a last bit that says whether the root is inexact. -/
def rootFix (m : Nat) (e : Int) : Nat :=
  let n := m * 2 ^ (e + 768).toNat
  let r := isqrt n
  if r * r = n then 2 * r else 2 * r + 1

def fsqrtOf (a : Word) : Nat × FFlags :=
  match f32 a with
  | .nan s => nanOf s
  | .inf n => if n then nanOf true else (infOf false, noFlags)
  | .fin n m e =>
    if m = 0 then (a.toNat, noFlags)
    else if n then nanOf true
    else fp32.round .rne false (rootFix m e) (2 * fxOne)

/-- 1/√(m × 2^e) × 2^384, with a last bit that says whether it is inexact. -/
def rsqFix (m : Nat) (e : Int) : Nat :=
  let n := 2 ^ (768 - e).toNat
  let r := isqrt (n / m)
  if r * r * m = n then 2 * r else 2 * r + 1

def frsqOf (a : Word) : Nat × FFlags :=
  match f32 a with
  | .nan s => nanOf s
  | .inf n => if n then nanOf true else (zeroOf false, noFlags)
  | .fin n m e =>
    if m = 0 then (infOf n, divZero)
    else if n then nanOf true
    else roundFn .rsq a false (rsqFix m e) (2 * fxOne)

/-- 2^(x / 2^384) as numerator and denominator, exact for an integer. -/
def exp2Rat (x : Int) : Nat × Nat :=
  let n := Int.fdiv x fxOne
  let f := (Int.fmod x fxOne).toNat
  ratScale (expFix (f * ln2Fix / fxOne)) fxOne n

def fexp2Of (a : Word) : Nat × FFlags :=
  match f32 a with
  | .nan s => nanOf s
  | .inf n => (if n then zeroOf false else infOf false, noFlags)
  | .fin n m e =>
    if m = 0 then (oneCode, noFlags)
    else
      let x : Int := finUnits (-384) (.fin n m e)
      let x := max (-((200 * fxOne : Nat) : Int)) (min x ((200 * fxOne : Nat) : Int))
      let q := exp2Rat x
      roundFn .exp2 a false q.1 q.2

def flog2Of (a : Word) : Nat × FFlags :=
  match f32 a with
  | .nan s => nanOf s
  | .inf n => if n then nanOf true else (infOf false, noFlags)
  | .fin n m e =>
    if m = 0 then (infOf true, divZero)
    else if n then nanOf true
    else
      let k := Nat.log2 m
      let l := lnFix (m * fxOne / 2 ^ k) * log2eFix / fxOne
      let v : Int := (e + k) * fxOne + l
      if v = 0 then (0, noFlags) else roundFn .log2 a (v < 0) v.natAbs fxOne

/-- The reduction of R69: n and y in units of 2^−384, for a nonnegative m × 2^e. -/
def reduce (m : Nat) (e : Int) : Nat × Int :=
  let x := m * 2 ^ (e + 513).toNat
  let n := (2 * x + piFix) / (2 * piFix)
  (n, Int.fdiv ((x : Int) - n * piFix) (2 ^ 129 : Nat))

/-- sin (quadrant 0) or cos (quadrant 1) of a nonnegative m × 2^e of at least 2^−30, in units of 2^−384 (R114). -/
def trig (q m : Nat) (e : Int) : Int :=
  let r := reduce m e
  let s : Int := if r.2 < 0 then -(sinFix r.2.natAbs : Int) else (sinFix r.2.natAbs : Int)
  let c : Int := (cosFix r.2.natAbs : Int)
  match (r.1 + q) % 4 with
  | 0 => s
  | 1 => c
  | 2 => -s
  | _ => -c

/-- A magnitude m × 2^e is below 2^−30. -/
def small (m : Nat) (e : Int) : Bool := decide (e + (Nat.log2 m : Int) < -30)

/-- A value just below m × 2^e: every function here with f(x) = x − O(x³) lies between it and the next value down. -/
def justBelow (m : Nat) (e : Int) : Nat × Nat := ratScale (m * (2 ^ 60 - 1)) (2 ^ 60) e

/-- FSIN (R68, R113). A quiet NaN raises nothing, as R58 and R113 say, though R68 says that NaN sets NV; FCOS likewise (log 57). -/
def fsinOf (a : Word) : Nat × FFlags :=
  match f32 a with
  | .nan s => nanOf s
  | .inf _ => nanOf true
  | .fin n m e =>
    if m = 0 then (a.toNat, noFlags)
    else if small m e then
      let q := justBelow m e
      roundFn .sin a n q.1 q.2
    else
      let v := trig 0 m e
      roundFn .sin a (n != decide (v < 0)) v.natAbs fxOne

def fcosOf (a : Word) : Nat × FFlags :=
  match f32 a with
  | .nan s => nanOf s
  | .inf _ => nanOf true
  | .fin _ m e =>
    if m = 0 then (oneCode, noFlags)
    else if small m e then
      let q := justBelow 1 0
      roundFn .cos a false q.1 q.2
    else
      let v := trig 1 m e
      roundFn .cos a (v < 0) v.natAbs fxOne

/-! ### FTANH (R68, R113) -/

/-- tanh of m × 2^e as a rational. -/
def tanhRat (m : Nat) (e : Int) : Nat × Nat :=
  if small m e then justBelow m e
  else if 5 ≤ e + (Nat.log2 m : Int) then justBelow 1 0
  else
    let x := finUnits (-384) (.fin false m e)
    let q := exp2Rat (Int.fdiv (2 * x * log2eFix) fxOne)
    let b := q.1 * fxOne / q.2
    (b - fxOne, b + fxOne)

/-- The exact value of a magnitude code of FP32, in units of 2^−149. -/
def magUnits (c : Nat) : Nat :=
  match fp32.decode c with
  | .fin _ m e => m * 2 ^ (e + 149).toNat
  | _ => 2 ^ 277

/-- The codes whose value differs from num/den by less than 2 × 2^(E − 23) (R68). -/
def tanhCodes (num den : Nat) : List (Bool × Nat) :=
  let e := max (ratLog2 num den) (-126)
  let y := num * 2 ^ 149
  let bound := 2 * 2 ^ (e + 126).toNat * den
  let ok (neg : Bool) (c : Nat) : Bool :=
    let v := magUnits c * den
    if neg then decide (y + v < bound) else decide ((if v ≤ y then y - v else v - y) < bound)
  let q := (fp32.roundMag .rtz false num den).1
  let near := (List.range 9).filterMap fun k => if 4 ≤ q + k then some (q + k - 4) else none
  ((near.filter (ok false)).map fun c => (false, c)) ++ (((List.range 2).filter (ok true)).map fun c => (true, c))

def ftanhOf (a : Word) : Nat × FFlags :=
  match f32 a with
  | .nan s => nanOf s
  | .inf n => (fp32.signed n oneCode, noFlags)
  | .fin n m e =>
    if m = 0 then (a.toNat, noFlags)
    else
      let q := tanhRat m e
      let cs := tanhCodes q.1 q.2
      let c := cs.getD (Config.tanhChoice a % cs.length) (false, 0)
      (fp32.signed (n != c.1) c.2, { nx := true, uf := decide (c.2 < 2 ^ 23) })

/-! ### FFRAC (R115) -/

def ffracOf (a : Word) : Nat × FFlags :=
  match f32 a with
  | .nan s => nanOf s
  | .inf _ => nanOf true
  | .fin n m e =>
    let x := finUnits (-149) (.fin n m e)
    let f := (Int.fmod x (2 ^ 149 : Nat)).toNat
    if f = 0 then (0, noFlags) else fp32.round .rtz false f (2 ^ 149)

/-! ### Division and rounding to integral (R116, R117) -/

def fdivOf (m : Mode) (a b : Word) : Nat × FFlags :=
  match f32 a, f32 b with
  | .nan s, .nan t => nanOf (s || t)
  | .nan s, _ => nanOf s
  | _, .nan t => nanOf t
  | .inf _, .inf _ => nanOf true
  | .inf s, .fin t _ _ => (infOf (s != t), noFlags)
  | .fin s _ _, .inf t => (zeroOf (s != t), noFlags)
  | .fin s k e, .fin t j f =>
    if k = 0 && j = 0 then nanOf true
    else if j = 0 then (infOf (s != t), divZero)
    else if k = 0 then (zeroOf (s != t), noFlags)
    else
      let q := ratScale k j (e - f)
      fp32.round m (s != t) q.1 q.2

def froundOf (m : Mode) (a : Word) : Nat × FFlags :=
  match f32 a with
  | .nan s => nanOf s
  | .inf _ => (a.toNat, noFlags)
  | .fin n k e =>
    let r := roundIntFin m n k e
    ((fp32.roundFin .rne n r.1.natAbs 0).1, { nx := r.2 })

/-! ### Classes (R111) -/

def fclassOf (a : Word) : Nat :=
  match f32 a with
  | .nan s => if s then 2 ^ 8 else 2 ^ 9
  | .inf n => if n then 2 ^ 0 else 2 ^ 7
  | .fin n m _ =>
    if m = 0 then (if n then 2 ^ 3 else 2 ^ 4)
    else if m < 2 ^ 23 then (if n then 2 ^ 2 else 2 ^ 5)
    else if n then 2 ^ 1 else 2 ^ 6

end Sys2Proof.Machine
end

