-- ==== Sys2Proof/Machine/Float.lean ====
section
/-! DEFINITION. Floating-point and conversion instructions (R105–R125). -/

namespace Sys2Proof.Machine

open Sys2Proof

/-! ### Shapes of the entries -/

/-- The sticky flags that lanes raise together (R66). -/
def flagsOver (lanes : List Nat) (f : Nat → FFlags) : Nat := lanes.foldl (fun n l => n ||| (f l).code) 0

/-- A result with flags in every lane the instruction is evaluated for (R105). -/
def Ctx.fout (x : Ctx) (w64 : Bool) (d : Operand) (f : Nat → Nat × FFlags) : Out :=
  { x.out d (fun l => wordsOf w64 (f l).1) with flags := flagsOver (x.lanesFor d) fun l => (f l).2 }

/-- A short floating-point instruction. -/
def Ctx.fp (x : Ctx) (d : Operand) (f : Nat → Nat × FFlags) : Res := x.write (x.fout false d f)

/-- A function of R112. -/
def Ctx.unary (x : Ctx) (f : Word → Nat × FFlags) (d a : Operand) : Res := x.fp d fun l => f (x.src a l)

/-- Element h of a packed word (R118). -/
def half (n h : Nat) : Nat := bits n (16 * h) 16

/-- An operation on both elements of packed words. -/
def packed (f : Nat → Nat × FFlags) : Nat × FFlags := ((f 0).1 + 2 ^ 16 * (f 1).1, (f 0).2.join (f 1).2)

def halfFmt : HFmt → Fmt
  | .fp16 => fp16
  | .bf16 => bf16

def fmtOf : FFmt → Fmt
  | .fp32 => fp32
  | .fp16 => fp16
  | .bf16 => bf16

/-- Bits of a format's codes. -/
def Fmt.width (f : Fmt) : Nat := f.frac + f.expo + 1

/-- A packed instruction of two operands. -/
def Ctx.packed2 (x : Ctx) (d a b : Operand) (f : Nat → Nat → Nat × FFlags) : Res :=
  x.fp d fun l => packed fun h => f (half (x.val false a l) h) (half (x.val false b l) h)

/-! ### Arithmetic (R107, R108) -/

/-- FADD (R107, R108). -/
def execFadd (r : Rnd) (d a b : Operand) (s : State) : Host.Outcome State Fault Refusal :=
  issue (.fadd r d a b) s fun x => x.fp d fun l => fp32.add (modeOf r) (x.val false a l) (x.val false b l)

/-- FSUB (R107, R108). -/
def execFsub (r : Rnd) (d a b : Operand) (s : State) : Host.Outcome State Fault Refusal :=
  issue (.fsub r d a b) s fun x => x.fp d fun l => fp32.sub (modeOf r) (x.val false a l) (x.val false b l)

/-- FMUL (R107, R108). -/
def execFmul (r : Rnd) (d a b : Operand) (s : State) : Host.Outcome State Fault Refusal :=
  issue (.fmul r d a b) s fun x => x.fp d fun l => fp32.mul (modeOf r) (x.val false a l) (x.val false b l)

/-- FFMA (R107, R108). -/
def execFfma (r : Rnd) (d a b : Operand) (s : State) : Host.Outcome State Fault Refusal :=
  issue (.ffma r d a b) s fun x =>
    x.fp d fun l => fp32.fma (modeOf r) (x.val false a l) (x.val false b l) (x.val false d l)

/-- FMIN (R109). -/
def execFmin (nm : NanMode) (d a b : Operand) (s : State) : Host.Outcome State Fault Refusal :=
  issue (.fmin nm d a b) s fun x => x.fp d fun l => fp32.minMax false (nm = .nan) (x.val false a l) (x.val false b l)

/-- FMAX (R109). -/
def execFmax (nm : NanMode) (d a b : Operand) (s : State) : Host.Outcome State Fault Refusal :=
  issue (.fmax nm d a b) s fun x => x.fp d fun l => fp32.minMax true (nm = .nan) (x.val false a l) (x.val false b l)

/-! ### Comparison and classes (R110, R111) -/

/-- FCMP's result and flags (R110). -/
def fcmpOf (c : FCond) (a b : Nat) : Bool × FFlags :=
  let x := fp32.decode a
  let y := fp32.decode b
  let ordered := c.rel = .lt || c.rel = .le
  let unord := x.isNan || y.isNan
  let nv := if ordered then unord else x.isSig || y.isSig
  let res := if unord then c.unord else match c.rel with
    | .eq => fp32.same a b
    | .ne => !fp32.same a b
    | .lt => fp32.less a b
    | .le => fp32.less a b || fp32.same a b
  (res, if nv then invalid else noFlags)

/-- FCMP (R110). -/
def execFcmp (c : FCond) (pd : PredReg) (a b : Operand) (s : State) : Host.Outcome State Fault Refusal :=
  issue (.fcmp c pd a b) s fun x =>
    let f := fun l => fcmpOf c (x.val false a l) (x.val false b l)
    x.write { x.predOut pd.val (fun l => (f l).1) with flags := flagsOver x.activeLanes fun l => (f l).2 }

/-- FCLASS (R111). -/
def execFclass (d a : Operand) (s : State) : Host.Outcome State Fault Refusal :=
  issue (.fclass d a) s fun x => x.unary (fun w => (fclassOf w, noFlags)) d a

/-! ### Functions (R112–R115) -/

/-- FABS (R112, R113). -/
def execFabs (d a : Operand) (s : State) : Host.Outcome State Fault Refusal :=
  issue (.fabs d a) s fun x => x.unary fabsOf d a

/-- FNEG (R112, R113). -/
def execFneg (d a : Operand) (s : State) : Host.Outcome State Fault Refusal :=
  issue (.fneg d a) s fun x => x.unary fnegOf d a

/-- FRCP (R112, R113). -/
def execFrcp (d a : Operand) (s : State) : Host.Outcome State Fault Refusal :=
  issue (.frcp d a) s fun x => x.unary frcpOf d a

/-- FRSQ (R112, R113). -/
def execFrsq (d a : Operand) (s : State) : Host.Outcome State Fault Refusal :=
  issue (.frsq d a) s fun x => x.unary frsqOf d a

/-- FSQRT (R112, R113). -/
def execFsqrt (d a : Operand) (s : State) : Host.Outcome State Fault Refusal :=
  issue (.fsqrt d a) s fun x => x.unary fsqrtOf d a

/-- FEXP2 (R112, R113). -/
def execFexp2 (d a : Operand) (s : State) : Host.Outcome State Fault Refusal :=
  issue (.fexp2 d a) s fun x => x.unary fexp2Of d a

/-- FLOG2 (R112, R113). -/
def execFlog2 (d a : Operand) (s : State) : Host.Outcome State Fault Refusal :=
  issue (.flog2 d a) s fun x => x.unary flog2Of d a

/-- FSIN (R112–R114). -/
def execFsin (d a : Operand) (s : State) : Host.Outcome State Fault Refusal :=
  issue (.fsin d a) s fun x => x.unary fsinOf d a

/-- FCOS (R112–R114). -/
def execFcos (d a : Operand) (s : State) : Host.Outcome State Fault Refusal :=
  issue (.fcos d a) s fun x => x.unary fcosOf d a

/-- FTANH (R112, R113). -/
def execFtanh (d a : Operand) (s : State) : Host.Outcome State Fault Refusal :=
  issue (.ftanh d a) s fun x => x.unary ftanhOf d a

/-- FFRAC (R112, R113, R115). -/
def execFfrac (d a : Operand) (s : State) : Host.Outcome State Fault Refusal :=
  issue (.ffrac d a) s fun x => x.unary ffracOf d a

/-- FDIV (R106, R116): long-latency with no path; its flags are set at issue, so before its wait flag clears (R66). -/
def execFdiv (r : Rnd) (d a b : Operand) (s : State) : Host.Outcome State Fault Refusal :=
  issue (.fdiv r d a b) s fun x => x.later x.s (x.fout false d fun l => fdivOf (modeOf r) (x.src a l) (x.src b l))

/-- FROUND (R117). -/
def execFround (r : Rnd) (d a : Operand) (s : State) : Host.Outcome State Fault Refusal :=
  issue (.fround r d a) s fun x => x.unary (froundOf (modeOf r)) d a

/-! ### Packed halves (R118, R119) -/

/-- HADD2 (R118). -/
def execHadd2 (f : HFmt) (d a b : Operand) (s : State) : Host.Outcome State Fault Refusal :=
  issue (.hadd2 f d a b) s fun x => x.packed2 d a b ((halfFmt f).add .rne)

/-- HMUL2 (R118). -/
def execHmul2 (f : HFmt) (d a b : Operand) (s : State) : Host.Outcome State Fault Refusal :=
  issue (.hmul2 f d a b) s fun x => x.packed2 d a b ((halfFmt f).mul .rne)

/-- HFMA2 (R118). -/
def execHfma2 (f : HFmt) (d a b : Operand) (s : State) : Host.Outcome State Fault Refusal :=
  issue (.hfma2 f d a b) s fun x => x.fp d fun l => packed fun h =>
    (halfFmt f).fma .rne (half (x.val false a l) h) (half (x.val false b l) h) (half (x.val false d l) h)

/-- HMIN2 (R118). -/
def execHmin2 (f : HFmt) (d a b : Operand) (s : State) : Host.Outcome State Fault Refusal :=
  issue (.hmin2 f d a b) s fun x => x.packed2 d a b ((halfFmt f).minMax false false)

/-- HMAX2 (R118). -/
def execHmax2 (f : HFmt) (d a b : Operand) (s : State) : Host.Outcome State Fault Refusal :=
  issue (.hmax2 f d a b) s fun x => x.packed2 d a b ((halfFmt f).minMax true false)

/-- The rounded d + a0 × b0 + a1 × b1 (R119). -/
def fdp2Of (f : Fmt) (d a b : Nat) : Nat × FFlags :=
  let e (n h : Nat) : FVal := f.decode (half n h)
  let z := fp32.decode d
  fp32.sum .rne (z.isSig || (e a 0).isSig || (e a 1).isSig || (e b 0).isSig || (e b 1).isSig)
    [.val z, mulVal (e a 0) (e b 0), mulVal (e a 1) (e b 1)]

/-- FDP2 (R119). -/
def execFdp2 (f : HFmt) (d a b : Operand) (s : State) : Host.Outcome State Fault Refusal :=
  issue (.fdp2 f d a b) s fun x =>
    x.fp d fun l => fdp2Of (halfFmt f) (x.val false d l) (x.val false a l) (x.val false b l)

/-! ### Conversions (R120–R123) -/

/-- CVTF's result (R120). -/
def cvtfOf (m : Mode) (src dst : FFmt) (a : Nat) : Nat × FFlags :=
  let c := a % 2 ^ (fmtOf src).width
  let v := (fmtOf src).decode c
  if src = dst && !v.isNan then (c, noFlags) else (fmtOf dst).convert m v

/-- CVTF (R120). -/
def execCvtf (r : Rnd) (d a : Operand) (fm : CvtFmts) (s : State) : Host.Outcome State Fault Refusal :=
  issue (.cvtf r d a fm) s fun x => x.unary (fun w => cvtfOf (modeOf r) fm.src fm.dst w.toNat) d a

/-- F2I's result, for a type of w bits (R122). -/
def f2iOf (m : Mode) (uns : Bool) (w : Nat) (a : Nat) : Nat × FFlags :=
  let lo : Int := if uns then 0 else -((2 ^ (w - 1) : Nat) : Int)
  let hi : Int := if uns then (2 ^ w : Nat) - 1 else (2 ^ (w - 1) : Nat) - 1
  match fp32.decode a with
  | .nan _ => (0, invalid)
  | .inf n => (wrap w (if n then lo else hi), invalid)
  | .fin n k e =>
    let r := roundIntFin m n k e
    if r.1 < lo then (wrap w lo, invalid)
    else if hi < r.1 then (wrap w hi, invalid)
    else (wrap w r.1, { nx := r.2 })

/-- F2I (R122). -/
def execF2i (c : IntCvt) (d a : Operand) (s : State) : Host.Outcome State Fault Refusal :=
  issue (.f2i c d a) s fun x =>
    x.write (x.fout c.w64 d fun l => f2iOf (modeOf c.rnd) c.uns (if c.w64 then 64 else 32) (x.val false a l))

/-- I2F's result (R123). -/
def i2fOf (m : Mode) (t : Int) : Nat × FFlags := fp32.roundFin m (t < 0) t.natAbs 0

/-- I2F (R123). -/
def execI2f (c : IntCvt) (d a : Operand) (s : State) : Host.Outcome State Fault Refusal :=
  issue (.i2f c d a) s fun x => x.fp d fun l => i2fOf (modeOf c.rnd) (x.int c.w64 (!c.uns) a l)

/-! ### Stochastic rounding (R61, R63) -/

/-- The generator value of a lane, for the lane coordinate the destination gives (R63, R121). -/
def Ctx.genFor (x : Ctx) (d : Operand) (l : Nat) : Nat :=
  gen x.g.rseed.toNat x.g.rcnt.toNat (if isScalar d then 0 else l)

/-- The mode of a rounding code, with r taken from a generator value (R61). -/
def qMode (r : QRnd) (g : Nat) : Mode :=
  match r with
  | .rne => .rne
  | .rtz => .rtz
  | .rdn => .rdn
  | .rup => .rup
  | .rsr => .rsr (g % 2 ^ 16)

/-- One issue of an RSR conversion takes one counter value, whatever the guard (R63). -/
def Ctx.fpRsr (x : Ctx) (r : QRnd) (d : Operand) (f : Nat → Nat × FFlags) : Res :=
  let o := x.fout false d f
  .done (x.mod fun g =>
    let g := (g.applyOut o).pushOut o
    if r = .rsr then { g with rcnt := g.rcnt + 1 } else g)

/-- PACK2 (R121). -/
def execPack2 (pm : PackMode) (d a b : Operand) (s : State) : Host.Outcome State Fault Refusal :=
  issue (.pack2 pm d a b) s fun x => x.fpRsr pm.rnd d fun l =>
    let g := x.genFor d l
    let f := halfFmt pm.fmt
    let lo := f.convert (qMode pm.rnd g) (f32 (x.src a l))
    let hi := f.convert (qMode pm.rnd (g / 2 ^ 16)) (f32 (x.src b l))
    (lo.1 + 2 ^ 16 * hi.1, lo.2.join hi.2)

/-- A value converted to an element format (R124, R62). -/
def quantise (f : QFmt) (m : Mode) (v : FVal) : Nat × FFlags :=
  match f with
  | .e4m3 => fmtE4m3.convert m v
  | .e5m2 => fmtE5m2.convert m v
  | .e2m1 => fmtE2m1.convert m v
  | .lg6 =>
    let r := toLg6 m v
    (r.1, r.2)
  | .int8 => toInt 8 m v
  | .int4 => toInt 4 m v

/-- QCVT (R124). -/
def execQcvt (r : QRnd) (d a : Operand) (f : QFmt) (s : State) : Host.Outcome State Fault Refusal :=
  issue (.qcvt r d a f) s fun x => x.fpRsr r d fun l => quantise f (qMode r (x.genFor d l)) (f32 (x.src a l))

/-- 2^(t/4) in 1.14 fixed point (R76). -/
def lgTable : List Nat := [16384, 19484, 23170, 27554]

/-- The value an LG6 code stands for outside the engine's sums (R125). -/
def lgFactor (c : Nat) : FVal :=
  let neg := bit c 5
  let m := c % 32
  if m = 0 then .fin neg 0 0
  else
    let q : Int := (m : Int) - 16
    .fin neg (lgTable.getD (Int.fmod q 4).toNat 0) (Int.fdiv q 4 - 14)

/-- A signed integer as a value. -/
def intVal (t : Int) : FVal := .fin (t < 0) t.natAbs 0

/-- The value of element k of a packed word (R125). -/
def dqcvtVal (f : QFmt) (k a : Nat) : FVal :=
  match f with
  | .e4m3 => fmtE4m3.decode (bits a (8 * k) 8)
  | .e5m2 => fmtE5m2.decode (bits a (8 * k) 8)
  | .e2m1 => fmtE2m1.decode (bits a (4 * k) 4)
  | .lg6 => lgFactor (bits a (6 * k) 6)
  | .int8 => intVal (signed 8 (bits a (8 * k) 8))
  | .int4 => intVal (signed 4 (bits a (4 * k) 4))

/-- DQCVT (R125). -/
def execDqcvt (e : Elem) (d a : Operand) (f : QFmt) (s : State) : Host.Outcome State Fault Refusal :=
  issue (.dqcvt e d a f) s fun x => x.fp d fun l => fp32.convert .rne (dqcvtVal f e.val (x.val false a l))

end Sys2Proof.Machine
end

