-- ==== Sys2Proof/Machine/Matrix.lean ====
section
/-! DEFINITION. The matrix engine (R72–R78, R277–R296). -/

namespace Sys2Proof.Machine

open Sys2Proof

/-! ### Formats (R39, R277) -/

/-- Bits of an element of a format code (R39). -/
def elemBits (f : Nat) : Nat :=
  match f with
  | 0 | 10 => 32
  | 1 | 2 => 16
  | 5 | 9 => 4
  | 6 => 6
  | _ => 8

/-- The operand formats of R277. -/
def isOperand (f : Nat) : Bool := [1, 2, 3, 4, 5, 6, 8, 9].contains f

def isWide (f : Nat) : Bool := f = 1 || f = 2
def isIntFmt (f : Nat) : Bool := f = 8 || f = 9

/-- K of a pairing that R277 allows. -/
def pairK (a b : Nat) : Option Nat :=
  if (a = 1 || a = 2) && a = b then some 32
  else if (a = 3 || a = 4) && (b = 3 || b = 4) then some 64
  else if a = 8 && b = 8 then some 64
  else if (a = 5 || a = 6 || a = 9) && a = b then some 128
  else none

/-- The value of an element code in a float format. -/
def elemVal (f c : Nat) : FVal :=
  match f with
  | 0 => fp32.decode c
  | 1 => fp16.decode c
  | 2 => bf16.decode c
  | 3 => fmtE4m3.decode c
  | 4 => fmtE5m2.decode c
  | 5 => fmtE2m1.decode c
  | _ => lgFactor c

/-! ### The format block (R280, R281) -/

abbrev FBlock := List Byte

/-- An operand's half of a format block. -/
structure OperandFmt where
  fmt : Nat
  blk : Nat
  lay : Nat
  stride : Nat
  scales : Nat
  chk : Bool

def FBlock.operand (b : FBlock) (second : Bool) : OperandFmt :=
  let k := if second then 1 else 0
  let f := fieldAt b k 1
  { fmt := bits f 0 4, blk := bits f 4 2, lay := bits f 6 2, stride := 16 * fieldAt b (2 + 2 * k) 2,
    scales := fieldAt b (6 + 4 * k) 4, chk := bit (fieldAt b 15 1) (4 + k) }

def FBlock.out (b : FBlock) : Nat := bits (fieldAt b 14 1) 0 4
def FBlock.sr (b : FBlock) : Bool := bit (fieldAt b 14 1) 4
def FBlock.res (b : FBlock) : Bool := bit (fieldAt b 14 1) 5
def FBlock.drop (b : FBlock) : Bool := bit (fieldAt b 14 1) 6
def FBlock.resFmt (b : FBlock) : Nat := bits (fieldAt b 15 1) 0 4
def FBlock.resAddr (b : FBlock) : Nat := fieldAt b 16 4
def FBlock.k (b : FBlock) : Nat := (pairK (FBlock.operand b false).fmt (FBlock.operand b true).fmt).getD 32
def FBlock.isInt (b : FBlock) : Bool := isIntFmt (FBlock.operand b false).fmt

/-- Block length in elements; 0 when unscaled. -/
def OperandFmt.len (o : OperandFmt) : Nat := if o.blk = 0 then 0 else 8 * 2 ^ o.blk

/-- An operand's half that R281 refuses. A BBLK of 3, which R280 calls reserved and R281's list does not name, is refused as an ABLK of 3
is (log 73). -/
def badOperand (o : OperandFmt) : Bool := o.blk = 3 || o.lay = 3 || ((isWide o.fmt || isIntFmt o.fmt) && o.blk ≠ 0)

/-- The byte index of the first field that breaks R281. -/
def FBlock.bad (b : FBlock) : Option Nat :=
  let a := FBlock.operand b false
  let c := FBlock.operand b true
  let out := fieldAt b 14 1
  let chk := fieldAt b 15 1
  if !isOperand a.fmt || badOperand a then some 0
  else if (pairK a.fmt c.fmt).isNone || badOperand c then some 1
  else if a.blk = 0 && a.scales ≠ 0 then some 6
  else if c.blk = 0 && c.scales ≠ 0 then some 10
  else if bit out 7 || (if isIntFmt a.fmt then !([10, 8, 9, 0].contains (FBlock.out b)) || bits out 4 3 ≠ 0
      else !((List.range 7).contains (FBlock.out b))) then some 14
  else if bits chk 6 2 ≠ 0 || (isWide a.fmt && bits chk 4 2 ≠ 0) || (FBlock.res b && decide (2 < FBlock.resFmt b)) then some 15
  else if !FBlock.res b && FBlock.resAddr b ≠ 0 then some 16
  else none

/-! ### Addresses and lines (R203, R282, R283) -/

/-- The key of a byte at a displacement from a cluster address, when the range lies in that allocation. -/
def State.clu (s : State) (g : Group) (x delta n : Nat) : Option Nat :=
  match s.clusterReach g x 0 with
  | .key k => if bits x 0 21 + delta + n ≤ s.scratchSize g then some (k + delta) else none
  | _ => none

/-- A group as an engine's instruction sees memory through it: with the old bytes that the instruction's path still sees, and no others
(R236, R286). -/
def Group.sightOf (g : Group) (f : Flight) : Group := { g with olds := g.olds.filter fun o => o.hides f.lanes f.path o.key }

/-- Bytes at a displacement, as a matrix instruction sees them; zeros outside the allocation, which the checks at issue exclude. -/
def State.cluRead (s : State) (g : Group) (x delta n : Nat) : List Byte :=
  match s.clu g x delta n with
  | some k => s.seenBytes g 0xFFFFFFFF (some .mat) k n
  | none => List.replicate n 0

def State.cluWrite (s : State) (g : Group) (f : Flight) (x delta : Nat) (bs : List Byte) : State :=
  match s.clu g x delta bs.length with
  | some k => s.engineStore g (some f) k [] bs
  | none => s

/-- Elements of a line, and the number of lines (R282). -/
def OperandFmt.lineLen (o : OperandFmt) (k : Nat) : Nat := if o.lay = 0 then k else 32
def OperandFmt.lines (o : OperandFmt) (k : Nat) : Nat := if o.lay = 0 then 32 else k

/-- The line and the index in it of element (o, k). -/
def OperandFmt.place (f : OperandFmt) (o k : Nat) : Nat × Nat :=
  match f.lay with
  | 0 => (o, k)
  | 1 => (k, o)
  | _ => (k / 32 * 32 + o, k % 32)

/-- The outer index of a line that holds one outer index only. -/
def OperandFmt.outer (f : OperandFmt) (line : Nat) : Option Nat :=
  match f.lay with
  | 0 => some line
  | 1 => none
  | _ => some (line % 32)

/-- Bytes of `n` packed elements (R53, R55). -/
def packedBytes (fmt n : Nat) : Nat := ceilDiv (n * elemBits fmt) 8

/-- Bytes a line occupies, its trailer included when it is checked (R77). -/
def OperandFmt.lineBytes (o : OperandFmt) (k : Nat) : Nat :=
  let n := packedBytes o.fmt (o.lineLen k)
  if o.chk then roundUp n 16 + 16 else n

/-- An operand's lines and scales lie in their allocations. -/
def State.operandFits (s : State) (g : Group) (o : OperandFmt) (x k : Nat) : Bool :=
  ((List.range (o.lines k)).all fun i => (s.clu g x (i * o.stride) (o.lineBytes k)).isSome) &&
  (o.blk = 0 || (s.clu g o.scales 0 (32 * (k / o.len))).isSome)

/-- The code of element (o, k) of an operand. -/
def State.element (s : State) (g : Group) (f : OperandFmt) (x o k : Nat) : Nat :=
  let p := f.place o k
  let w := elemBits f.fmt
  bits (ofBytes (s.cluRead g x (p.1 * f.stride + p.2 * w / 8) (ceilDiv (p.2 * w % 8 + w) 8))) (p.2 * w % 8) w

/-- The E8M0 scale byte of an element; 127 (one) when unscaled (R283). -/
def State.scaleOf (s : State) (g : Group) (f : OperandFmt) (kk o k : Nat) : Nat :=
  if f.blk = 0 then 127 else ofBytes (s.cluRead g f.scales (o * (kk / f.len) + k / f.len) 1)

/-! ### Trailers (R77, R78, R294) -/

/-- One bit of CRC-32C. -/
def crcBit (c : Nat) : Nat := if c % 2 = 1 then (c / 2) ^^^ 0x82F63B78 else c / 2

/-- CRC-32C of bytes (R78). -/
def crc32c (bs : List Byte) : Nat :=
  (bs.foldl (fun c b => (List.range 8).foldl (fun c _ => crcBit c) (c ^^^ b.toNat)) 0xFFFFFFFF) ^^^ 0xFFFFFFFF

/-- The 16 bytes of a trailer. -/
def trailerBytes (maxabs sat : Nat) (row : List Byte) (fmt blk count : Nat) : List Byte :=
  bytesOf 4 maxabs ++ bytesOf 4 (min sat 0xFFFFFFFF) ++ bytesOf 4 (crc32c row) ++ bytesOf 1 fmt ++ bytesOf 1 blk ++ bytesOf 2 count

/-- A line's trailer matches the captured format. -/
def State.lineOk (s : State) (g : Group) (o : OperandFmt) (x k line : Nat) : Bool :=
  let n := packedBytes o.fmt (o.lineLen k)
  let row := s.cluRead g x (line * o.stride) n
  let t := s.cluRead g x (line * o.stride + roundUp n 16) 16
  fieldAt t 12 1 = o.fmt && fieldAt t 13 1 = o.len && fieldAt t 14 2 = o.lineLen k && fieldAt t 8 4 = crc32c row

/-- The first line that fails its check, of those that are read. -/
def State.badLine (s : State) (g : Group) (o : OperandFmt) (x k : Nat) (rows : LaneMask) : Option Nat :=
  if !o.chk then none
  else ((List.range (o.lines k)).find? fun i =>
    (match o.outer i with
     | some r => inMask rows r
     | none => true) && !s.lineOk g o x k i).map fun i => x + i * o.stride

def trailerFault (addr : Nat) : Trap := { trap .trailerCheck with taddr := some (BitVec.ofNat 64 addr) }

/-! ### Tiles (R278, R279) -/

/-- The key of a tile's word. -/
def accKey (g : Group) (t i j : Nat) : Nat := Space.key (.accum g.wg) (4096 * t + 128 * i + 4 * j)

def State.accum (s : State) (g : Group) (t i j : Nat) : Nat := s.readMem (accKey g t i j) 4

/-- Write one row of a tile. -/
def State.writeRow (s : State) (g : Group) (t i : Nat) (ws : List Nat) : State :=
  s.writeMem (accKey g t i 0) (ws.flatMap fun w => bytesOf 4 w)

/-- A tile's status word without QSAT. -/
def State.tileStatus (s : State) (g : Group) (t : Nat) : Nat := ((s.workgroup? g.wg).elim 0 fun w => (sread w.tiles t).toNat)

def State.setStatus (s : State) (g : Group) (t v : Nat) : State :=
  s.modWorkgroup g.wg fun w => { w with tiles := swrite w.tiles t (BitVec.ofNat 32 v) }

/-- Set NAN and OVF. -/
def State.noteMma (s : State) (g : Group) (t : Nat) (nan ovf : Bool) : State :=
  s.setStatus g t (s.tileStatus g t ||| (nan.toNat * 2 ^ 31 + ovf.toNat * 2 ^ 30))

/-- Raise SAT (R279). -/
def State.noteSat (s : State) (g : Group) (t n : Nat) : State :=
  let v := s.tileStatus g t
  s.setStatus g t (v / 2 ^ 16 * 2 ^ 16 + min 0xFFFF (v % 2 ^ 16 + n))

/-! ### Issue (R284, R285) -/

/-- Work that stands in a core's matrix queue. -/
def Work.isMatrix (w : Work) : Bool :=
  match w with
  | .matrix _ => true
  | .mstat .. => true
  | .mrow _ => true
  | _ => false

/-- The matrix instructions in the queue of a group's core (R285). -/
def State.matrixQueue (s : State) (g : Group) : List Flight :=
  (s.groups.filter fun h => s.onCore h && h.die = g.die && h.core = g.core && h.isHost = g.isHost).flatMap fun h =>
    h.flights.filter fun f => f.work.isMatrix && !f.done

/-- The queue holds 32 entries (R285). -/
def State.matrixFull (s : State) (g : Group) : Bool := decide (32 ≤ (s.matrixQueue g).length)

/-- A tile at or above ACCUM (R278, R296). -/
def State.tileFault (s : State) (g : Group) (t : Nat) : Option Trap :=
  if (if g.isHost then 0 else (s.recordOf g).accum) ≤ t then some { trap .regRange with tval := BitVec.ofNat 32 t } else none

/-- A fault of an instruction that acts once (R267). -/
def onceTrap (c : Cause) (addr : Option Nat) : Trap :=
  { trap c with tval := 1, byLanes := true, taddr := addr.map (BitVec.ofNat 64) }

/-- ALIGN of the first address that is no multiple of a number. -/
def alignFault (n : Nat) (as : List Nat) : Option Trap := (as.find? fun a => a % n ≠ 0).map fun a => onceTrap .align (some a)

def noFormat : Trap := { trap .formatBlock with tval := 0x100 }

/-- A matrix instruction that has passed its checks joins the queue. -/
def Ctx.enqueue (x : Ctx) (j : MatrixJob) : Res :=
  if x.s.matrixFull x.g then .hold .port else x.counted x.s (.matrix { j with seed := x.g.seed })

/-- The scalar address an operand gives. -/
def Ctx.addrOf (x : Ctx) (a : Operand) : Nat := (x.src a x.firstLane).toNat

/-- An instruction on a tile: a tile beyond ACCUM is REG_RANGE whether or not a lane is active (R13, R278), and with none active it
does nothing else (R284). -/
def Ctx.onTile (x : Ctx) (t : Nat) (body : Res) : Res :=
  match x.s.tileFault x.g t with
  | some e => .fault e
  | none => if x.anyActive then body else .done x.s

/-- MMA (R287). -/
def Ctx.mma (x : Ctx) (set : Bool) (t : Nat) (a b : Operand) : Res :=
  x.onTile t <| match x.g.fmt with
    | none => .fault noFormat
    | some f =>
      let oa := FBlock.operand f false
      let ob := FBlock.operand f true
      let xa := x.addrOf a
      let xb := x.addrOf b
      let used := [xa, xb] ++ (if oa.blk = 0 then [] else [oa.scales]) ++ (if ob.blk = 0 then [] else [ob.scales])
      match alignFault 16 used with
      | some e => .fault e
      | none =>
        if !(x.s.operandFits x.g oa xa (FBlock.k f) && x.s.operandFits x.g ob xb (FBlock.k f)) then .fault (onceTrap .cluBounds none)
        else x.enqueue { kind := if set then 1 else 0, tile := t, a := xa, b := xb, fmt := f, seed := 0 }

/-- MMA.ACC (R287). -/
def execMmaAcc (mc : MultiCast) (t : Tile) (a b : Operand) (s : State) : Host.Outcome State Fault Refusal :=
  issue (.mmaAcc mc t a b) s fun x => x.mma false t.val a b

/-- MMA.SET (R287). -/
def execMmaSet (mc : MultiCast) (t : Tile) (a b : Operand) (s : State) : Host.Outcome State Fault Refusal :=
  issue (.mmaSet mc t a b) s fun x => x.mma true t.val a b

/-! ### Drain geometry (R291) -/

/-- A quantised output has a trailer. -/
def quantised (f : Nat) : Bool := [3, 4, 5, 6, 8, 9].contains f

/-- Bytes of a drained row, and the row pitch. -/
def rowBytes (f : Nat) : Nat := packedBytes f 32
def rowPitch (f : Nat) : Nat := if quantised f then roundUp (rowBytes f) 16 + 16 else rowBytes f

/-- The row pitch of the residual. -/
def resPitch (f : Nat) : Nat := if f = 0 then 128 else 64

/-- The source of an MTRQ as an operand of 32 lines of 32 elements. -/
def mtrqSource (f : FBlock) : OperandFmt := FBlock.operand f false

/-- The bytes that a drain or requantisation has still to write: keys and sizes. -/
def State.outputs (s : State) (g : Group) (f : Flight) : List (Nat × Nat) :=
  match f.work with
  | .matrix j =>
    let pitch := rowPitch (FBlock.out j.fmt)
    if j.kind = 4 then ((lanesOf f.mask).drop f.progress).filterMap fun i => (s.clu g j.a (i * pitch) pitch).map fun k => (k, pitch)
    else if j.kind = 6 then
      let o := mtrqSource j.fmt
      let n := 32 * rowPitch o.fmt + 32 * (32 / o.len)
      ((s.clu g j.b 0 n).map fun k => (k, n)).toList
    else []
  | _ => []

/-- An earlier instruction of the split has still to write a byte of the block at a key (R286). -/
def Ctx.draining (x : Ctx) (k : Nat) : Bool :=
  x.g.flights.any fun f => (f.lanes &&& x.p.mask) ≠ 0 && !f.done && (x.s.outputs x.g f).any fun c => overlap c.1 c.2 k 32

/-- MFMT (R288): it meets the queue as the engine's other instructions do, reads at issue, and counts on MAT until its turn (R285,
R286). -/
def execMfmt (a : Operand) (s : State) : Host.Outcome State Fault Refusal :=
  issue (.mfmt a) s fun x =>
    let addr := x.addrOf a
    if !x.anyActive then .done x.s
    else if x.g.isHost then .fault (onceTrap .cluBounds none)
    else if addr % 32 ≠ 0 then .fault (onceTrap .align (some addr))
    else match x.s.clu x.g addr 0 32 with
      | none => .fault (onceTrap .cluBounds none)
      | some k =>
        if x.s.matrixFull x.g then .hold .port
        else if x.draining k then .hold .work
        else
          let f := (List.range 32).map fun i => x.s.byteFor x.g x.p x.i.path (k + i)
          match FBlock.bad f with
          | some n => .fault { trap .formatBlock with tval := BitVec.ofNat 32 n }
          | none => x.counted (x.mod fun g => { g with fmt := some f })

/-- MCLR (R289). -/
def execMclr (t : Tile) (s : State) : Host.Outcome State Fault Refusal :=
  issue (.mclr t) s fun x => x.onTile t.val (x.enqueue { kind := 2, tile := t.val, a := 0, b := 0, fmt := [], seed := 0 })

/-- MLOAD (R289). -/
def execMload (t : Tile) (a : Operand) (s : State) : Host.Outcome State Fault Refusal :=
  issue (.mload t a) s fun x =>
    let addr := x.addrOf a
    x.onTile t.val <| match alignFault 16 [addr] with
      | some e => .fault e
      | none =>
        if x.activeLanes.any fun i => (x.s.clu x.g addr (128 * i) 128).isNone then .fault (onceTrap .cluBounds none)
        else x.enqueue { kind := 3, tile := t.val, a := addr, b := 0, fmt := [], seed := 0 }

/-- MSEED (R289). -/
def execMseed (a : Operand) (s : State) : Host.Outcome State Fault Refusal :=
  issue (.mseed a) s fun x => .done (x.mod fun g => { g with seed := x.src64 a x.scalarLane })

/-- MSTAT (R289). -/
def execMstat (d : Operand) (t : Tile) (s : State) : Host.Outcome State Fault Refusal :=
  issue (.mstat d t) s fun x =>
    match x.s.tileFault x.g t.val with
    | some e => .fault e
    | none =>
      if x.s.matrixFull x.g then .hold .port
      else .done (x.mod fun g => (x.attached g).addFlight
        { x.flight x.c.flag (.mstat t.val (match d with
            | .s n => some n.val
            | _ => none)) with issued := x.s.cycle, unitAt := x.s.cycle })

/-! ### Drains (R291) -/

/-- The residual rows of a mask lie in their allocation. -/
def State.residualFits (s : State) (g : Group) (f : FBlock) (rows : List Nat) : Bool :=
  !FBlock.res f || rows.all fun i => (s.clu g (FBlock.resAddr f) (i * resPitch (FBlock.resFmt f)) (resPitch (FBlock.resFmt f))).isSome

/-- MDRAIN (R291). -/
def execMdrain (t : Tile) (a : Operand) (s : State) : Host.Outcome State Fault Refusal :=
  issue (.mdrain t a) s fun x =>
    let addr := x.addrOf a
    x.onTile t.val <| match x.g.fmt with
      | none => .fault noFormat
      | some f =>
        match alignFault 16 (addr :: if FBlock.res f then [FBlock.resAddr f] else []) with
        | some e => .fault e
        | none =>
          let pitch := rowPitch (FBlock.out f)
          if x.activeLanes.any (fun i => (x.s.clu x.g addr (i * pitch) pitch).isNone) || !x.s.residualFits x.g f x.activeLanes then
            .fault (onceTrap .cluBounds none)
          else x.enqueue { kind := 4, tile := t.val, a := addr, b := 0, fmt := f, seed := 0 }

/-- MDRAIN.MROW (R291, R292). -/
def execMdrainMrow (t : Tile) (a : Operand) (s : State) : Host.Outcome State Fault Refusal :=
  issue (.mdrainMrow t a) s fun x =>
    x.onTile t.val <| match x.g.fmt with
      | none => .fault noFormat
      | some f =>
        if (x.g.portOf .mrow).isNone then .fault (queueFault .queueUnbound 0)
        else match alignFault 16 (if FBlock.res f then [FBlock.resAddr f] else []) with
          | some e => .fault e
          | none =>
            if !x.s.residualFits x.g f x.activeLanes then .fault (onceTrap .cluBounds none)
            else x.enqueue { kind := 5, tile := t.val, a := 0, b := 0, fmt := f, seed := 0 }

/-- The captured format allows MTRQ (R293). -/
def mtrqFormat (f : FBlock) : Bool :=
  let a := FBlock.operand f false
  (a.fmt = 5 || a.fmt = 6) && a.blk ≠ 0 && a.lay = 0

/-- MTRQ (R293). -/
def execMtrq (a b : Operand) (s : State) : Host.Outcome State Fault Refusal :=
  issue (.mtrq a b) s fun x =>
    let xa := x.addrOf a
    let xb := x.addrOf b
    if !x.anyActive then .done x.s
    else if x.g.isHost then .fault (onceTrap .cluBounds none)
    else match x.g.fmt with
      | none => .fault noFormat
      | some f =>
        if !mtrqFormat f then .fault (trap .formatBlock)
        else
          let o := mtrqSource f
          match alignFault 16 [xa, xb, o.scales] with
          | some e => .fault e
          | none =>
            if !x.s.operandFits x.g o xa 32 || (x.s.clu x.g xb 0 (32 * rowPitch o.fmt + 32 * (32 / o.len))).isNone then
              .fault (onceTrap .cluBounds none)
            else x.enqueue { kind := 6, tile := 0, a := xa, b := xb, fmt := f, seed := 0 }

/-! ### MMA's arithmetic (R72–R76) -/

/-- The exact product of two elements, scaled (R73, R74, R76). -/
def product (fa fb ca cb ea eb : Nat) : Addend :=
  if ea = 255 || eb = 255 then .val (.nan false)
  else
    let p := if fa = 6 then
        (if ca % 32 = 0 || cb % 32 = 0 then .val (.fin (bit ca 5 != bit cb 5) 0 0)
         else
          let q : Int := ((ca % 32 : Nat) : Int) - 16 + (((cb % 32 : Nat) : Int) - 16)
          .val (.fin (bit ca 5 != bit cb 5) (lgTable.getD (Int.fmod q 4).toNat 0) (Int.fdiv q 4 - 14)))
      else mulVal (elemVal fa ca) (elemVal fb cb)
    match p with
    | .val (.fin n m e) => .val (.fin n m (e + (ea : Int) + (eb : Int) - 254))
    | p => p

/-- The blocked sum of R72 over blocks of products: the result and whether a rounding overflowed. -/
def blockedSum (acc : Nat) (blocks : List (List Addend)) : Nat × Bool :=
  blocks.foldl (fun r b =>
    let v := fp32.sum .rne false (.val (fp32.decode r.1) :: b)
    (v.1, r.2 || v.2.of)) (acc, false)

/-- One element of an MMA: its new word and whether it overflowed. -/
def State.mmaElem (s : State) (g : Group) (j : MatrixJob) (i col : Nat) : Nat × Bool :=
  let fa := FBlock.operand j.fmt false
  let fb := FBlock.operand j.fmt true
  let k := FBlock.k j.fmt
  let old := if j.kind = 1 then 0 else s.accum g j.tile i col
  if isIntFmt fa.fmt then
    let w := elemBits fa.fmt
    let t := ((List.range k).map fun n => signed w (s.element g fa j.a i n) * signed w (s.element g fb j.b col n)).sum
    (wrap 32 ((old : Int) + t), false)
  else
    blockedSum old ((List.range (k / 16)).map fun blk => (List.range 16).map fun q =>
      let n := 16 * blk + q
      product fa.fmt fb.fmt (s.element g fa j.a i n) (s.element g fb j.b col n) (s.scaleOf g fa k i n) (s.scaleOf g fb k col n))

/-- The rows of an MMA, each written whole (R285). -/
def State.runMma (s : State) (g : Group) (f : Flight) (j : MatrixJob) : State :=
  (lanesOf f.mask).foldl (fun s i =>
    let ws := (List.range 32).map fun col => s.mmaElem g j i col
    let nan := !FBlock.isInt j.fmt && ws.any fun w => (fp32.decode w.1).isNan
    (s.writeRow g j.tile i (ws.map fun w => w.1)).noteMma g j.tile nan (ws.any fun w => w.2)) s

/-- The line that makes an MMA fail (R294). -/
def State.mmaBad (s : State) (g : Group) (f : Flight) (j : MatrixJob) : Option Nat :=
  match s.badLine g (FBlock.operand j.fmt false) j.a (FBlock.k j.fmt) f.mask with
  | some a => some a
  | none => s.badLine g (FBlock.operand j.fmt true) j.b (FBlock.k j.fmt) 0xFFFFFFFF

/-! ### MTRQ's arithmetic (R293) -/

/-- The packed bytes of a row of codes (R53, R55). -/
def packRow (fmt : Nat) (cs : List Nat) : List Byte :=
  bytesOf (packedBytes fmt cs.length) ((cs.zipIdx.map fun e => e.1 * 2 ^ (elemBits fmt * e.2)).sum)

/-- A source element: its code and scale byte. -/
abbrev ScaledCode := Nat × Nat

/-- The LG6 magnitude of a scaled element as a count of quarter powers of two; none for zero. -/
def lgPower (c : ScaledCode) : Option Int :=
  if c.1 % 32 = 0 then none else some (((c.1 % 32 : Nat) : Int) - 16 + 4 * ((c.2 : Int) - 127))

/-- The magnitude of a scaled E2M1 element in units of 2^−128. -/
def e2Mag (c : ScaledCode) : Nat :=
  match fmtE2m1.decode (c.1 % 8) with
  | .fin _ m e => m * 2 ^ (e + 1).toNat * 2 ^ c.2
  | _ => 0

/-- The scale of a result block (R293). -/
def blockScale (fmt : Nat) (cs : List ScaledCode) : Nat :=
  if cs.any fun c => c.2 = 255 then 255
  else if fmt = 6 then
    match cs.filterMap lgPower with
    | [] => 127
    | q :: t =>
      let m := t.foldl max q
      min 254 (max 0 (127 + (Int.fdiv (m - 15 + 3) 4))).toNat
  else
    let m := (cs.map e2Mag).foldl max 0
    if m = 0 then 127 else ((List.range 255).find? fun e => decide (m ≤ 12 * 2 ^ e)).getD 254

/-- An element converted under a new scale: its code and whether it saturated. -/
def rescale (fmt scale : Nat) (c : ScaledCode) : Nat × Bool :=
  if scale = 255 then (0, true)
  else if fmt = 6 then
    let sg := if bit c.1 5 then 32 else 0
    match lgPower c with
    | none => (sg, false)
    | some q =>
      let k := q - 4 * ((scale : Int) - 127) + 16
      if 31 < k then (sg + 31, true)
      else if 0 < k then (sg + k.toNat, false)
      else if -3 < k then (sg + 1, false)
      else (sg, false)
  else
    match fmtE2m1.decode (c.1 % 16) with
    | .fin n m e =>
      let r := fmtE2m1.convert .rne (.fin n m (e + (c.2 : Int) - (scale : Int)))
      (r.1, r.2.of)
    | _ => (0, true)

/-- MAXABS of a result row, rounded by RNE. -/
def rowMax (fmt : Nat) (cs : List ScaledCode) : Nat :=
  if cs.any fun c => c.2 = 255 then fp32.nanCode
  else if fmt = 6 then
    match cs.filterMap lgPower with
    | [] => 0
    | q :: t =>
      let m := t.foldl max q
      (fp32.roundFin .rne false (lgRoot (Int.fmod m 4).toNat) (Int.fdiv m 4 - 256)).1
  else (fp32.roundFin .rne false ((cs.map e2Mag).foldl max 0) (-128)).1

/-- The scaled codes of a column of the source. -/
def State.mtrqColumn (s : State) (g : Group) (j : MatrixJob) (c : Nat) : List ScaledCode :=
  let o := mtrqSource j.fmt
  (List.range 32).map fun r =>
    (s.element g { o with chk := false } j.a r c, ofBytes (s.cluRead g o.scales (r * (32 / o.len) + c / o.len) 1))

/-- The result of an MTRQ overlaps its source, or the source's scales: the spec leaves the result bytes open (log 74). -/
def State.mtrqOverlaps (s : State) (g : Group) (j : MatrixJob) : Bool :=
  let o := mtrqSource j.fmt
  let n := 32 * rowPitch o.fmt + 1024 / o.len
  let source := ((List.range 32).map fun r => (r * o.stride, o.lineBytes 32)).filterMap fun e => (s.clu g j.a e.1 e.2).map fun k => (k, e.2)
  let scales := ((s.clu g o.scales 0 (1024 / o.len)).map fun k => (k, 1024 / o.len)).toList
  (s.clu g j.b 0 n).elim false fun k => (source ++ scales).any fun e => overlap k n e.1 e.2

/-- What an MTRQ writes: the bytes, or free ones where the result overlaps the source. -/
def State.mtrqWrite (s : State) (g : Group) (f : Flight) (j : MatrixJob) (delta : Nat) (bs : List Byte) : State :=
  if s.mtrqOverlaps g j then
    let r := s.freeBytes bs.length
    r.2.cluWrite g f j.b delta r.1
  else s.cluWrite g f j.b delta bs

/-- One unit of an MTRQ: result row c with its trailer and scales. -/
def State.mtrqRow (s : State) (g : Group) (f : Flight) (j : MatrixJob) (c : Nat) : State :=
  let o := mtrqSource j.fmt
  let cs := s.mtrqColumn g j c
  let blocks := (List.range (32 / o.len)).map fun b => (cs.drop (b * o.len)).take o.len
  let scales := blocks.map (blockScale o.fmt)
  let rs := (blocks.zip scales).flatMap fun e => e.1.map (rescale o.fmt e.2)
  let sat := (rs.filter fun r => r.2).length
  let row := packRow o.fmt (rs.map fun r => r.1)
  let pad := List.replicate (roundUp row.length 16 - row.length) (0 : Byte)
  let bs := row ++ pad ++ trailerBytes (rowMax o.fmt cs) sat row o.fmt o.len 32
  let s := s.mtrqWrite g f j (c * rowPitch o.fmt) bs
  let s := s.mtrqWrite g f j (32 * rowPitch o.fmt + c * (32 / o.len)) (scales.map (BitVec.ofNat 8))
  s.modGroup g.id fun g => { g with qsat := BitVec.ofNat 14 (min 0x3FFF (g.qsat.toNat + sat)) }

/-! ### MATRIX_EXECUTE (R285, R289, R294) -/

/-- A drain into a port that has read its rows: only its pushes remain. -/
def Work.isMrow (w : Work) : Bool :=
  match w with
  | .mrow _ => true
  | _ => false

def Work.isMstat (w : Work) : Bool :=
  match w with
  | .mstat .. => true
  | _ => false

/-- An MSTAT's turn: every matrix instruction that its core's engine accepted before it has completed (R289). -/
def State.mstatDue (s : State) (g : Group) (f : Flight) : Bool := (s.matrixQueue g).all fun e => decide (f.issued ≤ e.issued)

/-- The engine of a group's core waits for room in a port that an MDRAIN.MROW is filling (R292). -/
def State.mrowWaits (s : State) (g : Group) : Bool :=
  s.groups.any fun h => h.die = g.die && h.core = g.core && h.isHost = g.isHost && s.engineLive h .mat &&
    (h.flights.find? fun f => f.work.isMatrix && !f.done).elim false fun f =>
      f.work.isMrow && !f.stopped && (h.portOf .mrow).elim false h.portFull

/-- The oldest matrix instruction of each group that has still to read or write a tile: one that is stopped holds the others back
(R285, R294). -/
def State.matrixHeads (s : State) : List (Group × Flight) :=
  s.groups.filterMap fun g =>
    if !s.engineLive g .mat then none
    else (g.flights.find? fun f => f.work.isMatrix && !f.done).bind fun f =>
      if f.stopped || f.work.isMrow || (f.work.isMstat && !s.mstatDue g f) || s.mrowWaits g then none else some (g.sightOf f, f)

/-- The drains that have entries to push, of each group the oldest (R292). -/
def State.mrowHeads (s : State) : List (Group × Flight) :=
  s.groups.filterMap fun g =>
    if !s.engineLive g .mat then none
    else (g.flights.find? fun f => f.work.isMrow && !f.done).bind fun f => if f.stopped then none else some (g, f)

/-- Work that MDRAIN_ROW does. -/
def Work.isDrain (w : Work) : Bool :=
  match w with
  | .matrix j => j.kind = 4 || j.kind = 5
  | .mrow _ => true
  | _ => false

/-- MSTAT reads and clears (R279, R289); its result then waits for LONG_LATENCY_COMPLETE. -/
def State.runMstat (s : State) (g : Group) (f : Flight) (t : Nat) (dst : Option Nat) : State :=
  let v := s.tileStatus g t + g.qsat.toNat * 2 ^ 16
  (s.setStatus g t 0).modGroup g.id fun g =>
    { g.modFlight f.id (fun f => { f with work := .results ((dst.map fun n => Dest.scal n (BitVec.ofNat 32 v)).toList) none none }) with
      qsat := 0 }

/-- One row of an MLOAD; the first one clears the tile's status (R289). -/
def State.mloadRow (s : State) (g : Group) (f : Flight) (j : MatrixJob) : State :=
  let i := (lanesOf f.mask).getD f.progress 0
  let s := if f.progress = 0 then s.setStatus g j.tile 0 else s
  s.writeMem (accKey g j.tile i 0) (s.cluRead g j.a (128 * i) 128)

/-- Execute a matrix instruction other than a drain, or one unit of it. -/
def State.runMatrix (s : State) (g : Group) (f : Flight) (j : MatrixJob) : State :=
  let finish (s : State) : State := s.modGroup g.id fun g => g.modFlight f.id fun f => { f with unitAt := s.cycle, work := .performed }
  match j.kind with
  | 2 =>
    let s := (lanesOf f.mask).foldl (fun s i => s.writeRow g j.tile i (List.replicate 32 0)) s
    finish (s.setStatus g j.tile 0)
  | 3 => (s.mloadRow g f j).unitDone g f (decide (laneCountOf f.mask ≤ f.progress + 1))
  | 6 =>
    match s.badLine g (mtrqSource j.fmt) j.a 32 0xFFFFFFFF with
    | some a => s.stopFlight g f (trailerFault a)
    | none => (s.mtrqRow g f j f.progress).unitDone g f (decide (31 ≤ f.progress))
  | _ =>
    match s.mmaBad g f j with
    | some a => s.stopFlight g f (trailerFault a)
    | none => finish (s.runMma g f j)

/-- MATRIX_EXECUTE (R285). -/
def execMatrixExecute (s : State) : Host.Outcome State Fault Refusal :=
  match s.pick (s.matrixHeads.filter fun e => !e.2.work.isDrain) with
  | none => .next s
  | some (g, f) =>
    match f.work with
    | .matrix j => .next (s.runMatrix g f j)
    | .mstat t dst => .next (s.runMstat g f t dst)
    | _ => .next s

/-! ### MDRAIN_ROW (R291, R292) -/

/-- The generator value of an element of a drain (R290). -/
def drainGen (j : MatrixJob) (i col : Nat) : Nat :=
  gen j.seed.toNat ((fieldAt j.fmt 26 3 + i) % 2 ^ 24) ((fieldAt j.fmt 29 3 + col) % 2 ^ 24)

/-- The residual element (R291). -/
def State.residual (s : State) (g : Group) (b : FBlock) (i col : Nat) : FVal :=
  let f := FBlock.resFmt b
  let n := elemBits f / 8
  elemVal f (ofBytes (s.cluRead g (FBlock.resAddr b) (i * resPitch f + col * n) n))

/-- The value of a float accumulator element that enters conversion: an FP32 code. -/
def State.drainValue (s : State) (g : Group) (j : MatrixJob) (i col : Nat) : Nat :=
  let x := s.accum g j.tile i col
  let x := if FBlock.res j.fmt then (fp32.sum .rne false [.val (fp32.decode x), .val (s.residual g j.fmt i col)]).1 else x
  if FBlock.drop j.fmt then
    (if fieldAt j.fmt 20 2 ≤ drainGen j i col / 2 ^ 16 then (fp32.mul .rne x (fieldAt j.fmt 22 4)).1 else 0)
  else x

/-- A value converted to an output format: the code and whether it saturated (R62, R77). -/
def drainConvert (out : Nat) (m : Mode) (v : FVal) : Nat × Bool :=
  let lost (hasNan hasInf : Bool) : Bool := match v with
    | .nan _ => !hasNan
    | .inf _ => !hasInf
    | _ => false
  match out with
  | 0 => ((fp32.convert m v).1, false)
  | 1 => let r := fp16.convert m v; (r.1, r.2.of)
  | 2 => let r := bf16.convert m v; (r.1, r.2.of)
  | 3 => let r := fmtE4m3.convert m v; (r.1, r.2.of || lost true false)
  | 4 => let r := fmtE5m2.convert m v; (r.1, r.2.of)
  | 5 => let r := fmtE2m1.convert m v; (r.1, r.2.of || lost false false)
  | 6 => let r := toLg6 m v; (r.1, r.2.of || lost false false)
  | 8 => let r := toInt 8 m v; (r.1, r.2.of || lost false false)
  | _ => let r := toInt 4 m v; (r.1, r.2.of || lost false false)

/-- One drained element: the magnitude that enters conversion as an FP32 code, its code, whether it saturated. -/
def State.drainElem (s : State) (g : Group) (j : MatrixJob) (i col : Nat) : Nat × Nat × Bool :=
  let out := FBlock.out j.fmt
  if FBlock.isInt j.fmt then
    let t := signed 32 (s.accum g j.tile i col)
    let mag := (fp32.roundFin .rne false t.natAbs 0).1
    if out = 10 then (mag, wrap 32 t, false) else (mag, drainConvert out .rne (intVal t))
  else
    let x := s.drainValue g j i col
    let m : Mode := if FBlock.sr j.fmt && out ≠ 0 then .rsr (drainGen j i col % 2 ^ 16) else .rne
    (x % 2 ^ 31, drainConvert out m (fp32.decode x))

/-- A drained row: its element bytes, its trailer (none for a wide output) and its saturations. -/
def State.drainRow (s : State) (g : Group) (j : MatrixJob) (i : Nat) : List Byte × List Byte × Nat :=
  let out := FBlock.out j.fmt
  let es := (List.range 32).map fun col => s.drainElem g j i col
  let row := packRow out (es.map fun e => e.2.1)
  let sat := (es.filter fun e => e.2.2).length
  let mx := if es.any fun e => (fp32.decode e.1).isNan then fp32.nanCode else (es.map fun e => e.1).foldl max 0
  (row, if quantised out then trailerBytes mx sat row out 0 32 else [], sat)

/-- Write a drained row with its trailer (R291). -/
def State.storeRow (s : State) (g : Group) (f : Flight) (j : MatrixJob) (i : Nat) : State :=
  let r := s.drainRow g j i
  let pad := if r.2.1.isEmpty then [] else List.replicate (roundUp r.1.length 16 - r.1.length) (0 : Byte)
  (s.cluWrite g f j.a (i * rowPitch (FBlock.out j.fmt)) (r.1 ++ pad ++ r.2.1)).noteSat g j.tile r.2.2

/-- The entries of a MDRAIN.MROW (R292). -/
def State.mrowEntries (s : State) (g : Group) (f : Flight) (j : MatrixJob) : List Entry :=
  let rows := (lanesOf f.mask).map fun i => (i, s.drainRow g j i)
  let n := (rowBytes (FBlock.out j.fmt) + if quantised (FBlock.out j.fmt) then 16 else 0) / 4
  (List.range n).map fun e =>
    { words := (List.range 32).map fun l => match rows.find? fun r => r.1 = l with
        | some r => BitVec.ofNat 32 (fieldAt (r.2.1 ++ r.2.2.1) (4 * e) 4)
        | none => 0,
      mask := f.mask }

/-- A MDRAIN.MROW forms its entries; the tile's SAT rises by every row's. -/
def State.formMrow (s : State) (g : Group) (f : Flight) (j : MatrixJob) : State :=
  let sat := ((lanesOf f.mask).map fun i => (s.drainRow g j i).2.2).sum
  let es := s.mrowEntries g f j
  (s.noteSat g j.tile sat).modGroup g.id fun g => g.modFlight f.id fun f => { f with work := .mrow es }

/-- MDRAIN_ROW (R291, R292): one row written, or one entry pushed. -/
def execMdrainRow (s : State) : Host.Outcome State Fault Refusal :=
  match s.pick (s.mrowHeads ++ s.matrixHeads.filter fun e => e.2.work.isDrain) with
  | none => .next s
  | some (g, f) =>
    match f.work with
    | .matrix j =>
      if j.kind = 4 then
        .next ((s.storeRow g f j ((lanesOf f.mask).getD f.progress 0)).unitDone g f (decide (laneCountOf f.mask ≤ f.progress + 1)))
      else .next (s.formMrow g f j)
    | .mrow es =>
      match es with
      | [] => .next (s.modGroup g.id fun g => g.modFlight f.id fun f => { f with work := .performed })
      | e :: t =>
        match g.enginePush .mrow f.id e with
        | none => .next s
        | some g' => .next ((s.modGroup g.id fun _ => g'.modFlight f.id fun f => { f with work := .mrow t }).unitDone g f t.isEmpty)
    | _ => .next s

end Sys2Proof.Machine
end

