-- ==== Sys2Proof/Machine/MemoryInstr.lean ====
section
/-! DEFINITION. Loads, stores, fences, path waits, WAITMEM, base slots, tags and prefetch (R102–R104, R243–R259). -/

namespace Sys2Proof.Machine

open Sys2Proof

/-! ### Addresses -/

/-- The address of LD and ST: the pair plus the sign-extended offset (R103). -/
def Ctx.flatAddr (x : Ctx) (a b : Operand) (l : Nat) : DWord := x.src64 a l + sext64 (x.src b l)

/-- What the slot holds once its oldest outstanding BTSET is done (R248). -/
def Group.slotNew? (g : Group) (k : Nat) : Option BtEntry :=
  g.flights.findSome? fun f => match f.work with
    | .results _ _ (some (j, e)) => if j = k then some e else none
    | _ => none

/-- The slot an LDB or STB uses (R247): while a BTSET of it is outstanding, its old or its new contents, which is free (R248; log 4). -/
def Ctx.slot (x : Ctx) (k : BtSlot) : BtEntry :=
  let e := x.g.bt.getD k.val {}
  match x.g.slotNew? k.val with
  | some n => if Config.laneChoice x.s.tick k.val % 2 = 0 then e else n
  | none => e

/-- The address of LDB and STB: the slot's base plus the unsigned offset (R247). -/
def Ctx.slotAddr (x : Ctx) (k : BtSlot) (b : Operand) (l : Nat) : DWord := (x.slot k).base + zext64 (x.src b l)

/-- A slot serves an access: the offset is below its limit, its lease runs, it permits the access, and a write finds D set; a slot
that does not permit it, or whose D is 0, walks again (R215, R217, R247). -/
def BtEntry.serves (e : BtEntry) (now off : Nat) (write : Bool) : Bool :=
  decide (off < e.limit) && decide (now < e.lease) && (if write then e.w && e.d else e.r)

/-- The checks of one lane of LDB or STB (R247): through the slot when it serves the access, otherwise through a translation. -/
def slotAccess (s : State) (a : Agent) (e : BtEntry) (off ea size : Nat) (write : Bool) : Except Stop (State × Grant) :=
  if ea % size ≠ 0 then .error (some (trap .align))
  else if e.serves s.ns off write then
    let need : Need := { r := !write, w := write }
    s.grantAt (s.placeFor a need (e.phys + off)) (e.phys + off) size need e.t (bits ea 60 4) e.coh e.rep e.lease
  else if !canonical ea then .error (some (trap .canonical))
  else accessMapped s a ea size { r := !write, w := write } true

/-! ### Flat, level and slot accesses -/

/-- LD (R102–R104). -/
def execLd (w : LWidth) (d a b : Operand) (s : State) : Host.Outcome State Fault Refusal :=
  issue (.ld w d a b) s fun x => x.loadGlobal w d (x.flatAddr a b)

/-- ST (R102–R104). -/
def execSt (w : SWidth) (d a b : Operand) (s : State) : Host.Outcome State Fault Refusal :=
  issue (.st w d a b) s fun x => x.storeGlobal w d (x.flatAddr a b)

/-- LDL (R244–R246). -/
def execLdl (w : LWidth) (d a b : Operand) (s : State) : Host.Outcome State Fault Refusal :=
  issue (.ldl w d a b) s fun x => x.loadLevel .lane w d a b

/-- STL (R244–R246). -/
def execStl (w : SWidth) (d a b : Operand) (s : State) : Host.Outcome State Fault Refusal :=
  issue (.stl w d a b) s fun x => x.storeLevel .lane w d a b

/-- LDS (R202, R244–R246). -/
def execLds (w : LWidth) (d a b : Operand) (s : State) : Host.Outcome State Fault Refusal :=
  issue (.lds w d a b) s fun x => x.loadLevel .scratch w d a b

/-- STS (R202, R244–R246). -/
def execSts (w : SWidth) (d a b : Operand) (s : State) : Host.Outcome State Fault Refusal :=
  issue (.sts w d a b) s fun x => x.storeLevel .scratch w d a b

/-- LDC (R203, R204, R244–R246). -/
def execLdc (w : LWidth) (d a b : Operand) (s : State) : Host.Outcome State Fault Refusal :=
  issue (.ldc w d a b) s fun x => x.loadLevel .cluster w d a b

/-- STC (R203, R204, R244–R246). -/
def execStc (w : SWidth) (d a b : Operand) (s : State) : Host.Outcome State Fault Refusal :=
  issue (.stc w d a b) s fun x => x.storeLevel .cluster w d a b

/-- LDD (R207, R244–R246). -/
def execLdd (w : LWidth) (d a b : Operand) (s : State) : Host.Outcome State Fault Refusal :=
  issue (.ldd w d a b) s fun x => x.loadLevel .die w d a b

/-- STD (R207, R244–R246). -/
def execStd (w : SWidth) (d a b : Operand) (s : State) : Host.Outcome State Fault Refusal :=
  issue (.std w d a b) s fun x => x.storeLevel .die w d a b

/-- LDB (R247). -/
def execLdb (w : LWidth) (d : Operand) (k : BtSlot) (b : Operand) (s : State) : Host.Outcome State Fault Refusal :=
  issue (.ldb w d k b) s fun x =>
    let size := loadBytes w
    match eachLane x.s (x.lanesFor d) (x.slotAddr k b) (isScalar d) fun s l =>
        slotAccess s x.g.agent (x.slot k) (x.src b l).toNat (x.slotAddr k b l).toNat size false with
    | .error e => stopRes e
    | .ok (s, gs) => x.loadGranted s w d gs (x.slotAddr k b)

/-- STB (R247). -/
def execStb (w : SWidth) (d : Operand) (k : BtSlot) (b : Operand) (s : State) : Host.Outcome State Fault Refusal :=
  issue (.stb w d k b) s fun x =>
    match eachLane x.s x.activeLanes (x.slotAddr k b) false fun s l =>
        slotAccess s x.g.agent (x.slot k) (x.src b l).toNat (x.slotAddr k b l).toNat (storeSize w) true with
    | .error e => stopRes e
    | .ok (s, gs) => x.storeGranted s gs (x.slotAddr k b) (x.storeData w d)

/-- A fault of an instruction that acts once (R243, R350). -/
def onceFault (e : Stop) (ea : DWord) : Res :=
  match e with
  | some t => .fault { t with tval := 1, byLanes := true, taddr := some ea }
  | none => .hold .map

/-- The attachment and results of BTSET, which acts whatever the guard (R248). -/
def Ctx.fillSlot (x : Ctx) (s : State) (k : Nat) (e : BtEntry) : Res :=
  .done (s.modGroup x.g.id fun g => (x.attached g).addFlight (x.flight x.c.flag (.results [] none (some (k, e)))))

/-- BTSET (R218, R248). -/
def execBtset (k : BtSlot) (a b : Operand) (s : State) : Host.Outcome State Fault Refusal :=
  issue (.btset k a b) s fun x =>
      let p := x.src64 a x.scalarLane
      let n := (x.src b x.scalarLane).toNat
      if !canonical p.toNat then onceFault (some (trap .canonical)) p
      else match translate x.s x.g.ctx x.g.die (p.toNat % 2 ^ 57) {} (some x.g.coreNum) with
        | .error e => onceFault e p
        | .ok (s, t) =>
          x.fillSlot s k.val { base := p, phys := t.pa, t := bit t.leaf 5, r := bit t.leaf 2,
                               w := bit t.leaf 3 && !bit t.leaf 6, rep := bit t.leaf 6,
                               d := bit t.leaf 13, coh := bits t.leaf 8 2, lease := t.expiry, limit := min n t.toEnd }

/-! ### Fences and waits -/

/-- A FENCE of a split (R231, R234): SC makes every path of the split see what its other paths have written. -/
def State.fence (s : State) (g : Group) (p : Split) (sc : Scope) (k : FenceKind) : State :=
  let acq (s : State) : State := (s.addOrder g.id p.mask .acq).acquire ((s.group? g.id).getD g) p.mask sc
  match k with
  | .acq => acq s
  | .rel => (s.harden g.id p.id 4).release g.id p.mask sc
  | .acqrel => acq ((s.harden g.id p.id 4).release g.id p.mask sc)
  | .sc => acq (((s.harden g.id p.id 4).addOrder g.id p.mask .sc (Scope.wide sc)).dropOlds g.id fun o => o.lanes &&& p.mask ≠ 0)

/-- FENCE (R231, R253, R362): it does not hold issue; what it orders holds the later words whose accesses it covers. -/
def execFence (sc : Scope) (k : FenceKind) (s : State) : Host.Outcome State Fault Refusal :=
  issue (.fence sc k) s fun x => .done (x.s.fence x.g x.p sc k)

/-- A PFENCE P, Q of lanes: on path Q they see what their completed instructions of path P wrote (R236, R254). Reads of path Q that have
not been fixed are before it. -/
def State.pfence (s : State) (gid : Nat) (lanes : LaneMask) (p q : Path) : State :=
  match s.group? gid with
  | none => s
  | some g =>
    let seen (o : OldSector) : Bool := o.lanes &&& lanes ≠ 0 && !o.barred.contains q &&
      o.sources.any fun e => e.1 = p && (g.flight? e.2).isNone
    ((g.olds.filter seen).foldl (fun s o => s.fixGroup gid fun r => overlap r.key (loadBytes r.width) o.key 32) s).modGroup gid fun g =>
      { g with olds := g.olds.map fun o => if seen o then { o with barred := o.barred ++ [q] } else o }

/-- PFENCE (R236, R254). -/
def execPfence (pp pq : PathNo) (s : State) : Host.Outcome State Fault Refusal :=
  issue (.pfence pp pq) s fun x =>
    match Path.ofCode? pp.val, Path.ofCode? pq.val with
    | some p, some q =>
      let s := x.s.pfence x.g.id x.p.mask p q
      .done (if q = .glb then s.dropL1 x.g else s)
    | _, _ => .done x.s

/-- Where a WAITP reads its count (R255). -/
def Ctx.waitCount (x : Ctx) (b : Operand) : Nat := (x.src b x.scalarLane).toNat

/-- WAITP (R255); an engine fault of the split is delivered at its hold (R268). -/
def execWaitp (pp : PathNo) (b : Operand) (s : State) : Host.Outcome State Fault Refusal :=
  issue (.waitp pp b) s fun x =>
    match Path.ofCode? pp.val with
    | none => .done x.s
    | some q =>
      if x.g.pathCount q ≤ x.waitCount b then .done x.s
      else match x.g.engineFaultFor x.p with
        | some e => .moved (s.raiseEngine x.g.id x.p.id e)
        | none => .hold .path

/-- The word that a pass of WAITMEM reads in a lane, at its scope and past the caches (R256). -/
def Ctx.passWord (x : Ctx) (s : State) (l : Nat) (gr : Grant) : Nat :=
  { s.dropL1 x.g with l2 := s.l2.filter fun e => e.die ≠ x.g.die || e.own }.readGrant { x.g with olds := [] } x.p (some .glb) l gr 4

/-- One pass of WAITMEM: every lane's word equals its expected value (R256). -/
def Ctx.passEqual (x : Ctx) (s : State) (b : Operand) (gs : List (Nat × Grant)) : Bool :=
  gs.all fun e => x.passWord s e.1 e.2 = (x.src b e.1).toNat

/-- The fault of a pass that another package answers with a denial (R256). -/
def passDenied (s : State) (gs : List (Nat × Grant)) (ea : Nat → DWord) : Option Trap :=
  match deniedLanes s (s.requests gs ea) with
  | [] => none
  | (l, t) :: rest => some { t with tval := maskOf (l :: rest.map fun e => e.1), byLanes := true, taddr := some (ea l) }

/-- WAITMEM (R256): one pass; the split parks when a word differs, and a wake is a progress point (R144). -/
def execWaitmem (sc : Scope) (a b : Operand) (s : State) : Host.Outcome State Fault Refusal :=
  issue (.waitmem sc a b) s fun x =>
    if !x.anyActive then .done x.s
    else match x.lanes x.s x.activeLanes (fun l => x.src64 a l) 4 4 { r := true } true false with
      | .error e => stopRes e
      | .ok (s, gs) =>
        match passDenied s gs (fun l => x.src64 a l), s.poisonOf gs 4 with
        | some t, _ => .fault t
        | none, some t => .fault t
        | none, none =>
          let s := s.orderFor x.g x.p.mask (some .glb) (grantCells gs 4)
          if s.blocked x.g.id x.p.mask (some .glb) (grantCells gs 4) true then .held .path s else
          let s' := if (s.requests gs fun _ => 0).isEmpty then s else s.bump
          let s' := s'.acquire x.g x.p.mask sc
          if x.passEqual s b gs then
            .done (if x.p.hold = .waitmem then s'.modSplit x.g.id x.p.id fun p => { p with wdog := x.g.budget.toNat } else s')
          else .held .waitmem (s'.modSplit x.g.id x.p.id fun p => { p with recheck := false, parkedAt := s.ns })

/-! ### Tags (R257) -/

/-- TAGSET (R257, R258): the data that accesses under the old tags have still to read is read first. -/
def execTagset (d a : Operand) (s : State) : Host.Outcome State Fault Refusal :=
  issue (.tagset d a) s fun x =>
    match x.lanes x.s x.activeLanes (fun l => x.src64 a l) 32 32 { w := true } false false with
    | .error e => stopRes e
    | .ok (s, gs) =>
      let fid := s.nextFlight x.g.id
      let ws := remaining s.tick LaneWrite.place (grantWrites gs fun _ => [])
      let s' := if x.anyActive then s.harden x.g.id x.p.id 2 else s
      let s' := (ws.foldl (fun (s : State) w =>
        (w.key :: (grantOf gs w.lane).elim [] fun gr => gr.copies).foldl (fun s k =>
          (s.fixOver k 32).writeTag k (BitVec.ofNat 4 (x.src d w.lane).toNat)) s) s').bump
      let s' := s'.fetchLines x.g.die true gs
      let s' := s'.sendStores x.g fid x.issueMask x.i.path 1
        ((s.requests gs fun l => x.src64 a l).map fun r => (r, [BitVec.ofNat 8 ((x.src d r.lane).toNat % 16)]))
      x.counted s' .performed [] (linesOf gs)

/-- What TAGGET asks in each lane: a tag of another package comes with the answer (R257, R405). -/
def Ctx.tagsBy (x : Ctx) (s : State) (fid : Nat) (gs : List (Nat × Grant)) (ea : Nat → DWord) : List (Nat × Grant × ReadBy) × State :=
  gs.foldl (fun acc e => match e.2.place with
    | .remote p r =>
      let t := x.readAway acc.2 1 fid p r e (ea e.1)
      (acc.1 ++ [(e.1, e.2, t.1)], t.2)
    | _ => (acc.1 ++ [(e.1, e.2, ReadBy.now)], acc.2.fetchLines x.g.die false [e])) ([], s)

/-- TAGGET (R257). -/
def execTagget (d a : Operand) (s : State) : Host.Outcome State Fault Refusal :=
  issue (.tagget d a) s fun x =>
    let ea (l : Nat) : DWord := x.src64 a l
    match x.lanes x.s (x.lanesFor d) ea 32 32 { r := true } false (isScalar d) with
    | .error e => stopRes e
    | .ok (s, gs) =>
      let fid := s.nextFlight x.g.id
      let r := x.tagsBy s fid gs ea
      let late (l : Nat) : Bool := r.1.any fun e => e.1 = l && (match e.2.2 with
        | .answer _ => true
        | _ => false)
      let lost := (r.1.filter fun e => match e.2.2 with
        | .lost => true
        | _ => false).map fun e => (e.1, remoteDenial)
      let lanes := (r.1.map fun e => e.1).filter fun l => !(lost.any fun e => e.1 = l)
      let o := x.loadOut .n32 d lanes late
        (fun l => (r.1.find? fun e => e.1 = l).elim { lane := l, key := 0, width := .n32, dests := [] } fun e =>
          { lateRead .n32 l e.2.1 e.2.2 with forTag := true })
        fun l => (grantOf gs l).elim 0 fun gr => match gr.place with
          | .cell k _ => (s.tagAt k).toNat
          | _ => 0
      let s' := if lost.isEmpty then r.2 else r.2.modGroup x.g.id fun g => g.addDenied fid x.issueMask x.i.path ea lost
      x.later s'.bump o.1 none o.2

/-- TAGPTR (R257). -/
def execTagptr (d a b : Operand) (s : State) : Host.Outcome State Fault Refusal :=
  issue (.tagptr d a b) s fun x =>
    x.write (x.out d fun l => wordsOf true ((x.src64 a l).toNat % 2 ^ 60 + bits (x.src b l).toNat 0 4 * 2 ^ 60))

/-- PREF (R259): a hint with no effect but the pop of its port. -/
def execPref (lv : PrefLevel) (a b : Operand) (s : State) : Host.Outcome State Fault Refusal :=
  issue (.pref lv a b) s fun x => .done x.s

/-! ### Events of WAITMEM and of leases -/

/-- A parked WAITMEM of a group's split makes a pass at its next turn. -/
def State.recheckSplit (s : State) (gid pid : Nat) : State := s.modSplit gid pid fun p => { p with recheck := true }

/-- The split that an event names, when it is parked at a WAITMEM. -/
def State.parked? (s : State) (gid pid : Nat) : Option Split :=
  (s.group? gid).bind fun g => (g.split? pid).bind fun p => if p.hold = .waitmem && p.pend.isNone then some p else none

/-- WAITMEM_WAKE (R256): a write to one of its lines was performed. -/
def execWaitmemWake (gid pid : Nat) (s : State) : Host.Outcome State Fault Refusal :=
  match s.parked? gid pid with
  | some _ => .next (s.recheckSplit gid pid)
  | none => .next s

/-- WAITMEM_RECHECK (R256): 4 µs have passed since it parked; suspended while the package is halted (R375). -/
def execWaitmemRecheck (gid pid : Nat) (s : State) : Host.Outcome State Fault Refusal :=
  match s.parked? gid pid with
  | some p => if s.halted then .next s
    else .next ({ s with ns := max s.ns (p.parkedAt + 4000) }.recheckSplit gid pid)
  | none => .next s

/-- A bound in cycles from SR_QLIMIT; 63 disables the checks (R148). -/
def Group.holdLimit (g : Group) : Option Nat := if g.qlimit = 63 then none else some (2 ^ g.qlimit.toNat)

/-- WATCHDOG_MEMWAIT (R256). -/
def execWatchdogMemwait (gid pid : Nat) (s : State) : Host.Outcome State Fault Refusal :=
  match s.parked? gid pid, (s.group? gid).bind Group.holdLimit with
  | some p, some n =>
    if s.halted then .next s
    else .next ({ s with cycle := max s.cycle (p.holdSince + n + 1) }.raise gid pid { trap .watchdog with tval := 2 })
  | _, _ => .next s

/-- The ends of the leases of cached translations and non-leaf entries (R219). -/
def State.leaseEnds (s : State) : List Nat := s.tlb.map (fun t => t.expiry) ++ s.walks.map fun w => w.expiry

/-- LEASE_EXPIRY (R219): what was cached under leases that have ended is gone; the clock moves to the earliest end. -/
def execLeaseExpiry (s : State) : Host.Outcome State Fault Refusal :=
  match s.leaseEnds with
  | [] => .next s
  | e :: rest =>
    let now := max s.ns (rest.foldl min e)
    .next { s with ns := now, tlb := s.tlb.filter (fun u => decide (now < u.expiry)), walks := s.walks.filter fun w => decide (now < w.expiry) }

end Sys2Proof.Machine
end

