-- ==== Sys2Proof/Machine/Rays.lean ====
section
/-! DEFINITION. The ray pool, traversal, the ray ports and HGFETCH (R326–R343, R348, R349, R455). -/

namespace Sys2Proof.Machine

open Sys2Proof

/-! ### The pool (R326–R329) -/

/-- Address of the pool header: SR_RPOOL without its reserved bits. -/
def poolBase (rpool : DWord) : Nat := bits rpool.toNat 7 50 * 128 + bits rpool.toNat 60 4 * 2 ^ 60

/-- Address of a slot's ray record; its state record lies 64 bytes on. -/
def slotAddr (rpool : DWord) (slot : Nat) : Nat := (poolBase rpool + 128 + 128 * slot) % 2 ^ 64

/-- Read the pool: R and W permission (R327); the reads of an operation are one act with its writes (R340, R343). -/
def poolRead (s : State) (g : Group) (ea n : Nat) : Except Stop (State × List Byte) :=
  engineRead s g (ea % 2 ^ 64) n { r := true, pw := true } none true

/-- Write the pool. -/
def poolWrite (s : State) (g : Group) (ea : Nat) (bs : List Byte) : Except Stop State :=
  engineWrite s g none (ea % 2 ^ 64) bs { r := true, w := true }

def getNum (s : State) (g : Group) (ea n : Nat) : Except Stop (State × Nat) :=
  match poolRead s g ea n with
  | .ok (s, bs) => .ok (s, ofBytes bs)
  | .error e => .error e

def putNum (s : State) (g : Group) (ea n v : Nat) : Except Stop State := poolWrite s g ea (bytesOf n v)

/-- Several writes, in order. -/
def putNums (s : State) (g : Group) (ws : List (Nat × Nat × Nat)) : Except Stop State :=
  ws.foldl (fun r w => match r with
    | .ok s => putNum s g w.1 w.2.1 w.2.2
    | .error e => .error e) (.ok s)

/-- A pool header (R327). -/
structure Pool where
  root : Nat
  cap : Nat
  free : Nat
  drops : Nat

def readPool (s : State) (g : Group) (rpool : DWord) : Except Stop (State × Pool) :=
  match poolRead s g (poolBase rpool) 32 with
  | .error e => .error e
  | .ok (s, bs) =>
    let cap := fieldAt bs 8 4
    .ok (s, { root := fieldAt bs 0 8, cap := if 2 ^ 24 < cap then 0 else cap, free := fieldAt bs 12 4, drops := fieldAt bs 16 4 })

/-- A dropped slot operation (R340). -/
def dropLane (s : State) (g : Group) (rpool : DWord) (p : Pool) : Except Stop State :=
  putNum s g (poolBase rpool + 16) 4 (min 0xFFFFFFFF (p.drops + 1))

/-- A ray record (R328). -/
structure RayRec where
  bytes : List Byte

def RayRec.word (r : RayRec) (off : Nat) : Nat := fieldAt r.bytes off 4
def RayRec.status (r : RayRec) : Nat := let n := fieldAt r.bytes 0x24 1; if n < 8 then n else 0
def RayRec.kind (r : RayRec) : Nat := fieldAt r.bytes 0x25 1
def RayRec.origin (r : RayRec) : List Nat := [r.word 0, r.word 4, r.word 8]
def RayRec.dir (r : RayRec) : List Nat := [r.word 16, r.word 20, r.word 24]
def RayRec.tmin (r : RayRec) : Nat := r.word 12
def RayRec.tmax (r : RayRec) : Nat := r.word 28
def RayRec.flag (r : RayRec) (k : Nat) : Bool := bit (r.word 32) k

def readRay (s : State) (g : Group) (rpool : DWord) (slot : Nat) : Except Stop (State × RayRec) :=
  match poolRead s g (slotAddr rpool slot) 64 with
  | .error e => .error e
  | .ok (s, bs) => .ok (s, ⟨bs⟩)

/-- Compare two FP32 numbers exactly; nothing compares with NaN. -/
def fp32Le (a b : Nat) : Option Bool :=
  if (fp32.decode a).isNan || (fp32.decode b).isNan then none else some (!fp32.less b a)

def isFinite32 (c : Nat) : Bool :=
  match fp32.decode c with
  | .fin .. => true
  | _ => false

/-- A degenerate ray (R341). -/
def RayRec.degenerate (r : RayRec) : Bool :=
  (r.origin ++ r.dir).any (fun c => !isFinite32 c) || r.dir.all (fun c => c % 2 ^ 31 = 0) ||
  (fp32.decode r.tmin).isNan || (fp32.decode r.tmax).isNan || fp32.less r.tmin 0 || fp32.less r.tmax r.tmin

/-! ### The state record (R329, R349, R455) -/

def RayWalk.ctl (r : RayWalk) : Nat :=
  r.stack.length + 16 * r.ovf.toNat + 32 * r.inst.isSome.toNat + 256 * r.inst.getD 0

/-- The 64 bytes of a state record; stack entries at DEPTH and above are open (log 4). -/
def RayWalk.bytes (r : RayWalk) (tick : Nat) : List Byte :=
  bytesOf 4 r.node.toNat ++ bytesOf 4 r.ctl ++
  (List.range 14).flatMap fun k => bytesOf 4 ((r.stack.reverse[k]?).getD (Config.freeWord (tick + k))).toNat

def writeState (s : State) (g : Group) (r : RayWalk) : Except Stop State :=
  match poolWrite s g (slotAddr r.pool r.slot + 64) (r.bytes s.tick) with
  | .ok s => .ok { s with tick := s.tick + 14 }
  | .error e => .error e

/-- The walk that a state record describes (R455). -/
def walkOf (bs : List Byte) (slot : Nat) (pool : DWord) (had popFirst : Bool) (trace : TraceNote) (split issue : Nat) : RayWalk :=
  let ctl := fieldAt bs 4 4
  let depth := min 14 (bits ctl 0 4)
  { slot, node := BitVec.ofNat 32 (fieldAt bs 0 4), ovf := bit ctl 4, inst := if bit ctl 5 then some (bits ctl 8 24) else none,
    stack := ((List.range depth).map fun k => BitVec.ofNat 32 (fieldAt bs (8 + 4 * k) 4)).reverse, had, popFirst, pool,
    trace, split, issue }

/-! ### Batches (R338) -/

/-- Where the writes to a pool address are acknowledged: the lines of this package, or the address in another one (R226, R339). -/
def poolPlace (s : State) (g : Group) (ea : Nat) : List Nat × List Nat :=
  match engineAccess s g (ea % 2 ^ 64) 1 { r := true, pw := true } with
  | .ok (_, gr) => match gr.place with
    | .remote _ a => ([], [a / 128])
    | _ => (linesOf [(0, gr)], [])
  | .error _ => ([], [])

def RayBatch.add (b : RayBatch) (slot cycle : Nat) (at_ : List Nat × List Nat) : RayBatch :=
  { slots := b.slots ++ [slot], since := if b.slots.isEmpty then cycle else b.since,
    lines := b.lines ++ at_.1, far := b.far ++ at_.2 }

/-- A ray's slot may still enter the batch of a code: its port is bound, not drained since, and lanes are left to pop. -/
def Group.reports (g : Group) (code : EnginePort) (issue : Nat) : Bool :=
  match g.portOf code with
  | some n => !g.empty && decide ((g.ports.getD n {}).drain ≤ issue)
  | none => false

def Group.addHit (g : Group) (slot issue cycle : Nat) (at_ : List Nat × List Nat) : Group :=
  if g.reports .rayhit issue then { g with hitBatch := g.hitBatch.add slot cycle at_ } else g

def Group.addIsect (g : Group) (slot issue cycle : Nat) (at_ : List Nat × List Nat) : Group :=
  if g.reports .rayisect issue then { g with isectBatch := g.isectBatch.add slot cycle at_ } else g

/-- A finished ray's slot enters the group's RAYHIT batch. -/
def State.reportHit (s : State) (g : Group) (pool : DWord) (slot issue : Nat) : State :=
  s.modGroup g.id fun h => h.addHit slot issue s.cycle (poolPlace s g (slotAddr pool slot))

/-- A suspended ray's slot enters the group's RAYISECT batch. -/
def State.reportIsect (s : State) (g : Group) (pool : DWord) (slot issue : Nat) : State :=
  s.modGroup g.id fun h => h.addIsect slot issue s.cycle (poolPlace s g (slotAddr pool slot))

/-! ### Slot operations (R340) -/

/-- What a slot operation needs of its issue. -/
structure SlotIssue where
  mask : LaneMask
  split : Nat
  issue : Nat

/-- A note of the TRACE of a slot of the pool that a group's register names. -/
def TraceNote.isOf (n : TraceNote) (g : Group) (slot : Nat) : Bool :=
  n.ctx = g.ctx && n.slot = slot && bits n.pool.toNat 7 50 = bits g.rpool.toNat 7 50

/-- The note of a TRACE by a slot operation of a group. -/
def SlotIssue.note (i : SlotIssue) (g : Group) (slot : Nat) : TraceNote := ⟨g.ctx, g.id, i.issue, g.rpool, slot, i.mask⟩

/-- The TRACE of a slot, by whichever group of the context; a slot that no TRACE started has the given one (log 61). -/
def State.traceOf (s : State) (g : Group) (i : SlotIssue) (slot : Nat) : TraceNote :=
  (s.traces.find? fun n => n.isOf g slot).getD (i.note g slot)

/-- A ray starts: its TRACE is noted (R342). -/
def State.startRay (s : State) (g : Group) (i : SlotIssue) (slot : Nat) : State :=
  let n := i.note g slot
  let ray : RayWalk := { slot, node := 0x10000000, pool := g.rpool, trace := n, split := i.split, issue := i.issue, unitAt := s.cycle }
  State.modGroup { s with traces := s.traces.filter (fun m => !m.isOf g slot) ++ [n] } g.id fun g => { g with rays := g.rays ++ [ray] }

/-- One lane of TRACE. -/
def traceLane (s : State) (g : Group) (i : SlotIssue) (slot : Nat) : Except Stop State :=
  match readPool s g g.rpool with
  | .error e => .error e
  | .ok (s, p) =>
    if p.cap ≤ slot then dropLane s g g.rpool p
    else match readRay s g g.rpool slot with
      | .error e => .error e
      | .ok (s, r) =>
        let a := slotAddr g.rpool slot
        if r.status ≠ 1 then dropLane s g g.rpool p
        else if r.degenerate then
          match putNum s g (a + 0x24) 1 6 with
          | .error e => .error e
          | .ok s => .ok (s.reportHit g g.rpool slot i.issue)
        else match putNum s g (a + 0x24) 4 2 with
          | .error e => .error e
          | .ok s => .ok (s.startRay g i slot)

/-- One lane of RESUME. -/
def resumeLane (s : State) (g : Group) (i : SlotIssue) (slot b : Nat) : Except Stop State :=
  match readPool s g g.rpool with
  | .error e => .error e
  | .ok (s, p) =>
    if p.cap ≤ slot then dropLane s g g.rpool p
    else match readRay s g g.rpool slot, poolRead s g (slotAddr g.rpool slot + 64) 64 with
      | .error e, _ => .error e
      | _, .error e => .error e
      | .ok (_, r), .ok (s, st) =>
        let a := slotAddr g.rpool slot
        if r.status ≠ 3 && r.status ≠ 7 then dropLane s g g.rpool p
        else
          let shorter := fp32Le r.tmax b == some false
          match putNums s g ((if shorter then [(a + 0x1C, 4, b)] else []) ++ [(a + 0x24, 1, 2)]) with
          | .error e => .error e
          | .ok s => .ok (s.modGroup g.id fun g => { g with rays := g.rays ++
              [{ walkOf st slot g.rpool (r.kind ≠ 0) (r.status = 3) (s.traceOf g i slot) i.split i.issue with unitAt := s.cycle }] })

/-- A candidate at t is accepted (R335); t and the bounds are FP32, and nothing compares with NaN. -/
def acceptable (r : RayRec) (t : Nat) : Bool :=
  fp32Le r.tmin t == some true && (if r.kind = 0 then fp32Le t r.tmax == some true else fp32Le r.tmax t == some false)

/-- Read a number outside the pool. -/
def readNum (s : State) (g : Group) (ea n : Nat) : Except Stop (State × Nat) :=
  match engineRead s g (ea % 2 ^ 64) n with
  | .ok (s, bs) => .ok (s, ofBytes bs)
  | .error e => .error e

/-- One lane of COMMIT. -/
def commitLane (s : State) (g : Group) (slot t : Nat) : Except Stop State :=
  match readPool s g g.rpool with
  | .error e => .error e
  | .ok (s, p) =>
    if p.cap ≤ slot then dropLane s g g.rpool p
    else match readRay s g g.rpool slot, getNum s g (slotAddr g.rpool slot + 68) 4 with
      | .error e, _ => .error e
      | _, .error e => .error e
      | .ok (_, r), .ok (s, ctl) =>
        let a := slotAddr g.rpool slot
        if r.status ≠ 3 then dropLane s g g.rpool p
        else if !acceptable r t then .ok s
        else match (if bit ctl 5 then readNum s g (p.root + 128 * bits ctl 8 24 + 0x38) 4 else .ok (s, 0xFFFFFFFF)) with
          | .error e => .error e
          | .ok (s, inst) => putNums s g [(a + 0x25, 1, 3), (a + 0x2C, 4, inst), (a + 0x30, 4, t), (a + 0x1C, 4, t)]

/-- A ray of a slot of the pool that a register names. -/
def RayWalk.isOf (r : RayWalk) (rpool : DWord) (slot : Nat) : Bool :=
  r.slot = slot && bits r.pool.toNat 7 50 = bits rpool.toNat 7 50

/-- A TRAVERSING ray of a freed slot, in whichever group (R340). -/
def State.abandonRays (s : State) (g : Group) (slot : Nat) : State :=
  { s with groups := s.groups.map fun h =>
      if h.ctx = g.ctx then
        { h with rays := h.rays.map fun (r : RayWalk) => if r.isOf g.rpool slot then { r with abandoned := true } else r }
      else h }

/-- One lane of RPFREE. -/
def rpfreeLane (s : State) (g : Group) (slot : Nat) : Except Stop State :=
  match readPool s g g.rpool with
  | .error e => .error e
  | .ok (s, p) =>
    if p.cap ≤ slot then dropLane s g g.rpool p
    else match readRay s g g.rpool slot with
      | .error e => .error e
      | .ok (s, r) =>
        let a := slotAddr g.rpool slot
        if r.status = 0 then dropLane s g g.rpool p
        else match putNums s g [(a + 0x24, 1, 0), (a + 0x3C, 4, p.free), (poolBase g.rpool + 12, 4, slot)] with
          | .error e => .error e
          | .ok s => .ok (if r.status = 2 then s.abandonRays g slot else s)

/-- The engine fault of a lane whose pool access fails, or of a ray (R340, R342). -/
def rayFault (t : Trap) (n : TraceNote) : EngineFault :=
  { issue := n.issue, mask := n.mask, path := Path.code .ray,
    trap := { t with tval := BitVec.ofNat 32 (n.slot % 2 ^ 24), byLanes := false, flight := none } }

/-- The fault goes to the group of the TRACE, whichever group resumed the ray (R342); with its lanes exited it is fatal to the
context, and an error that a hardware access met freezes the control unit (R351). -/
def State.addRayFault (s : State) (g : Group) (t : Trap) (n : TraceNote) : State :=
  match t.freezes with
  | some d => s.freezeMaster d .control
  | none =>
    let s := s.discardStale t
    let e := rayFault t n
    match s.group? n.group with
    | none => { s with fatals := s.fatals ++ [s.recordFor g { id := 0, mask := n.mask, pc := 0, wdog := 0 } (engineTrap e) 1 false] }
    | some h =>
      if t.cause.cls = .f || h.allExited n.mask then s.fatalFor h n.mask (engineTrap e)
      else s.modGroup h.id fun h => { h with efaults := h.efaults ++ [e] }

/-- Take the lanes of a slot operation in ascending order, each as one act; `none` while an access waits at the walker. -/
def slotLanes (s : State) (gid : Nat) (i : SlotIssue) (slots : List (Nat × Nat))
    (f : State → Group → Nat → Nat → Except Stop State) : Option State :=
  slots.foldl (fun (o : Option State) e =>
    o.bind fun s => match s.group? gid with
      | none => some s
      | some g => match f s g e.1 e.2 with
        | .ok s => some s
        | .error none => none
        | .error (some t) => some (s.addRayFault g t (i.note g e.2))) (some s)

/-- The packets that have gone to other packages since a state are an instruction's: it is performed when they are acknowledged (R226). -/
def State.claim (s : State) (before : State) (gid fid : Nat) : State :=
  let n := before.fabricOut.length
  { s with fabricOut := s.fabricOut.take n ++ (s.fabricOut.drop n).map fun (f : FabricPacket) => { f with owner := some (gid, fid) } }

/-- The lines of a pool's header and slots (R239). -/
def poolLines (s : State) (g : Group) (slots : List Nat) : List Nat :=
  ((poolBase g.rpool :: slots.map (slotAddr g.rpool)).flatMap fun ea => (poolPlace s g ea).1).eraseDups

/-- The lanes of a slot operation, from a state (R340): its counter falls when its writes are performed. -/
def Ctx.slots (x : Ctx) (s : State) (a : Operand) (f : SlotIssue → State → Group → Nat → Nat → Except Stop State) (s₀ : State) : Res :=
  let i : SlotIssue := ⟨x.issueMask, x.p.id, x.g.nextFlight⟩
  let ns := x.activeLanes.map fun l => (l, (x.src a l).toNat)
  match slotLanes s x.g.id i ns (f i) with
  | none => .held .map s₀
  | some t => x.counted (t.claim s x.g.id (s.nextFlight x.g.id)) .performed [] (poolLines t x.g (ns.map fun e => e.2))

/-- A slot operation of the active lanes (R340). -/
def Ctx.slotOp (x : Ctx) (a : Operand) (f : SlotIssue → State → Group → Nat → Nat → Except Stop State) : Res :=
  if !x.anyActive then .done x.s else x.slots (x.s.harden x.g.id x.p.id 3) a f x.s

/-- One that acts as a release at PNL before it takes effect (R339). -/
def Ctx.releasedSlotOp (x : Ctx) (a : Operand) (f : SlotIssue → State → Group → Nat → Nat → Except Stop State) : Res :=
  if !x.anyActive then .done x.s else x.afterRelease 3 fun s => x.slots s a f s

/-- Rays in flight on a core (R340). -/
def State.raysOn (s : State) (g : Group) : Nat :=
  ((s.groups.filter fun h => s.onCore h && h.die = g.die && h.core = g.core).map fun h => h.rays.length).sum

/-- The core's unit has no room for the lanes of a TRACE or RESUME. -/
def Ctx.raysFull (x : Ctx) : Bool := decide (2048 < x.s.raysOn x.g + x.activeLanes.length)

/-- TRACE (R340). -/
def execTrace (a : Operand) (s : State) : Host.Outcome State Fault Refusal :=
  issue (.trace a) s fun x =>
    if x.raysFull then .hold .port else x.slotOp a fun i s g _ slot => traceLane s g i slot

/-- RESUME (R339, R340). -/
def execResume (a b : Operand) (s : State) : Host.Outcome State Fault Refusal :=
  issue (.resume a b) s fun x =>
    if x.raysFull then .hold .port else x.releasedSlotOp a fun i s g l slot => resumeLane s g i slot (x.src b l).toNat

/-- COMMIT (R335, R339, R340). -/
def execCommit (a b : Operand) (s : State) : Host.Outcome State Fault Refusal :=
  issue (.commit a b) s fun x => x.releasedSlotOp a fun _ s g l slot => commitLane s g slot (x.src b l).toNat

/-- RPFREE (R340). -/
def execRpfree (a : Operand) (s : State) : Host.Outcome State Fault Refusal :=
  issue (.rpfree a) s fun x => x.slotOp a fun _ s g _ slot => rpfreeLane s g slot

/-- Groups with an entry in their TRACECMD port that fits the unit. -/
def State.traceCmds (s : State) : List (Group × Nat × Entry) :=
  s.groups.filterMap fun g =>
    if !s.engineLive g .ray || g.empty then none
    else (g.portOf .tracecmd).bind fun n => ((g.ports.getD n {}).entries.head?).bind fun e =>
      if s.raysOn g + laneCountOf e.mask ≤ 2048 then some (g, n, e) else none

/-- The traversal unit takes an entry of a TRACECMD port: a TRACE by the pushing split (R340). -/
def State.takeTrace (s : State) (g : Group) (n : Nat) (e : Entry) : State :=
  let mask := if e.issue = 0 then (g.split? e.split).elim 0 fun p => p.mask else e.issue
  let i : SlotIssue := ⟨mask, e.split, g.nextFlight⟩
  let s0 := s.harden g.id e.split 3
  match slotLanes s0 g.id i ((lanesOf e.mask).map fun l => (l, (e.words.getD l 0).toNat)) (fun s g _ slot => traceLane s g i slot) with
  | none => s
  | some t => (t.claim s0 g.id i.issue).modGroup g.id fun h => (h.popPort n).addFlight
      { id := 0, split := e.split, mask, lanes := mask, flag := none, path := some .ray, work := .performed,
        lines := poolLines t g ((lanesOf e.mask).map fun l => (e.words.getD l 0).toNat) }

/-! ### RPALLOC (R343) -/

/-- One lane of RPALLOC: the slot it receives. -/
def rpallocLane (s : State) (g : Group) : Except Stop (State × Nat) :=
  match readPool s g g.rpool with
  | .error e => .error e
  | .ok (s, p) =>
    if p.free = 0xFFFFFFFF || decide (p.cap ≤ p.free) then .ok (s, 0xFFFFFFFF)
    else
      let a := slotAddr g.rpool p.free
      match getNum s g (a + 0x3C) 4 with
      | .error e => .error e
      | .ok (s, next) =>
        match putNums s g [(poolBase g.rpool + 12, 4, next), (a + 0x24, 4, 1), (a + 0x3C, 4, 0)] with
        | .error e => .error e
        | .ok s => .ok (s, p.free)

/-- RPALLOC's lanes in order: the state, what the served lanes received, and the fault that stopped it with the lanes left. -/
def rpallocLanes (s : State) (gid : Nat) (lanes : List Nat) : State × List (Nat × Nat) × Option (Stop × List Nat) :=
  match lanes with
  | [] => (s, [], none)
  | l :: t =>
    match s.group? gid with
    | none => (s, [], none)
    | some g =>
      match rpallocLane s g with
      | .error e => (s, [], some (e, l :: t))
      | .ok (s, n) =>
        let r := rpallocLanes s gid t
        (r.1, (l, n) :: r.2.1, r.2.2)

/-- RPALLOC (R343): the lanes served before a fault keep their slots and have d written, or pushed, with them. -/
def execRpalloc (d : Operand) (s : State) : Host.Outcome State Fault Refusal :=
  issue (.rpalloc d) s fun x =>
    if !acts x.i x.c then .done (x.mod x.attached)
    else
      let s := x.s.harden x.g.id x.p.id 3
      let r := rpallocLanes s x.g.id (x.lanesFor d)
      let val (l : Nat) : Word := match r.2.1.find? fun e => e.1 = l with
        | some e => BitVec.ofNat 32 e.2
        | none => 0
      match r.2.2 with
      | none => x.later (r.1.claim s x.g.id (s.nextFlight x.g.id)) (x.outOn (x.lanesFor d) d fun l => [val l]) none []
          (poolLines r.1 x.g (r.2.1.map fun e => e.2))
      | some (none, _) => .hold .map
      | some (some t, left) =>
        let o := if r.2.1.isEmpty then {} else x.outOn (r.2.1.map fun e => e.1) d fun l => [val l]
        if o.push.elim false fun e => x.g.portFull e.1 then .hold .port
        else
        let s := r.1.modGroup x.g.id fun g => o.push.elim (g.applyDests o.ds) fun e => (g.applyDests o.ds).pushPort e.1 e.2
        .moved (s.raise x.g.id x.p.id { t with tval := if isScalar d then 1 else maskOf left, byLanes := true })

/-! ### Exact intersection (R332, R333) -/

/-- A real number or an infinity. -/
inductive Ext where
  | neg
  | pos
  | q (n : Int) (d : Nat)

def Ext.le (a b : Ext) : Bool :=
  match a, b with
  | .neg, _ => true
  | _, .pos => true
  | .pos, _ => false
  | _, .neg => false
  | .q n d, .q m e => decide (n * e ≤ m * d)

def Ext.max (a b : Ext) : Ext := if a.le b then b else a
def Ext.min (a b : Ext) : Ext := if a.le b then a else b

/-- An FP32 number; none for NaN. -/
def extOf (c : Nat) : Option Ext :=
  match fp32.decode c with
  | .nan _ => none
  | .inf n => some (if n then .neg else .pos)
  | v => some (.q (finUnits (-149) v) (2 ^ 149))

/-- A finite FP32 number in units of 2^−149. -/
def fixOf (c : Nat) : Option Int :=
  match fp32.decode c with
  | .fin n m e => some (finUnits (-149) (.fin n m e))
  | _ => none

/-- (c − o) / d for a box coordinate. -/
def slabAt (c : Ext) (o d : Int) : Ext :=
  match c with
  | .neg => if d < 0 then .pos else .neg
  | .pos => if d < 0 then .neg else .pos
  | .q n _ => if d < 0 then .q (o - n) d.natAbs else .q (n - o) d.natAbs

/-- A ray as the unit walks it: origin and direction, FP32. -/
structure Ray where
  o : List Nat
  d : List Nat

/-- The answer of a test. -/
inductive Test (α : Type) where
  | miss
  | hit (x : α)
  /-- A NaN or an infinity where R332 and R333 reckon with numbers: the answer is open (log 4). -/
  | open_

/-- One axis of a box, the numbers in FP32: the interval of t, or no t. An axis whose min lies above its max, and one without
direction whose slab the origin is not inside, has no t whatever the others hold. -/
def slab (lo hi o d : Nat) : Test (Ext × Ext) :=
  if fp32Le lo hi = some false then .miss
  else if d % 2 ^ 31 = 0 then
    (if fp32Le lo o = some true && fp32Le o hi = some true then .hit (.neg, .pos) else .miss)
  else match extOf lo, extOf hi, fixOf o, fixOf d with
    | some lo, some hi, some o, some d =>
      let a := slabAt lo o d
      let b := slabAt hi o d
      .hit (a.min b, a.max b)
    | _, _, _, _ => .open_

/-- The intersection of two tests' intervals. -/
def meet (a b : Test (Ext × Ext)) : Test (Ext × Ext) :=
  match a, b with
  | .miss, _ => .miss
  | _, .miss => .miss
  | .hit i, .hit j => .hit (i.1.max j.1, i.2.min j.2)
  | _, _ => .open_

/-- tn of a box that is hit (R332). -/
def boxTest (r : Ray) (tmin tmax : Nat) (c : List Nat) : Test Ext :=
  let bounds : Test (Ext × Ext) := match extOf tmin, extOf tmax with
    | some lo, some hi => .hit (lo, hi)
    | _, _ => .open_
  match ([0, 1, 2].map fun k => slab (c.getD k 0) (c.getD (3 + k) 0) (r.o.getD k 0) (r.d.getD k 0)).foldl meet bounds with
  | .hit i => if i.1.le i.2 then .hit i.1 else .miss
  | .miss => .miss
  | .open_ => .open_

abbrev Vec3 := Int × Int × Int

def vec3 (cs : List Nat) : Option Vec3 :=
  match cs.map fixOf with
  | [some x, some y, some z] => some (x, y, z)
  | _ => none

def Vec3.sub (a b : Vec3) : Vec3 := (a.1 - b.1, a.2.1 - b.2.1, a.2.2 - b.2.2)
def Vec3.scale (k : Int) (a : Vec3) : Vec3 := (k * a.1, k * a.2.1, k * a.2.2)
def Vec3.add (a b : Vec3) : Vec3 := (a.1 + b.1, a.2.1 + b.2.1, a.2.2 + b.2.2)
def Vec3.dot (a b : Vec3) : Int := a.1 * b.1 + a.2.1 * b.2.1 + a.2.2 * b.2.2
def Vec3.cross (a b : Vec3) : Vec3 :=
  (a.2.1 * b.2.2 - a.2.2 * b.2.1, a.2.2 * b.1 - a.1 * b.2.2, a.1 * b.2.1 - a.2.1 * b.1)

/-- A triangle's hit: t exact, and t, b1, b2 as FP32, and whether it is a back hit. -/
structure TriHit where
  exact : Ext
  t : Nat
  b1 : Nat
  b2 : Nat
  back : Bool

/-- n/d, with d ≠ 0, as an exact number and rounded once to FP32. -/
def ratio (n d : Int) : Ext := .q (if d < 0 then -n else n) d.natAbs

def round32 (n d : Int) : Nat :=
  if n = 0 then 0 else (fp32.round .rne ((n < 0) != (d < 0)) n.natAbs d.natAbs).1

/-- The exact triangle test (R333), without the bounds of t. -/
def triTest (r : Ray) (v0 v1 v2 : List Nat) : Test TriHit :=
  match vec3 r.o, vec3 r.d, vec3 v0, vec3 v1, vec3 v2 with
  | some o, some d, some a, some b, some c =>
    let e1 := b.sub a
    let e2 := c.sub a
    let n := e1.cross e2
    let den := n.dot d
    if den = 0 then .miss
    else
      let num := n.dot (a.sub o)
      let q := ((o.sub a).scale den).add (d.scale num)
      let nn := den * n.dot n
      let b1 := (q.cross e2).dot n
      let b2 := (e1.cross q).dot n
      let inside := if 0 < nn then decide (0 ≤ b1) && decide (0 ≤ b2) && decide (b1 + b2 ≤ nn)
        else decide (b1 ≤ 0) && decide (b2 ≤ 0) && decide (nn ≤ b1 + b2)
      if inside then .hit { exact := ratio num den, t := round32 num den, b1 := round32 b1 nn, b2 := round32 b2 nn, back := 0 < den }
      else .miss
  | _, _, _, _, _ => .open_

/-- One component of a transformed vector: exact, then rounded once (R334). -/
def transformRow (m : List Nat) (v : List Nat) (translate : Bool) : Nat :=
  let d (c : Nat) : FVal := fp32.decode c
  let ps := [0, 1, 2].map fun k => mulVal (d (m.getD k 0)) (d (v.getD k 0))
  (fp32.sum .rne false (ps ++ if translate then [.val (d (m.getD 3 0))] else [])).1

/-- The ray in an instance's space (R334). -/
def Ray.into (r : Ray) (leaf : List Byte) : Ray :=
  let row (k : Nat) : List Nat := (List.range 4).map fun c => fieldAt leaf (16 * k + 4 * c) 4
  { o := [0, 1, 2].map fun k => transformRow (row k) r.o true, d := [0, 1, 2].map fun k => transformRow (row k) r.d false }

/-! ### The walk (R334–R336, R342) -/

/-- The fields of a node coding (R329). -/
def nodeBlas (n : Word) : Bool := bit n.toNat 31
def nodeKind (n : Word) : Nat := bits n.toNat 28 3
def nodeIndex (n : Word) : Nat := bits n.toNat 0 28

/-- A walk in progress: the ray's record as it stands, its space and BVH roots. -/
structure Walk where
  r : RayWalk
  rec_ : RayRec
  top : Nat
  /-- The instance leaf of the current bottom-level BVH. -/
  leaf : List Byte := []

def Walk.world (w : Walk) : Ray := ⟨w.rec_.origin, w.rec_.dir⟩
def Walk.ray (w : Walk) : Ray := if w.r.inst.isSome then w.world.into w.leaf else w.world
def Walk.root (w : Walk) : Nat := if w.r.inst.isSome then fieldAt w.leaf 0x30 8 else w.top

/-- How a visit of a node ends. -/
inductive Visit where
  | go (s : State) (w : Walk)
  | exit (s : State) (w : Walk)
  | suspend (s : State) (w : Walk)
  | fault (s : State) (w : Walk) (t : Trap)
  | wait

/-- Pop the next node (R334): none when the stack is empty. -/
def Walk.pop (w : Walk) : Walk × Bool :=
  match w.r.stack with
  | [] => (w, false)
  | n :: t =>
    let r := { w.r with stack := t, node := n, popFirst := false }
    ({ w with r := if nodeBlas n then r else { r with inst := none } }, true)

/-- A ray with FIRST set ends after the node at which it has a hit (R334). -/
def Walk.first (w : Walk) : Bool := w.rec_.flag 16 && w.r.had

/-- After a node: FIRST, the next node, or a restart after an overflow (R334). -/
def Walk.next (w : Walk) (s : State) : Visit :=
  if w.first then .exit s w
  else
    let p := w.pop
    if p.2 then .go s p.1
    else if w.r.ovf then .go s { w with r := { w.r with ovf := false, node := 0x10000000, inst := none, popFirst := false } }
    else .exit s w

/-- After a node that names the next one. -/
def Walk.on (w : Walk) (s : State) : Visit := if w.first then .exit s w else .go s w

/-- Push a child; a full stack drops its bottom entry (R334). -/
def RayWalk.push (r : RayWalk) (n : Word) : RayWalk :=
  if r.stack.length < 14 then { r with stack := n :: r.stack } else { r with stack := n :: r.stack.take 13, ovf := true }

/-- A child with its tn. -/
abbrev ChildHit := Ext × Word

def insertChild (c : ChildHit) (l : List ChildHit) : List ChildHit :=
  match l with
  | [] => [c]
  | d :: t => if d.1.le c.1 then d :: insertChild c t else c :: d :: t

/-- The words of the ray that a test reads. -/
def Walk.words (w : Walk) : List Nat := w.ray.o ++ w.ray.d ++ [w.rec_.tmin, w.rec_.tmax]

/-- The children of an internal node that are hit, in order of tn, ties by position (R334). An open box test takes its answer and
its tn from free values of its operands (R79). -/
def Walk.children (w : Walk) (node : List Byte) : List ChildHit :=
  let blas := w.r.inst.isSome
  (List.range 4).foldl (fun acc c =>
    let cw := fieldAt node (0x60 + 4 * c) 4
    let kind := bits cw 28 4
    if kind = 0 || decide (4 < kind) || (kind = 4 && blas) then acc
    else
      let n : Word := BitVec.ofNat 32 (cw % 2 ^ 31 + blas.toNat * 2 ^ 31)
      let box := (List.range 6).map fun k => fieldAt node (24 * c + 4 * k) 4
      match boxTest w.ray w.rec_.tmin w.rec_.tmax box with
      | .hit tn => insertChild (tn, n) acc
      | .miss => acc
      | .open_ =>
        let ws := w.words ++ box
        if Config.rayHit ws then insertChild ((extOf (Config.rayWord ws 0).toNat).getD .neg, n) acc else acc) []

/-- The instance ID that a hit records (R328). -/
def Walk.instId (w : Walk) : Nat := if w.r.inst.isSome then fieldAt w.leaf 0x38 4 else 0xFFFFFFFF

/-- Replace bytes of a list. -/
def patch (bs : List Byte) (off : Nat) (new : List Byte) : List Byte := bs.take off ++ new ++ bs.drop (off + new.length)

/-- Accept a triangle hit: the record is written, in memory and as the unit sees it (R335). -/
def Walk.accept (w : Walk) (s : State) (g : Group) (h : TriHit) (prim : Nat) : Except Stop (State × Walk) :=
  let a := slotAddr w.r.pool w.r.slot
  let kind := if h.back then 2 else 1
  match putNums s g [(a + 0x25, 1, kind), (a + 0x28, 4, prim), (a + 0x2C, 4, w.instId), (a + 0x30, 4, h.t), (a + 0x34, 4, h.b1),
      (a + 0x38, 4, h.b2), (a + 0x1C, 4, h.t)] with
  | .error e => .error e
  | .ok s => .ok (s, { w with r := { w.r with had := true },
                              rec_ := ⟨patch (patch w.rec_.bytes 0x1C (bytesOf 4 h.t)) 0x25 (bytesOf 1 kind)⟩ })

/-- An open triangle test takes its answer from free values of its operands (R79). -/
def freeHit (ws : List Nat) : Option TriHit :=
  let f (k : Nat) : Nat := (Config.rayWord ws k).toNat
  if Config.rayHit ws then (extOf (f 0)).map fun t => { exact := t, t := f 0, b1 := f 1, b2 := f 2, back := bit (f 3) 0 } else none

/-- A candidate within the bounds of t (R333, R335); no t lies within a bound that is a NaN. -/
def Walk.takes (w : Walk) (h : TriHit) : Bool :=
  match extOf w.rec_.tmin, extOf w.rec_.tmax with
  | some lo, some hi => lo.le h.exact && (if w.r.had then !hi.le h.exact else h.exact.le hi) && !(h.back && w.rec_.flag 17)
  | _, _ => false

/-- Test the triangles of a leaf in order. -/
def Walk.triangles (w : Walk) (s : State) (g : Group) (node : List Byte) (es : List Nat) : Except Stop (State × Walk) :=
  match es with
  | [] => .ok (s, w)
  | e :: t =>
    let v (k : Nat) : List Nat := (List.range 3).map fun c => fieldAt node (36 * e + 12 * k + 4 * c) 4
    let hit := match triTest w.ray (v 0) (v 1) (v 2) with
      | .hit h => some h
      | .miss => none
      | .open_ => freeHit (w.words ++ v 0 ++ v 1 ++ v 2)
    match hit with
    | some h =>
      if w.takes h then
        match w.accept s g h (fieldAt node (0x6C + 4 * e) 4) with
        | .ok (s, w) => Walk.triangles w s g node t
        | .error e => .error e
      else Walk.triangles w s g node t
    | none => Walk.triangles w s g node t

/-- A failure during a visit. -/
def Walk.stop (w : Walk) (s : State) (e : Stop) : Visit :=
  match e with
  | some t => .fault s w t
  | none => .wait

/-- A root that is not a multiple of 128 (R342). -/
def rootTrap (root : Nat) : Trap := { trap .align with taddr := some (BitVec.ofNat 64 root) }

/-- Visit the current node (R334). A bottom-level node without an instance, which only an altered record names, is taken as an empty
one (log 61). -/
def Walk.visit (w : Walk) (s : State) (g : Group) : Visit :=
  let n := w.r.node
  let kind := nodeKind n
  let addr := (w.root + 128 * nodeIndex n) % 2 ^ 64
  if w.r.popFirst then w.next s
  else if kind = 0 || decide (4 < kind) || (kind = 4 && w.r.inst.isSome) || (nodeBlas n && w.r.inst.isNone) then w.next s
  else if w.root % 128 ≠ 0 then .fault s w (rootTrap w.root)
  else if kind = 3 then
    (if w.rec_.flag 19 then w.next s
     else if (g.portOf .rayisect).isNone && !g.empty then
       .fault s w { trap .queueUnbound with taddr := some (BitVec.ofNat 64 addr) }
     else .suspend s w)
  else match engineRead s g addr 128 with
    | .error e => w.stop s e
    | .ok (s, node) =>
      match kind with
      | 1 =>
        (match w.children node with
         | [] => w.next s
         | c :: t =>
           let r : RayWalk := t.reverse.foldl (fun (r : RayWalk) (c : ChildHit) => r.push c.2) w.r
           { w with r := { r with node := c.2 } }.on s)
      | 2 =>
        let count := fieldAt node 0x78 1
        if w.rec_.flag 18 || count = 0 || decide (3 < count) then w.next s
        else match w.triangles s g node (List.range count) with
          | .error e => w.stop s e
          | .ok (s, w) => w.next s
      | _ =>
        if bits (w.rec_.word 0x20) 0 16 &&& fieldAt node 0x3C 2 = 0 then w.next s
        else { w with leaf := node, r := { w.r with inst := some (nodeIndex n), node := 0x90000000 } }.on s

/-- Walk until the ray stops; a walk longer than `fuel` nodes goes on at the next event. -/
def Walk.run (w : Walk) (s : State) (g : Group) (fuel : Nat) : Visit :=
  match fuel with
  | 0 => .go s w
  | k + 1 =>
    match w.visit s g with
    | .go s w => Walk.run w s g k
    | v => v

/-- The walk of a restored ray goes on from its state record (R349). -/
def reloadWalk (s : State) (g : Group) (r : RayWalk) : Except Stop (State × RayWalk) :=
  if r.reload then
    match poolRead s g (slotAddr r.pool r.slot + 64) 64 with
    | .error e => .error e
    | .ok (s, bs) => .ok (s, walkOf bs r.slot r.pool r.had r.popFirst r.trace r.split r.issue)
  else .ok (s, r)

/-- Fetch what the walk of a ray needs: the pool's root, the record, and the leaf of its instance (R455). A leaf that cannot be
fetched is the node at which the ray stops (R342). -/
def startWalk (s : State) (g : Group) (r : RayWalk) : Visit :=
  let w : Walk := { r, rec_ := ⟨[]⟩, top := 0 }
  match reloadWalk s g r with
  | .error e => w.stop s e
  | .ok (s, r) =>
    let w : Walk := { w with r }
    match readPool s g r.pool with
    | .error e => w.stop s e
    | .ok (s, p) =>
      match readRay s g r.pool r.slot with
      | .error e => { w with top := p.root }.stop s e
      | .ok (s, rec_) =>
        let w : Walk := { r, rec_, top := p.root }
        match r.inst with
        | none => .go s w
        | some i =>
          let atLeaf : Walk := { w with r := { r with inst := none, node := BitVec.ofNat 32 (0x40000000 + i), popFirst := false } }
          if p.root % 128 ≠ 0 then .fault s atLeaf (rootTrap p.root)
          else match engineRead s g ((p.root + 128 * i) % 2 ^ 64) 128 with
            | .error e => atLeaf.stop s e
            | .ok (s, leaf) => .go s { w with leaf }

/-- The status of a ray. -/
def putStatus (s : State) (g : Group) (r : RayWalk) (n : Nat) : Except Stop State := putNum s g (slotAddr r.pool r.slot + 0x24) 1 n

/-- The state record, and then the status (R336). -/
def putState (s : State) (g : Group) (r : RayWalk) (n : Nat) : Except Stop State :=
  match writeState s g r with
  | .ok s => putStatus s g r n
  | .error e => .error e

/-- A ray walked to its next stop, and what the unit writes there (R334, R336); a write of its records that fails is a ray-record
access that fails (R342). -/
def walkRay (s : State) (g : Group) (r : RayWalk) : Visit :=
  match startWalk s g r with
  | .go s w =>
    (match w.run s g 4096 with
     | .exit s w => (match putStatus s g w.r (if w.r.had then 4 else 5) with
       | .ok s => .exit s w
       | .error e => w.stop s e)
     | .suspend s w => (match putState s g w.r 3 with
       | .ok s => .suspend s w
       | .error e => w.stop s e)
     | v => v)
  | v => v

/-! ### Events of the traversal unit -/

/-- Rays in flight that walk. -/
def State.walkers (s : State) : List (Group × RayWalk) :=
  s.groups.flatMap fun g => if s.engineLive g .ray then (g.rays.filter fun r => !r.abandoned).map fun r => (g, r) else []

/-- Replace or remove a ray of a group. -/
def State.setRay (s : State) (gid : Nat) (old : RayWalk) (new : Option RayWalk) : State :=
  s.modGroup gid fun g =>
    { g with rays := match new with
        | some r => g.rays.map fun (q : RayWalk) => if q = old then r else q
        | none => removeFirst g.rays old }

/-- A write of a ray that is FAULTED already: one that fails is not made, one that waits makes the event wait. -/
def attempt (s : State) (r : Except Stop State) : Option State :=
  match r with
  | .ok s => some s
  | .error none => none
  | .error (some _) => some s

/-- The ray takes FAULTED, and its fault is found (R342); none while a write must wait. -/
def rayFaulted (s : State) (g : Group) (old : RayWalk) (w : Walk) (t : Trap) : Option State :=
  (attempt s (writeState s g w.r)).bind fun s => (attempt s (putStatus s g w.r 7)).map fun s =>
    (s.setRay g.id old none).addRayFault g t old.trace

/-- A ray event: a walk that goes on keeps its place, one that ends as `f` takes it ends, and any other waits for its own event. -/
def rayEvent (s : State) (f : Group → RayWalk → Visit → Option State) : Host.Outcome State Fault Refusal :=
  match s.pick s.walkers with
  | none => .next s
  | some (g, r) =>
    match walkRay s g r with
    | .go s w => .next (s.setRay g.id r (some { w.r with unitAt := s.cycle }))
    | v => .next ((f g r v).getD s)

/-- RAY_DONE (R334, R338): a ray walks to its end. -/
def execRayDone (s : State) : Host.Outcome State Fault Refusal :=
  rayEvent s fun g r v => match v with
    | .exit s _ => some ((s.setRay g.id r none).reportHit g r.pool r.slot r.issue)
    | _ => none

/-- RAY_SUSPEND (R336). -/
def execRaySuspend (s : State) : Host.Outcome State Fault Refusal :=
  rayEvent s fun g r v => match v with
    | .suspend s _ => some ((s.setRay g.id r none).reportIsect g r.pool r.slot r.issue)
    | _ => none

/-- RAY_FAULT (R342). -/
def execRayFault (s : State) : Host.Outcome State Fault Refusal :=
  rayEvent s fun g r v => match v with
    | .fault s w t => rayFaulted s g r w t
    | _ => none

/-- RAY_ABANDON (R340): a ray whose slot was freed leaves the unit at a node boundary and is pushed to no port. -/
def execRayAbandon (s : State) : Host.Outcome State Fault Refusal :=
  .next { s with groups := s.groups.map fun g => { g with rays := g.rays.filter fun r => !r.abandoned } }

/-- The entry that a batch makes (R338). -/
def RayBatch.entry (b : RayBatch) : Entry :=
  { words := (List.range 32).map fun k => match b.slots[k]? with
      | some n => BitVec.ofNat 32 n
      | none => 0xFFFFFFFF,
    mask := BitVec.ofNat 32 (2 ^ min 32 b.slots.length - 1) }

/-- Batches that wait to be pushed, RAYHIT's and RAYISECT's. -/
def State.batches (s : State) : List (Group × Bool × RayBatch) :=
  s.groups.flatMap fun g =>
    if !s.engineLive g .ray then []
    else ([(g, false, g.hitBatch), (g, true, g.isectBatch)]).filter fun e => !e.2.2.slots.isEmpty

/-- A write to the records of a batch's slots is not performed at PNL, or at the package of their pool (R226, R339). -/
def State.batchOpen (s : State) (g : Group) (b : RayBatch) : Bool :=
  b.lines.any (s.lineOpen g.die) ||
    s.fabricOut.any fun f => f.pkt.type = 3 && f.pkt.src = g.die && f.pkt.ctx = g.ctx && b.far.contains (f.pkt.addr / 128)

/-- RAY_BATCH_PUSH (R338, R339): a batch of 32 slots, or one whose first slot entered 256 cycles ago, once the writes to their records
are performed. -/
def execRayBatchPush (s : State) : Host.Outcome State Fault Refusal :=
  match s.pick s.batches with
  | none => .next s
  | some (g, isect, b) =>
    if s.batchOpen g b then .next s
    else match g.enginePush (if isect then .rayisect else .rayhit) g.nextFlight b.entry with
    | none => .next s
    | some g' =>
      let cycle := if 32 ≤ b.slots.length then s.cycle else max s.cycle (b.since + 256)
      let rest : RayBatch := { slots := b.slots.drop 32, since := cycle }
      .next ({ s with cycle }.modGroup g.id fun _ =>
        if isect then { g' with isectBatch := rest } else { g' with hitBatch := rest })

/-! ### Pre-emption (R349) -/

/-- The unit stops the rays of a group and writes their state records; one that cannot be written makes its ray FAULTED (R342), and
one that must wait makes the stop wait. -/
def State.stopRays (s : State) (g : Group) : Option State :=
  (g.rays.filter fun r => !r.abandoned).foldl (fun (o : Option State) r => o.bind fun s =>
    if r.reload then some s
    else match writeState s g r with
      | .ok s => some s
      | .error none => none
      | .error (some t) => rayFaulted s g r { r, rec_ := ⟨[]⟩, top := 0 } t) (some s)

/-- On restore the rays continue from their state records; one whose slot was freed is still to be abandoned. -/
def RayWalk.restored (r : RayWalk) : RayWalk := { r with reload := !r.abandoned }

/-! ### HGFETCH (R348) -/

/-- The hash of a vertex's coordinates (R346). -/
def hashOf (x y z : Nat) : Nat := (x ^^^ (y * 0x9E3779B1) ^^^ (z * 0x85EBCA77)) % 2 ^ 32

/-- The address of a vertex's entry. -/
def Ctx.hgAddr (x : Ctx) (a : Operand) (level : Nat) (l : Nat) : DWord :=
  let v := (x.src a l).toNat
  let log2t := bits level 4 5
  let h := hashOf (bits v 0 10) (bits v 10 10) (bits v 20 10)
  BitVec.ofNat 64 (poolBase x.g.hgbase + bits level 0 4 * 4 * 2 ^ log2t + 4 * (h % 2 ^ log2t))

/-- HGFETCH (R348). -/
def execHgfetch (d a b : Operand) (s : State) : Host.Outcome State Fault Refusal :=
  issue (.hgfetch d a b) s fun x =>
    let level := (x.src b x.scalarLane).toNat
    let log2t := bits level 4 5
    if !acts x.i x.c then .done (x.mod x.attached)
    else if log2t < 4 || 20 < log2t || level / 2 ^ 9 ≠ 0 then .fault (trap .illegalOperand)
    else match x.lanes x.s (x.lanesFor d) (x.hgAddr a level) 4 4 { r := true } true (isScalar d) with
      | .error e => stopRes e
      | .ok (s, gs) => x.loadGranted (s.harden x.g.id x.p.id 3) .n32 d gs (x.hgAddr a level)

end Sys2Proof.Machine
end

