-- ==== Sys2Proof/Machine/Launch.lean ====
section
/-! DEFINITION. Launch records and queues (R168–R170, R178–R189, R452), the logical grid (R384, R385), placement of workgroups,
LVL, PLACE and PHASEEND (R171–R174, R180). -/

namespace Sys2Proof.Machine

open Sys2Proof

/-! ### Hardware accesses of a context (R452) -/

/-- An access of the hardware does not go through: it waits, an uncorrectable error freezes the unit, which does nothing further
(R351, R373), or any other failure takes its fate. -/
def State.hwFail (s : State) (e : Stop) (fate : Trap → State) : State :=
  e.elim s fun t => t.freezes.elim (fate t) fun d => s.freezeMaster d .control

/-- The failure of an access is the program's: no wait, and no uncorrectable error. -/
def hwFailed (e : Stop) : Option Trap := e.filter fun t => t.freezes.isNone

/-- The place of a virtual address for an access that belongs to no agent, and the other copies a write goes to. -/
def hwPlace (s : State) (ctx die va : Nat) (need : Need) : Except Stop (State × Place × List Nat) :=
  if bits va 57 3 ≠ 0 then .error (some { trap .canonical with taddr := some (BitVec.ofNat 64 va) })
  else match translate s ctx die (va % 2 ^ 57) need with
    | .error (some t) => .error (some { t with taddr := some (BitVec.ofNat 64 va) })
    | .error none => .error none
    | .ok (s, x) => match (if need.w then s.writePlace die x.pa else s.placeOf die x.pa) with
      | .nowhere | .control _ => .error (some { trap .pageProtection with noRegion := true, taddr := some (BitVec.ofNat 64 va) })
      | pl => .ok (s, pl, if need.w then s.copyKeys x.pa else [])

/-- Read up to 64 bytes that lie in one page; memory of another package is not known (log 10). An uncorrectable error freezes
the control unit that met it (R351). -/
def hwRead (s : State) (ctx die va n : Nat) : Except Stop (State × List Byte) :=
  match hwPlace s ctx die va { r := true } with
  | .error e => .error e
  | .ok (s, .cell k _, _) =>
    if s.poisoned k n then .error (some { trap .uncorrectable with freezes := some die })
    else .ok (s, s.bytesAt k n)
  | .ok (s, _, _) => .ok ({ s with tick := s.tick + 1 },
      (List.range n).map fun i => BitVec.ofNat 8 ((Config.remoteWord s.tick 0 (i / 4)).toNat / 2 ^ (8 * (i % 4))))

/-- Write bytes that lie in one page. -/
def hwWrite (s : State) (ctx die va : Nat) (bs : List Byte) : Except Stop State :=
  match hwPlace s ctx die va { w := true } with
  | .error e => .error e
  | .ok (s, .cell k _, ks) => .ok (s.writeKeys (k :: ks) bs)
  | .ok (s, .remote p a, _) =>
    .ok (s.sendFabric p { type := 3, src := die, dst := die, addr := a, payload := bs, ctx, len := bs.length })
  | .ok (s, _, _) => .ok s

/-- Read a structure in pieces of 64 bytes. -/
def hwReadAll (s : State) (ctx die va : Nat) (pieces : Nat) : Except Stop (State × List Byte) :=
  match pieces with
  | 0 => .ok (s, [])
  | k + 1 =>
    match hwRead s ctx die va 64 with
    | .error e => .error e
    | .ok (s, bs) =>
      match hwReadAll s ctx die (va + 64) k with
      | .error e => .error e
      | .ok (s, cs) => .ok (s, bs ++ cs)

/-- A fatal fault of a context that no split raised (R183, R357, R454). -/
def State.ctxFatal (s : State) (ctx die : Nat) (t : Trap) : State :=
  { s with fatals := s.fatals ++ [{ kind := 1, trap := t, ctx, master := 4, die, core := 0xFF }] }

/-! ### Launch records (R178, R179) -/

def parseLevel (bs : List Byte) (k : Nat) : LevelEntry :=
  { valid := bit (fieldAt bs (64 + 8 * k) 1) 7, domain := bits (fieldAt bs (64 + 8 * k) 1) 0 3,
    scope := fieldAt bs (65 + 8 * k) 1, extent := fieldAt bs (68 + 8 * k) 4 }

def parseRecord (bs : List Byte) : LaunchRec :=
  { entry := BitVec.ofNat 64 (fieldAt bs 0 8), regs := fieldAt bs 8 2, groups := fieldAt bs 10 2, scratch := fieldAt bs 12 4,
    lanestore := fieldAt bs 16 4, diescratch := fieldAt bs 20 4, accum := fieldAt bs 24 1, prio := fieldAt bs 25 1,
    queue := fieldAt bs 26 1, preempt := fieldAt bs 27 1, rectf := fieldAt bs 28 1, rectr := fieldAt bs 29 1,
    flags := fieldAt bs 30 2, wgtotal := fieldAt bs 32 4, completion := BitVec.ofNat 64 (fieldAt bs 40 8),
    phase := BitVec.ofNat 64 (fieldAt bs 48 8), args := BitVec.ofNat 64 (fieldAt bs 56 8),
    levels := (List.range 8).map (parseLevel bs) }

def LaunchRec.scrzero (r : LaunchRec) : Bool := bit r.flags 1
def LaunchRec.task (r : LaunchRec) : Bool := bit r.flags 3

/-! ### The logical grid (R384, R385) -/

/-- The live dies of a physical rank, in ascending file order. -/
def rankDies (part : Identity) (r : Nat) : List Nat := ((List.range 8).map fun f => 8 * r + f).filter part.dieLive

/-- The die at a logical position. -/
def gridDie (part : Identity) (f r : Nat) : Option Nat := if r < 6 then (rankDies part r)[f]? else none

/-- The dies of a rectangle by rectangle index, when it is fully live. -/
def rectDies (part : Identity) (o : Nat × Nat) (rf rr : Nat) : Option (List Nat) :=
  let ds := (List.range rr).flatMap fun j => (List.range rf).map fun i => gridDie part (o.1 + i) (o.2 + j)
  if ds.all Option.isSome then some (ds.filterMap id) else none

/-- The fully live rectangles of a size, in rank-major order of their origins. -/
def origins (part : Identity) (rf rr : Nat) : List ((Nat × Nat) × List Nat) :=
  ((List.range 6).flatMap fun r => (List.range 8).map fun f => (f, r)).filterMap fun o =>
    (rectDies part o rf rr).map fun ds => (o, ds)

/-! ### The checks of R181 -/

/-- The narrowest scope a domain allows (R179). -/
def domainScope (d : Nat) : Nat := [0, 0, 1, 2, 3, 4, 4, 5].getD d 5

/-- A level entry breaks R179. -/
def badLevel (bs : List Byte) (k : Nat) : Bool :=
  let b0 := fieldAt bs (64 + 8 * k) 1
  let sc := fieldAt bs (65 + 8 * k) 1
  if !bit b0 7 then bits b0 3 4 ≠ 0 || fieldAt bs (65 + 8 * k) 7 ≠ 0
  else bits b0 3 4 ≠ 0 || decide (5 < sc) || decide (sc < domainScope (bits b0 0 3)) || fieldAt bs (66 + 8 * k) 2 ≠ 0 ||
    fieldAt bs (68 + 8 * k) 4 = 0

/-- The product of the extents of a domain's declared levels. -/
def LaunchRec.extents (r : LaunchRec) (d : Nat) : Nat :=
  ((r.levels.filter fun e => e.valid && e.domain = d).map fun e => e.extent).foldl (· * ·) 1

/-- A group count fits a core (R127). -/
def fitsCore (groups regs : Nat) : Bool :=
  decide ((groups + 1) / 2 ≤ 24) && decide ((groups + 1) / 2 * regs ≤ 1024)

def badAllocation (r : LaunchRec) : Bool :=
  decide (r.regs < 96) || decide (512 < r.regs) || r.regs % 32 ≠ 0 || r.groups = 0 || decide (32 < r.groups) ||
  r.scratch % 1024 ≠ 0 || decide (393216 < r.scratch) || r.lanestore % 256 ≠ 0 || decide (65536 < r.lanestore) ||
  decide (33554432 < r.diescratch) || decide (64 < r.accum) || r.wgtotal = 0 || r.completion.toNat % 8 ≠ 0 ||
  r.phase.toNat % 4 ≠ 0

def noRectangle (part : Identity) (r : LaunchRec) : Bool :=
  r.rectf = 0 || decide (8 < r.rectf) || r.rectr = 0 || decide (6 < r.rectr) || (origins part r.rectf r.rectr).isEmpty

/-- Reason 5: the queue and its owner (R181, R182). -/
def State.badQueue (s : State) (c : Child) (r : LaunchRec) : Bool :=
  let q := s.queues.getD r.queue {}
  decide (7 < r.prio) || decide (127 < r.queue) || decide (3 < r.preempt) || !bit q.ctl 0 || (!c.host && q.ctx ≠ c.ctx)

/-- The lowest-numbered reason for which a record of given bytes is refused, 0 when it is accepted (R181, R192). -/
def State.refusal (s : State) (c : Child) (r : LaunchRec) (bs : List Byte) : Nat :=
  let flags := r.flags
  if r.graph then
    let other := (List.range 128).filter fun k => !(k < 8 || k = 25 || k = 26 || k = 30 || k = 31 || (40 ≤ k && k < 48))
    if r.entry.toNat % 32 ≠ 0 || !canonical r.entry.toNat then 1
    else if s.badQueue c r then 5
    else if other.any (fun k => fieldAt bs k 1 ≠ 0) || flags - flags % 32 ≠ 0 || bit flags 1 || bit flags 3 || bit flags 4 then 7
    else if r.cluster then 8
    else 0
  else if r.entry.toNat % 4 ≠ 0 || !canonical r.entry.toNat then 1
  else if badAllocation r then 2
  else if !fitsCore r.groups r.regs then 3
  else if noRectangle s.ident r then 4
  else if s.badQueue c r then 5
  else if (List.range 8).any (badLevel bs) || decide (32 < r.extents 0) || decide (r.groups < r.extents 1) ||
      decide (r.wgtotal < r.extents 2) then 6
  else if flags - flags % 32 ≠ 0 || fieldAt bs 36 4 ≠ 0 then 7
  else if r.cluster && r.wgtotal % 4 ≠ 0 then 8
  else 0

/-! ### Completion words (R183) -/

/-- A write whose failure is a fatal fault of its context (R452); the error is a wait at the walker (R403), or a freeze (R351). -/
def hwPost (s : State) (ctx die va : Nat) (bs : List Byte) : Except Stop State :=
  match hwWrite s ctx die va bs with
  | .ok s' => .ok s'
  | .error e => (hwFailed e).elim (.error e) fun t => .ok (s.ctxFatal ctx die t)

/-- Write a completion word, when the launch has one (R181, R183). -/
def State.complete (s : State) (ctx die : Nat) (addr : DWord) (seq : Word) (reason status : Nat) : Except Stop State :=
  if addr = 0 || addr.toNat % 8 ≠ 0 then .ok s
  else hwPost s ctx die addr.toNat (bytesOf 8 (status + 256 * reason + 2 ^ 32 * seq.toNat))

/-! ### LAUNCH (R168–R170) -/

/-- Children on their way to a queue and launches pending in it. -/
def State.queued (s : State) (q : Nat) : Nat :=
  s.pendingIn q + (s.children.filter fun c => fieldAt c.bytes 26 1 = q).length

/-- A queue has room for a number of children. A disabled queue, which refuses them all, needs room for one (R181, R182). -/
def State.queueRoom (s : State) (q n : Nat) : Bool :=
  let e := s.queues.getD q {}
  decide (127 < q) || (if bit e.ctl 0 then decide (s.queued q + n ≤ e.depth) else decide (s.pendingIn q < e.depth))

/-- The bytes of the records at granted addresses. -/
def recordBytes (s : State) (gs : List (Nat × Grant)) : List (Nat × List Byte) :=
  gs.map fun e => (e.1, match e.2.place with
    | .cell k _ => s.bytesAt k 128
    | .control pa => bytesOf 128 (s.controlRead pa 128)
    | _ => (List.range 128).map fun i =>
        BitVec.ofNat 8 ((Config.remoteWord s.tick e.1 (i / 4)).toNat / 2 ^ (8 * (i % 4))))

/-- An uncorrectable error in a record that a lane names (R351). -/
def recordPoison? (s : State) (gs : List (Nat × Grant)) : Option Trap :=
  gs.findSome? fun e => match e.2.place with
    | .cell k _ => (s.sectorTrap? k 128 e.2.pa).map fun t => { t with tval := BitVec.ofNat 32 (2 ^ e.1), byLanes := true }
    | _ => none

/-- Create children for lanes whose records have been checked, all or none (R168–R170). -/
def Ctx.launch (x : Ctx) (s : State) (lanes : List Nat) (rs : List (Nat × List Byte)) (a b : Operand) : Res :=
  let cs := lanes.filterMap fun l => (rs.find? fun e => e.1 = l).map fun e =>
    ({ ctx := x.g.ctx, addr := x.src64 a l, arg := x.src b l, host := x.g.isHost,
       fromDie := if x.g.isHost then none else some x.g.die, bytes := e.2, after := some (x.g.id, s.nextFlight x.g.id) } : Child)
  let room := cs.all fun c =>
    let q := fieldAt c.bytes 26 1
    s.queueRoom q (cs.filter fun e => fieldAt e.bytes 26 1 = q).length
  if room then .done { s.bump with children := s.children ++ cs } else .hold .queue

/-- LAUNCH: every active lane's address is checked before any child is created (R170); it is a release, after which the records
are read (R169, R237, R362). -/
def Ctx.launchLanes (x : Ctx) (lanes : List Nat) (a b : Operand) : Res :=
  if !x.anyActive then .done x.s
  else match x.lanes x.s x.activeLanes (fun l => x.src64 a l) 128 128 { r := true } true false with
    | .error e => stopRes e
    | .ok (s, gs) =>
      let s := (s.harden x.g.id x.p.id 4).release x.g.id x.p.mask .pnl
      match recordPoison? s gs with
      | some t => .fault t
      | none => x.launch s lanes (recordBytes s gs) a b

/-- LAUNCH.G (R168). -/
def execLaunchG (a b : Operand) (s : State) : Host.Outcome State Fault Refusal :=
  issue (.launchG a b) s fun x => x.launchLanes [x.firstLane] a b

/-- LAUNCH.L (R168). -/
def execLaunchL (a b : Operand) (s : State) : Host.Outcome State Fault Refusal :=
  issue (.launchL a b) s fun x => x.launchLanes x.activeLanes a b

/-! ### PHASEEND (R171) -/

def phaseCombine (op : PhaseOp) (a b : Nat) : Nat :=
  match op with
  | .or => a ||| b
  | .maxn => max a b
  | .add => (a + b) % 2 ^ 32

/-- The atomic op that a PHASEEND is at another package (R249). -/
def PhaseOp.atomCode : PhaseOp → Nat
  | .or => 6
  | .maxn => 4
  | .add => 0

/-- The word that a PHASEEND posts: combined over the active lanes when its operand is per lane. -/
def Ctx.phaseValue (x : Ctx) (op : PhaseOp) (a : Operand) : Nat :=
  if a.scalarSource then x.val false a x.firstLane
  else match x.activeLanes with
    | [] => 0
    | l :: t => t.foldl (fun v k => phaseCombine op v (x.val false a k)) (x.val false a l)

/-- Post to the phase slot of a group's launch; a slot that cannot be written is a fatal fault of the context, and an uncorrectable
error in it freezes the unit (R351). A post to another package counts as the group's until it is performed. -/
def State.post (s : State) (g : Group) (addr : DWord) (op : PhaseOp) (v : Nat) : Except Stop State :=
  match hwPlace s g.ctx g.die addr.toNat { r := true, w := true } with
  | .ok (s, .cell k _, ks) =>
    if s.poisoned k 4 then .error (some { trap .uncorrectable with freezes := some g.die })
    else .ok (s.writeKeys (k :: ks) (bytesOf 4 (phaseCombine op (s.readMem k 4) v)))
  | .ok (s, .remote p a, _) =>
    let payload := bytesOf 4 (PhaseOp.atomCode op) ++ bytesOf 4 v ++ bytesOf 8 0
    .ok (s.sendFabric p { type := 4, src := g.die, dst := g.die, addr := a, payload, ctx := g.ctx, len := 16 }
      (some (g.id, s.nextFlight g.id)))
  | .ok (s, _, _) => .ok s
  | .error e => (hwFailed e).elim (.error e) fun t => .ok (s.ctxFatal g.ctx g.die t)

/-- PHASEEND (R171): a release, which waits until what it covers is performed, and the post. -/
def execPhaseend (o : PhaseOp) (a : Operand) (s : State) : Host.Outcome State Fault Refusal :=
  issue (.phaseend o a) s fun x =>
    let addr := (x.s.recordOf x.g).phase
    if !x.anyActive then .done x.s
    else
      if addr = 0 then .done (x.s.harden x.g.id x.p.id 4)
      else x.afterRelease 4 fun s => match s.post x.g addr o (x.phaseValue o a) with
        | .ok s' => .done s'
        | .error none => .held .map s
        | .error (some t) => .fault t

/-! ### LVL (R172, R180) -/

/-- The dies of a group's rectangle, by rectangle index. -/
def State.rectOf (s : State) (g : Group) : List Nat :=
  match s.launchOf g with
  | some l => ((l.origin.bind fun o => rectDies s.ident o l.record.rectf l.record.rectr)).getD []
  | none => []

/-- The rectangle index of a group's die. -/
def State.rectIndex (s : State) (g : Group) : Nat := ((s.rectOf g).findIdx? fun d => d = g.die).getD 0

/-- Group age: the launch's stamp, then w, then GRPX (R187). -/
def State.groupAge (s : State) (g : Group) : Nat := (((s.launchOf g).elim 0 fun l => l.age) * 2 ^ 64 + s.wOf g) * 64 + g.grpx

/-- The ring in force. -/
def State.ring (s : State) : Ring := ⟨s.ringP, s.ringPos, s.ringtab⟩

/-- The ring that a group goes by: its workgroup's, at residency (R408); a host-core thread's is the one in force. -/
def State.ringOf (s : State) (g : Group) : Ring := (s.workgroup? g.wg).elim s.ring fun w => w.ring

/-- The unit index of a lane in a domain (R180). The ring position is the one at residency, which no later write moves (R172). -/
def State.unitIndex (s : State) (g : Group) (d lane : Nat) : Nat :=
  let w := s.wOf g
  match d with
  | 0 => lane
  | 1 => g.grpx
  | 2 => w
  | 3 => if (s.recordOf g).cluster then w / 4 else w
  | 4 => s.rectIndex g
  | 7 => (s.ringOf g).pos
  | _ => 0

/-- The index of a lane at a level (R180). -/
def State.levelIndex (s : State) (g : Group) (k lane : Nat) : Nat :=
  let ls := (s.recordOf g).levels
  match ls[k]? with
  | some e => if e.valid then
      let below := (((ls.take k).filter fun f => f.valid && f.domain = e.domain).map fun f => f.extent).foldl (· * ·) 1
      s.unitIndex g e.domain lane / below % e.extent
    else 0
  | none => 0

def State.levelExtent (s : State) (g : Group) (k : Nat) : Nat :=
  match (s.recordOf g).levels[k]? with
  | some e => if e.valid then e.extent else 1
  | none => 1

/-- LVL (R172, R180). -/
def execLvl (lv : Level) (d : Operand) (s : State) : Host.Outcome State Fault Refusal :=
  issue (.lvl lv d) s fun x => x.write (x.out d fun l => wordsOf false (x.s.levelIndex x.g lv.val l))

/-- LVL.EXT (R172, R180). -/
def execLvlExt (lv : Level) (d : Operand) (s : State) : Host.Outcome State Fault Refusal :=
  issue (.lvlExt lv d) s fun x => x.write (x.out d fun _ => wordsOf false (x.s.levelExtent x.g lv.val))

/-! ### PLACE (R173, R174) -/

/-- A place word (R174). -/
def placeWord (pkg die core file rank : Nat) : Nat :=
  2 ^ 63 + pkg * 2 ^ 54 + die * 2 ^ 48 + core * 2 ^ 40 + file * 2 ^ 32 + rank * 2 ^ 24

/-- The word for a rectangle coordinate, when it lies in the rectangle. -/
def State.placeAt (s : State) (g : Group) (f r : Int) : Option Nat :=
  let rec' := s.recordOf g
  if g.isHost || f < 0 || r < 0 || (rec'.rectf : Int) ≤ f || (rec'.rectr : Int) ≤ r then none
  else ((s.rectOf g)[f.toNat + rec'.rectf * r.toNat]?).map fun d => placeWord s.pkgid d 0xFF f.toNat r.toNat

/-- The rectangle coordinates of a group's die. -/
def State.coords (s : State) (g : Group) : Nat × Nat :=
  let k := s.rectIndex g
  let rf := max 1 (s.recordOf g).rectf
  (k % rf, k / rf)

def State.placeCl (s : State) (g : Group) (off : Int) : Option Nat :=
  let pos := ((g.core % 4 : Nat) : Int) + off
  if g.isHost || pos < 0 || 3 < pos || (!(s.recordOf g).cluster && off ≠ 0) then none
  else some (placeWord s.pkgid g.die (g.core / 4 * 4 + pos.toNat) (s.coords g).1 (s.coords g).2)

/-- The package that an offset names in a logical fabric ring (R408). -/
def Ring.package (r : Ring) (off : Int) : Option Nat :=
  let e := (sread r.tab (((r.pos : Int) + off) % (r.size : Int)).toNat).toNat
  if r.size ≤ off.natAbs || !bit e 15 then none else some (e % 512)

def State.placeFab (s : State) (g : Group) (off : Int) : Option Nat :=
  ((s.ringOf g).package off).map fun p => placeWord p g.die 0xFF 0xFF 0xFF

/-- A PLACE: every lane's word, or PLACE_RANGE with nothing written. -/
def Ctx.place (x : Ctx) (d : Operand) (f : Nat → Option Nat) : Res :=
  let lanes := x.lanesFor d
  let bad := lanes.filter fun l => (f l).isNone
  if bad ≠ [] then .fault { trap .placeRange with tval := if isScalar d then 1 else maskOf bad, byLanes := true }
  else x.write (x.out d fun l => wordsOf true ((f l).getD 0))

/-- PLACE.CL (R173). -/
def execPlaceCl (d a : Operand) (s : State) : Host.Outcome State Fault Refusal :=
  issue (.placeCl d a) s fun x => x.place d fun l => x.s.placeCl x.g (signed 32 (x.val false a l))

/-- PLACE.DIE (R173). -/
def execPlaceDie (d a : Operand) (s : State) : Host.Outcome State Fault Refusal :=
  issue (.placeDie d a) s fun x => x.place d fun l =>
    let v := x.val false a l
    let c := x.s.coords x.g
    x.s.placeAt x.g ((c.1 : Int) + signed 16 (bits v 0 16)) ((c.2 : Int) + signed 16 (bits v 16 16))

/-- PLACE.RECT (R173). -/
def execPlaceRect (d a : Operand) (s : State) : Host.Outcome State Fault Refusal :=
  issue (.placeRect d a) s fun x => x.place d fun l =>
    let v := x.val false a l
    x.s.placeAt x.g (signed 16 (bits v 0 16)) (signed 16 (bits v 16 16))

/-- PLACE.FAB (R173). -/
def execPlaceFab (d a : Operand) (s : State) : Host.Outcome State Fault Refusal :=
  issue (.placeFab d a) s fun x => x.place d fun l => x.s.placeFab x.g (signed 32 (x.val false a l))

end Sys2Proof.Machine
end

