-- ==== Sys2Proof/Machine/Parallel.lean ====
section
/-! DEFINITION. Cross-lane instructions, barriers and REGROUP (R150–R167). -/

namespace Sys2Proof.Machine

open Sys2Proof

/-! ### Scan operations (R156) -/

/-- The identity of a scan operation. -/
def scanIdentity : ScanOp → Nat
  | .add => 0
  | .fadd => 0x80000000
  | .mini => 0x7FFFFFFF
  | .maxi => 0x80000000
  | .minn => 0xFFFFFFFF
  | .maxn => 0
  | .and => 0xFFFFFFFF
  | .or => 0

/-- The combination of a scan operation, and the flags FADD raises. -/
def scanCombine (op : ScanOp) (a b : Nat) : Nat × FFlags :=
  match op with
  | .add => ((a + b) % 2 ^ 32, noFlags)
  | .fadd => fp32.add .rne a b
  | .mini => (if signed 32 a ≤ signed 32 b then a else b, noFlags)
  | .maxi => (if signed 32 a ≤ signed 32 b then b else a, noFlags)
  | .minn => (min a b, noFlags)
  | .maxn => (max a b, noFlags)
  | .and => (a &&& b, noFlags)
  | .or => (a ||| b, noFlags)

/-- The loop of R159: for each lane what it is written, then the final value and the flags. -/
def scanLoop (op : ScanOp) (excl : Bool) (acc : Nat) (fl : FFlags) (xs : List (Nat × Nat)) : List (Nat × Nat) × Nat × FFlags :=
  match xs with
  | [] => ([], acc, fl)
  | (l, x) :: t =>
    let r := scanCombine op acc x
    let rest := scanLoop op excl r.1 (fl.join r.2) t
    ((l, if excl then acc else r.1) :: rest.1, rest.2)

/-- The value a list gives a lane. -/
def laneValue (rs : List (Nat × Nat)) (l : Nat) : Nat :=
  match rs.find? fun e => e.1 = l with
  | some e => e.2
  | none => 0

/-! ### VOTE, SHFL, SCAN, LRED, BCAST, SPLITQ -/

/-- VOTE.ALL (R157). -/
def execVoteAll (pd pa : PredReg) (s : State) : Host.Outcome State Fault Refusal :=
  issue (.voteAll pd pa) s fun x =>
    let r := x.activeLanes.all fun l => x.g.pred pa.val l
    x.write (x.predOut pd.val fun _ => r)

/-- VOTE.ANY (R157). -/
def execVoteAny (pd pa : PredReg) (s : State) : Host.Outcome State Fault Refusal :=
  issue (.voteAny pd pa) s fun x =>
    let r := x.activeLanes.any fun l => x.g.pred pa.val l
    x.write (x.predOut pd.val fun _ => r)

/-- VOTE.BALLOT (R157). -/
def execVoteBallot (d : Operand) (pa : PredReg) (s : State) : Host.Outcome State Fault Refusal :=
  issue (.voteBallot d pa) s fun x => x.write (x.outOn [x.scalarLane] d fun _ => [x.active &&& x.g.predMask pa.val])

/-- The source lane of SHFL, when it is a lane number (R158). -/
def shflSource (m : ShflMode) (l k : Nat) : Nat :=
  match m with
  | .idx => k % 32
  | .up => if k ≤ l then l - k else 32
  | .down => l + k
  | .xor => l ^^^ (k % 32)

/-- SHFL (R158). -/
def execShfl (sm : ShflMode) (d a b : Operand) (s : State) : Host.Outcome State Fault Refusal :=
  issue (.shfl sm d a b) s fun x => x.write (x.out d fun l =>
    let t := shflSource sm l (x.val false b l)
    [x.src a (if t < 32 && inMask x.active t then t else l)])

/-- SCAN (R159). With a scalar destination it is the scan over one lane, whose FADD step makes a NaN canonical and may raise NV
(log 54). -/
def execScan (sm : ScanMode) (d a : Operand) (s : State) : Host.Outcome State Fault Refusal :=
  issue (.scan sm d a) s fun x =>
    let r := scanLoop sm.op sm.excl (scanIdentity sm.op) noFlags ((x.lanesFor d).map fun l => (l, x.val false a l))
    x.write { x.out d (fun l => [BitVec.ofNat 32 (laneValue r.1 l)]) with flags := r.2.2.code }

/-- LRED (R160). -/
def execLred (o : ScanOp) (d a : Operand) (s : State) : Host.Outcome State Fault Refusal :=
  issue (.lred o d a) s fun x =>
    let r := scanLoop o false (scanIdentity o) noFlags (x.activeLanes.map fun l => (l, x.val false a l))
    x.write { x.outOn [x.scalarLane] d (fun _ => [BitVec.ofNat 32 r.2.1]) with flags := r.2.2.code }

/-- BCAST (R161). -/
def execBcast (d a b : Operand) (s : State) : Host.Outcome State Fault Refusal :=
  issue (.bcast d a b) s fun x =>
    let k := x.val false b x.firstLane % 32
    x.write (x.out d fun _ => [if inMask x.active k then x.src a k else 0])

/-- The union of the masks of a group's live splits (R128). A split that an escalation has parked keeps its entry (R371) and counts as
live (log 55). -/
def Group.live (g : Group) : LaneMask := g.splits.foldl (fun m p => m ||| p.mask) 0

/-- SPLITQ.LIVE (R162). -/
def execSplitqLive (d : Operand) (s : State) : Host.Outcome State Fault Refusal :=
  issue (.splitqLive d) s fun x => x.write (x.outOn [x.scalarLane] d fun _ => [x.g.live])

/-- SPLITQ.LOWEST (R162). -/
def execSplitqLowest (d : Operand) (s : State) : Host.Outcome State Fault Refusal :=
  issue (.splitqLowest d) s fun x => x.write (x.outOn [x.scalarLane] d fun _ => [BitVec.ofNat 32 x.scalarLane])

/-- SPLITQ.COUNT (R162). -/
def execSplitqCount (d : Operand) (s : State) : Host.Outcome State Fault Refusal :=
  issue (.splitqCount d) s fun x => x.write (x.outOn [x.scalarLane] d fun _ => [BitVec.ofNat 32 x.g.splits.length])

/-! ### Barriers (R150, R165–R167) -/

/-- The groups of a workgroup that have not ended. -/
def State.groupsOf (s : State) (wid : Nat) : List Group := s.groups.filter fun g => g.wg = wid

/-- Every lane of a group that has not exited stands at one hold (R150). -/
def Group.allAt (g : Group) (h : Hold) : Bool :=
  g.splits.all (fun p => p.hold = h) && g.defers.isEmpty && g.joins.all (fun r => r.arrived = 0) && g.handler.isNone

/-- A progress point: the watchdog count is refilled (R144). -/
def State.refill (s : State) (gid pid : Nat) : State :=
  s.modGroup gid fun g => g.modSplit pid fun p => { p with wdog := g.budget.toNat }

/-- BAR (R165, R166, R362): once the split's accesses are performed it arrives and is held; a host-core thread is alone and goes on. -/
def execBar (id : BarId) (s : State) : Host.Outcome State Fault Refusal :=
  issue (.bar id) s fun x =>
    let s := x.s.harden x.g.id x.p.id 4
    if x.g.isHost then .done ((s.refill x.g.id x.p.id).acquire x.g x.p.mask .wg) else .held (.bar id.val) s

/-- CBAR (R167). -/
def execCbar (id : CbarId) (s : State) : Host.Outcome State Fault Refusal :=
  issue (.cbar id) s fun x => .held (.cbar id.val) (x.s.harden x.g.id x.p.id 4)

/-- The held splits of a group go on past their barrier, each at a progress point and after an acquire (R166). -/
def State.passBarrier (s : State) (h : Hold) (gid : Nat) : State :=
  match s.group? gid with
  | none => s
  | some g =>
    ((g.splits.filter fun p => p.hold = h).map fun p => p.id).foldl (fun s pid => (s.refill gid pid).advance gid pid 1)
      (s.acquire g g.live .wg)

/-- The barrier ids at which splits of a group are held. -/
def Group.barHolds (g : Group) : List Hold :=
  (g.splits.map fun p => p.hold).filter fun h => match h with
    | .bar _ => true
    | _ => false

def Group.cbarHolds (g : Group) : List Hold :=
  (g.splits.map fun p => p.hold).filter fun h => match h with
    | .cbar _ => true
    | _ => false

/-- The groups that one barrier releases (R165). -/
def State.barReady? (s : State) : Option (Hold × List Nat) :=
  s.groups.findSome? fun g =>
    g.barHolds.findSome? fun h =>
      let gs := s.groupsOf g.wg
      if gs.all fun e => e.allAt h then some (h, gs.map fun e => e.id) else none

/-- BAR_RELEASE (R165). -/
def execBarRelease (s : State) : Host.Outcome State Fault Refusal :=
  match s.barReady? with
  | none => .next s
  | some (h, gs) => .next (gs.foldl (fun s gid => s.passBarrier h gid) s)

/-- The workgroups of a workgroup's cluster that have not ended (R155, R167). -/
def State.clusterOf (s : State) (wid : Nat) : List Nat :=
  match s.workgroup? wid with
  | none => [wid]
  | some w => (s.workgroups.filter fun u => u.launch = w.launch && u.w / 4 = w.w / 4).map fun u => u.id

/-- The groups that one cluster barrier releases (R167). -/
def State.cbarReady? (s : State) : Option (Hold × List Nat) :=
  s.groups.findSome? fun g =>
    g.cbarHolds.findSome? fun h =>
      let gs := (s.clusterOf g.wg).flatMap s.groupsOf
      if gs.all fun e => e.allAt h then some (h, gs.map fun e => e.id) else none

/-- CBAR_RELEASE (R167). -/
def execCbarRelease (s : State) : Host.Outcome State Fault Refusal :=
  match s.cbarReady? with
  | none => .next s
  | some (h, gs) => .next (gs.foldl (fun s gid => s.passBarrier h gid) s)

/-! ### REGROUP (R151–R153, R163, R164) -/

/-- The rendezvous conditions a participant breaks as it arrives (R151). -/
def badRegroup (s : State) (g : Group) (p : Split) (id : Nat) : Bool :=
  (s.groupsOf g.wg).any (fun e => e.id ≠ g.id && e.splits.any fun q => match q.hold with
    | .regroup k => k ≠ id
    | _ => false) ||
  g.splits.length ≠ 1 || !g.defers.isEmpty || g.joins.any (fun r => r.arrived ≠ 0) ||
  (lanesOf p.mask).any fun l => !(g.calls.getD l []).isEmpty

/-- REGROUP (R151, R153, R163): whatever the guard, the split is held until the rendezvous completes. A range
beyond the allocation faults before R151's conditions are looked at, as R41 orders encoding, place and range (log 56). -/
def execRegroup (id : BarId) (d : Operand) (fr : FirstReg) (n : RegCount) (s : State) : Host.Outcome State Fault Refusal :=
  issue (.regroup id d fr n) s fun x =>
    if badRegroup x.s x.g x.p id.val then .fault (trap .illegalForm)
    else .held (.regroup id.val) (x.s.harden x.g.id x.p.id 4)

/-- The rendezvous that a split is held at. -/
def Split.rendezvous? (p : Split) : Option Nat :=
  match p.hold with
  | .regroup k => some k
  | _ => none

/-- The participants of a rendezvous that completes now, in the order of their group index (R151): a group without a live split is
waited for until it has ended. -/
def State.regroupReady? (s : State) : Option (List Group) :=
  s.groups.findSome? fun g =>
    (g.splits.findSome? Split.rendezvous?).bind fun k =>
      let gs := s.groupsOf g.wg
      if gs.all fun e => e.allAt (.regroup k) && !e.splits.isEmpty && e.flights.all (fun f => f.flag.isNone) then some (sortBy Group.grpx gs) else none

/-- A lane that moves: its old group, window base and lane, and the registers its REGROUP word names. -/
structure Mover where
  g : Group
  wb : Nat
  lane : Nat
  d : Nat
  first : Nat
  count : Nat

/-- The word at which a split stands, decoded. -/
def Split.word? (p : Split) : Option Instr :=
  p.clause.bind fun c => (c.words[c.idx]?).bind fun w => match decode w with
    | .ok i => some i
    | _ => none

/-- The lanes of a participant that move (R152). -/
def Group.movers (g : Group) : List Mover :=
  match g.splits with
  | p :: _ =>
    match p.clause, p.word? with
    | some c, some (.regroup _ (.v d) fr n) =>
      (lanesOf (c.active &&& p.mask)).map fun l => { g, wb := p.wb, lane := l, d := d.val, first := fr.val, count := n.val }
    | _, _ => []
  | [] => []

/-- What one moving lane brings to a position of a receiving group (R152). -/
def Group.receive (g : Group) (wb pos : Nat) (m : Mover) : Group :=
  let g := (List.range m.count).foldl (fun (g : Group) k =>
    g.setReg (wb + m.first + k) pos (m.g.reg (m.wb + m.first + k) m.lane)) g
  let g := (List.range 7).foldl (fun (g : Group) n =>
    g.setPred n (laneBit pos) (if m.g.pred n m.lane then laneBit pos else 0)) g
  g.setReg (wb + m.d) pos (BitVec.ofNat 32 (m.g.grpx * 32 + m.lane))

/-- A receiving group after the rendezvous: one live split at the header after its clause (R152, R153). -/
def Group.afterRegroup (g : Group) (ms : List Mover) : Group :=
  match g.splits with
  | [] => g
  | p :: _ =>
    let mask := maskOf (List.range ms.length)
    let g := ms.zipIdx.foldl (fun (g : Group) e => g.receive p.wb e.2 e.1) g
    { g with
      joins := [], defers := [], recent := [], retired := ~~~mask,
      splits := [{ p with mask, pc := p.clause.elim p.pc Clause.next, clause := none, hold := .none, join := none, inner := none,
                          wdog := g.budget.toNat, headers := 0 }] }

/-- A participant that receives no lanes ends (R152, R153). -/
def Group.dismissed (g : Group) : Group := { g.retireAll with ports := List.replicate 8 {} }

/-- REGROUP_COMPLETE (R152, R153). -/
def execRegroupComplete (s : State) : Host.Outcome State Fault Refusal :=
  match s.regroupReady? with
  | none => .next s
  | some gs =>
    let ms := gs.flatMap Group.movers
    .next (gs.zipIdx.foldl (fun s e =>
      let mine := (ms.drop (32 * e.2)).take 32
      (s.modGroup e.1.id fun _ => if mine.isEmpty then e.1.dismissed else e.1.afterRegroup mine).acquire e.1 0xFFFFFFFF .wg) s)

end Sys2Proof.Machine
end

