-- ==== Sys2Proof/Machine/Save.lean ====
section
/-! DEFINITION. The saved workgroup area (R369–R372) and SR_VSTAT (R363). -/

namespace Sys2Proof.Machine

open Sys2Proof

/-- SR_VSTAT (R363). -/
def Group.vstat (g : Group) : Word :=
  let n := (g.region.isSome).toNat * 2 ^ 31 + (g.region.elim false fun r => r.hard).toNat * 2 ^ 30
  BitVec.ofNat 32 (n + g.hreason.toNat * 2 ^ 27 + g.last.toNat * 2 ^ 25 + g.aborts.toNat * 2 ^ 8 + g.hardens.toNat)

/-- The code of an engine port (R260). -/
def EnginePort.codeOf : EnginePort → Nat
  | .gather => 1 | .mrow => 2 | .rayhit => 3 | .rayisect => 4 | .msample => 5 | .fabrx => 6 | .cpycmd => 0x11
  | .tracecmd => 0x12

/-- The HOLD code of a split entry (R371). -/
def Hold.code : Hold → Nat
  | .bar _ => 1 | .cbar _ => 2 | .regroup _ => 3 | .waitmem => 4 | .port | .drain => 5 | .queue => 6 | .tnext => 7 | _ => 0

/-- A signed 24-bit word offset from the entry header (R138). -/
def Group.offset24 (g : Group) (a : DWord) : Nat := (g.recordOffset a).getD 0

/-- A split entry (R371). -/
def Group.splitEntry (g : Group) (p : Split) : List Byte :=
  let t := p.tstate.toNat
  let mid := p.clause.isSome || p.resume.isSome
  let state := 1 + 4 * p.handler.toNat + 8 * mid.toNat + 16 * (p.pend.isSome && !p.escalated).toNat +
    32 * p.escalated.toNat + 64 * p.reissue.isSome.toNat
  let pd := p.pend.getD (trap .illegalOp)
  bytesOf 8 p.faultPc.toNat ++ bytesOf 4 p.mask.toNat ++ bytesOf 4 (bits t 0 32) ++ bytesOf 1 state ++
  bytesOf 1 p.hold.code ++ bytesOf 1 (bits t 52 4) ++ bytesOf 1 (bits t 32 8) ++ bytesOf 1 (bits t 40 1) ++
  bytesOf 2 p.wb ++ bytesOf 1 0 ++ bytesOf 2 (p.pwb.elim 0 fun b => b + 2 ^ 15) ++ bytesOf 2 (p.inner.getD 0xFFFF) ++
  bytesOf 4 (p.join.elim 0 fun a => g.offset24 a + 2 ^ 31) ++ bytesOf 4 p.wdog ++
  bytesOf 1 (if p.pend.isSome then pd.cause.code else 0) ++ bytesOf 3 0 ++
  bytesOf 4 (if p.pend.isSome then pd.tval.toNat else 0) ++ bytesOf 4 0 ++
  bytesOf 8 (if p.pend.isSome then (pd.taddr.getD 0).toNat else 0) ++ bytesOf 8 0

/-- A number of fixed-size entries, the missing ones 0. -/
def padEntries (n size : Nat) (es : List (List Byte)) : List Byte :=
  (es.take n).flatMap id ++ List.replicate ((n - es.length) * size) 0

/-- Bytes cut or filled up with zeros to a length. -/
def padBytes (n : Nat) (bs : List Byte) : List Byte := (bs ++ List.replicate n 0).take n

/-- Captured operands of a stopped instruction, and its format block for a matrix instruction (R372). -/
def Flight.captured (f : Flight) : List Byte × List Byte :=
  (match f.work with
   | .copy d => bytesOf 8 d.gaddr ++ bytesOf 4 d.laddr ++ bytesOf 4 d.ctl
   | _ => padBytes 16 (f.ops.flatMap fun w => bytesOf 4 w.toNat),
   if f.path = some .mat then padBytes 32 f.fmt else bytesOf 32 0)

/-- A stopped-instruction entry (R372). -/
def Group.stoppedEntry (g : Group) (f : Flight) : List Byte :=
  let c := f.captured
  bytesOf 4 f.word.toNat ++ bytesOf 4 f.progress ++ bytesOf 4 f.mask.toNat ++ bytesOf 1 (f.path.elim 0 Path.code) ++
  bytesOf 1 ((g.splits.findIdx? fun p => p.id = f.split).getD 0) ++ bytesOf 2 0 ++ c.1 ++ c.2

/-- A port's entries (R370). -/
def Port.image (p : Port) : List Byte :=
  padEntries 16 132 (p.entries.map fun e => (e.words.flatMap fun w => bytesOf 4 w.toNat) ++ bytesOf 4 e.mask.toNat)

/-- The task state of a group block (R370). -/
def Group.taskImage (g : Group) : List Byte :=
  ((List.range 1024).flatMap fun k => bytesOf 4 (sread g.verts k).toNat) ++
  bytesOf 4 (g.prims + 512 * g.closed.toNat) ++ bytesOf 12 0 ++
  (List.range 48).flatMap fun k => bytesOf 4 (g.sent.getD k 0)

/-- The image of a bt slot (R370): open but for its LIMIT of 0 (log 15). -/
def slotImage (tick slot : Nat) : List Byte :=
  let at_ := Config.limitAt % 25
  (List.range 32).map fun k => if at_ ≤ k ∧ k < at_ + 8 then 0 else Config.saveByte tick (32 * slot + k)

/-- A group block (R370). -/
def Group.block (g : Group) (task : Bool) (tick : Nat) : List Byte :=
  ((List.range 16).flatMap fun n => bytesOf 4 (g.scalar n).toNat) ++
  ((List.range 7).flatMap fun n => bytesOf 4 (sread g.preds n).toNat) ++ bytesOf 4 0 ++
  bytesOf 4 g.fstat.toNat ++ bytesOf 4 g.rseed.toNat ++ bytesOf 4 g.rcnt.toNat ++ bytesOf 4 g.budget.toNat ++
  bytesOf 4 g.qlimit.toNat ++ bytesOf 4 g.vstat.toNat ++ bytesOf 8 g.hgbase.toNat ++ bytesOf 8 g.rpool.toNat ++
  bytesOf 8 g.tpc.toNat ++ bytesOf 8 g.taddr.toNat ++ bytesOf 8 g.tstate.toNat ++ bytesOf 4 g.causeReg.toNat ++
  bytesOf 4 g.tval.toNat ++ bytesOf 2 g.escGen.toNat ++ bytesOf 22 0 ++
  ((g.fmt.getD []) ++ bytesOf 32 0).take 32 ++ bytesOf 8 g.seed.toNat ++ bytesOf 2 g.qsat.toNat ++
  bytesOf 1 g.fmt.isSome.toNat ++ bytesOf 21 0 ++
  padEntries 8 64 (g.splits.map g.splitEntry) ++
  (List.range 8).flatMap (slotImage tick) ++
  padEntries 64 64 ((g.flights.filter fun f => f.long).map g.stoppedEntry) ++
  (g.ports.flatMap fun p => bytesOf 1 (p.code.elim 0 EnginePort.codeOf) ++ bytesOf 1 p.entries.length ++ bytesOf 2 0) ++
  (g.ports.flatMap Port.image) ++ bytesOf 32 0 ++
  ((List.range g.regCount).flatMap fun n => (List.range 32).flatMap fun l => bytesOf 4 (g.reg n l).toNat) ++
  bytesOf 8 g.clauses.toNat ++ bytesOf 8 0 ++ (if task then g.taskImage else [])

/-- A group has arrived: every lane of it that has not retired is held so, in a live split (R165). -/
def Group.arrivedAt (g : Group) (h : Hold) : Bool := !g.splits.isEmpty && g.allAt h

/-- The groups of a list that have arrived. -/
def maskAt (gs : List Group) (h : Hold) : Nat := ((gs.filter fun g => g.arrivedAt h).map fun g => 2 ^ g.grpx).sum

/-- A workgroup has arrived at a CBAR: some group of it, and every one that still has lanes (R167). -/
def cbarAt (gs : List Group) (h : Hold) : Bool := gs.any (fun g => g.arrivedAt h) && gs.all fun g => g.empty || g.arrivedAt h

/-- The saved area of a workgroup (R369). -/
def State.saveImage (s : State) (w : Workgroup) : List Byte :=
  let gs := sortBy Group.grpx (s.groups.filter fun g => g.wg = w.id)
  let l := (s.launch? w.launch).getD { id := 0, ctx := 0, record := {}, addr := 0, arg := 0, seq := 0, age := 0 }
  let task := l.record.task
  let rg := gs.findSome? fun g => g.splits.findSome? fun p => match p.hold with
    | .regroup k => some k
    | _ => none
  bytesOf 4 1 ++ bytesOf 4 w.w ++ bytesOf 8 l.age ++ bytesOf 8 l.addr.toNat ++ bytesOf 4 l.seq.toNat ++ bytesOf 1 gs.length ++
  bytesOf 1 (l.record.preempt % 3) ++ bytesOf 2 l.record.regs ++ bytesOf 4 l.record.scratch ++ bytesOf 1 l.record.accum ++
  bytesOf 1 w.core ++ bytesOf 2 0 ++ bytesOf 4 (0x5650 + 128 * l.record.regs + (if task then 4304 else 0)) ++ bytesOf 4 0 ++
  ((List.range 16).flatMap fun k => bytesOf 4 (maskAt gs (.bar k))) ++
  bytesOf 1 (((List.range 4).filter fun k => cbarAt gs (.cbar k)).map fun k => 2 ^ k).sum ++
  bytesOf 1 (rg.elim 0 fun k => k + 128) ++ bytesOf 2 0 ++ bytesOf 4 (rg.elim 0 fun k => maskAt gs (.regroup k)) ++ bytesOf 136 0 ++
  (gs.flatMap fun g => g.block task s.tick) ++
  s.bytesAt (Space.key (.scratch w.id) 0) l.record.scratch ++
  s.bytesAt (Space.key (.accum w.id) 0) (l.record.accum * 4096) ++
  (List.range l.record.accum).flatMap fun t => bytesOf 4 (sread w.tiles t).toNat

/-- Write a workgroup's saved area into its die's save area. -/
def State.writeSave (s : State) (w : Workgroup) : State :=
  { s with saves := (s.saves.filter fun a => a.wg ≠ w.id) ++ [{ die := w.die, wg := w.id, bytes := s.saveImage w }],
           tick := s.tick + 1 }

end Sys2Proof.Machine
end

