-- ==== Sys2Proof/Machine/Sort.lean ====
section
/-! DEFINITION. Passes, task groups, emission and the reorder of primitives (R299–R311, R404, R454). -/

namespace Sys2Proof.Machine

open Sys2Proof

/-! ### Passes (R299–R302, R454) -/

def Pass.pbsize (p : Pass) : Nat := fieldAt p.bytes 12 4
def Pass.pbbase (p : Pass) : Nat := fieldAt p.bytes 16 8
def Pass.drawtab (p : Pass) : Nat := fieldAt p.bytes 32 8
def Pass.donemap (p : Pass) : Nat := fieldAt p.bytes 40 8
/-- The owner of a square, as a rectangle index. -/
def Pass.ownerOf (p : Pass) (sx sy : Nat) : Nat := fieldAt p.bytes (64 + sx % 16 + 16 * (sy % 16)) 1
def Pass.taddr (p : Pass) (k : Nat) : Nat := fieldAt p.bytes (320 + 16 * k) 8
def Pass.clear (p : Pass) (k : Nat) : Nat := fieldAt p.bytes (328 + 16 * k) 4
def Pass.tpitch (p : Pass) (k : Nat) : Nat := fieldAt p.bytes (332 + 16 * k) 2
def Pass.blend (p : Pass) (k : Nat) : Nat := bits (fieldAt p.bytes (334 + 16 * k) 1) 0 4
def Pass.outPlane (p : Pass) (k : Nat) : Bool := bit (fieldAt p.bytes (334 + 16 * k) 1) 4

/-- The dies of a pass's owners, in their order (R301). -/
def State.ownerDies (s : State) (p : Pass) : List Nat := (p.origin.bind fun o => rectDies s.ident o p.rectf p.rectr).getD []

/-- A plane entry breaks R300. -/
def badPlane (p : Pass) (k : Nat) : Bool :=
  let mode := fieldAt p.bytes (334 + 16 * k) 1
  if p.planes ≤ k then (List.range 16).any fun j => fieldAt p.bytes (320 + 16 * k + j) 1 ≠ 0
  else decide (5 < bits mode 0 4) || bits mode 5 3 ≠ 0 || fieldAt p.bytes (335 + 16 * k) 1 ≠ 0 ||
    (if bit mode 4 then p.taddr k % 4 ≠ 0 || decide (p.tpitch k < ceilDiv p.width 4)
     else p.taddr k ≠ 0 || p.tpitch k ≠ 0)

/-- The descriptor breaks R300. -/
def badPass (p : Pass) : Bool :=
  let sq := fieldAt p.bytes 4 1
  p.width = 0 || decide (16384 < p.width) || p.height = 0 || decide (16384 < p.height) || decide (2 < sq) ||
  p.planes = 0 || decide (8 < p.planes) || p.nsub = 0 || decide (4 < p.nsub) || fieldAt p.bytes 7 1 ≠ 0 ||
  p.ndraw = 0 || decide (4096 < p.ndraw) || fieldAt p.bytes 10 2 ≠ 0 || p.pbsize % 64 ≠ 0 || decide (p.pbsize < 128) ||
  p.pbbase % 64 ≠ 0 || fieldAt p.bytes 28 4 ≠ 0 || p.drawtab % 8 ≠ 0 || p.donemap % 8 ≠ 0 ||
  fieldAt p.bytes 48 16 ≠ 0 || decide (65535 < p.sqx * p.sqy) ||
  (List.range 256).any (fun k => decide (p.rectf * p.rectr ≤ fieldAt p.bytes (64 + k) 1)) ||
  (List.range 8).any (badPlane p)

/-- The pass's STATUS word (R302): state 1 OPEN, 2 SHADING, 3 DONE. -/
def State.passStatus (s : State) (p : Pass) (state : Nat) (failed : Bool) : Except Stop State :=
  hwPost s p.ctx s.active (p.desc.toNat + 24) (bytesOf 4 (state + 8 * failed.toNat + 256 * failed.toNat))

/-- The bytes of an argument block, one by one. -/
def hwBytes (s : State) (ctx die va n : Nat) : Except Stop (State × List Byte) :=
  match n with
  | 0 => .ok (s, [])
  | k + 1 =>
    match hwRead s ctx die va 1 with
    | .error e => .error e
    | .ok (s, bs) =>
      match hwBytes s ctx die (va + 1) k with
      | .error e => .error e
      | .ok (s, cs) => .ok (s, bs ++ cs)

/-- The pass that a launch of a context names, when one is open at its descriptor. -/
def State.openPass (s : State) (ctx : Nat) (desc : DWord) (status : Nat) : Option Pass :=
  s.passes.find? fun p => p.ctx = ctx && p.desc = desc && !(p.failed && status = 0)

/-- The draw entry of DRAWTAB. -/
def drawEntry (p : Pass) (draw : Nat) : Nat := p.drawtab + 2 * draw

/-- The checks of R301 for a launch whose argument block and descriptor have been read; `old` is its open pass. -/
def badPassLaunch (s : State) (r : LaunchRec) (args : List Byte) (p : Pass) (old : Option Pass) (entry : Nat) : Bool :=
  let status := fieldAt p.bytes 24 4
  badPass p || (match old with
    | none => status ≠ 0
    | some q => bits status 0 3 = 3 || bit status 3 || q.rectf ≠ r.rectf || q.rectr ≠ r.rectr) ||
  (r.task && (decide (4096 < r.wgtotal * r.groups) || decide (p.ndraw ≤ bits (fieldAt args 4 4) 0 12) ||
    bits (fieldAt args 4 4) 12 20 ≠ 0 || entry ≠ 0)) ||
  (r.pixel && (r.wgtotal ≠ 1 || decide (r.groups < 2) || decide (r.scratch < 4 * p.planes * p.side * p.side) ||
    !(r.preempt = 2 || r.preempt = 3) || (old.bind fun q => q.pixel.bind s.launch?).isSome))

/-- What acceptance reads of a pass: the argument block, the descriptor and its DRAWTAB entry. -/
def readPass (s : State) (ctx : Nat) (r : LaunchRec) : Except Stop (State × List Byte × Pass × Nat) :=
  match hwBytes s ctx s.active r.args.toNat 28 with
  | .error e => .error e
  | .ok (s, args) =>
    let desc := fieldAt args 8 8
    if desc % 64 ≠ 0 then .error (some (trap .align))
    else match hwReadAll s ctx s.active desc 7 with
      | .error e => .error e
      | .ok (s, bs) =>
        let p : Pass := { id := s.nextId, ctx, desc := BitVec.ofNat 64 desc, bytes := bs, rectf := r.rectf, rectr := r.rectr }
        if !r.task then .ok (s, args, p, 0)
        else match hwRead s ctx s.active (drawEntry p (bits (fieldAt args 4 4) 0 12)) 2 with
          | .error e => .error e
          | .ok (s, e) => .ok (s, args, p, ofBytes e)

/-- Open a pass at its first acceptance: STATUS OPEN and the headers of the parameter buffers (R302, R311). -/
def State.openNew (s : State) (p : Pass) : Except Stop State :=
  let n := p.rectf * p.rectr
  ((s.passStatus p 1 false).bind fun s =>
    (List.range n).foldl (fun (o : Except Stop State) k =>
      o.bind fun s => hwPost s p.ctx s.active (p.pbbase + k * p.pbsize) (bytesOf 64 0)) (.ok s)).map fun s =>
    { s with passes := s.passes ++ [{ p with owners := List.replicate n {} }], nextId := s.nextId + 1 }

/-- Acceptance of a launch that names a pass: its pass and argument block, refusal for reason 9, or an access that does not go
through. -/
inductive PassAnswer where
  | refused
  | stop (e : Stop)
  | ok (s : State) (pass : Nat) (args : List Byte)

/-- The entries of DRAWTAB known to the panel (R303). -/
def State.noteDraw (s : State) (p : Pass) (pid : Nat) (r : LaunchRec) (args : List Byte) : Except Stop State :=
  if !r.task then .ok s
  else
    let d := bits (fieldAt args 4 4) 0 12
    let n := r.wgtotal * r.groups
    (hwPost s p.ctx s.active (drawEntry p d) (bytesOf 2 n)).map fun s =>
      s.modPass pid fun q => { q with draws := q.draws ++ [(d, n)] }

def State.acceptPass (s : State) (ctx : Nat) (r : LaunchRec) : PassAnswer :=
  if (r.task && r.pixel) || r.cluster || r.graph then .refused
  else match readPass s ctx r with
    | .error e => (hwFailed e).elim (.stop e) fun _ => .refused
    | .ok (s, args, p, entry) =>
      let old := s.openPass ctx p.desc (fieldAt p.bytes 24 4)
      let q := old.getD p
      if badPassLaunch s r args { q with bytes := p.bytes } old entry then .refused
      else
        let opened : Except Stop State := match old with
          | some _ => .ok s
          | none => s.openNew p
        match opened.bind fun s => s.noteDraw q q.id r args with
        | .error e => .stop e
        | .ok s => .ok s q.id args

/-! ### Task groups (R303, R304) -/

/-- The draw index of a task group, from its launch's argument block. -/
def State.drawOf (s : State) (g : Group) : Nat :=
  match s.launchOf g with
  | some l => bits (fieldAt l.argBytes 4 4) 0 12
  | none => 0

/-- Its task group index (R303). -/
def State.taskIndex (s : State) (g : Group) : Nat := s.wOf g * (s.recordOf g).groups + g.grpx

def State.passOf (s : State) (g : Group) : Option Pass := (s.launchOf g).bind fun l => l.pass.bind s.pass?

/-- Primitive packets and markers of a die that are sent and not accepted (R404). -/
def State.unaccepted (s : State) (die : Nat) : Nat := (s.sorts.filter fun p => p.src = die && p.sent).length

/-- A word of the vertex store (R304). -/
def Group.vert (g : Group) (v c : Nat) : Word := sread g.verts (4 * v + c)

/-- EMITV (R305). -/
def execEmitv (d a : Operand) (s : State) : Host.Outcome State Fault Refusal :=
  issue (.emitv d a) s fun x =>
    let ws := remaining x.s.tick (fun e => (e.1, e.2.1)) (x.activeLanes.map fun l => (l, (x.src a l).toNat % 256, (List.range 4).map fun k => x.nth d k l))
    x.counted ((x.mod fun g => { g with verts := ws.foldl (fun st e =>
      e.2.2.zipIdx.foldl (fun st c => swrite st (4 * e.2.1 + c.2) c.1) st) g.verts }).bump)

/-! ### EMITP (R306, R307) -/

/-- A coordinate in units of 2^−149. -/
def coord (w : Word) : Int := finUnits (-149) (fp32.decode w.toNat)

/-- A primitive's vertices: x, y, z, 1/w of each. -/
abbrev Verts := List (List Word)

def Verts.at_ (v : Verts) (k c : Nat) : Word := (v.getD k []).getD c 0
def Verts.x (v : Verts) (k : Nat) : Int := coord (v.at_ k 0)
def Verts.y (v : Verts) (k : Nat) : Int := coord (v.at_ k 1)

/-- Twice the signed area, in units of 2^−298 (R306). -/
def Verts.area (v : Verts) : Int :=
  (v.x 1 - v.x 0) * (v.y 2 - v.y 0) - (v.x 2 - v.x 0) * (v.y 1 - v.y 0)

def isInf32 (w : Word) : Bool :=
  match fp32.decode w.toNat with
  | .inf _ => true
  | _ => false
def isNan32 (w : Word) : Bool := (fp32.decode w.toNat).isNan

/-- The primitive is dropped (R306). -/
def dropped (v : Verts) (cull : Bool) (width height : Nat) : Bool :=
  let ks := [0, 1, 2]
  let one : Int := ((2 ^ 149 : Nat) : Int)
  ks.any (fun k => (List.range 4).any fun c => isNan32 (v.at_ k c)) ||
  ks.any (fun k => isInf32 (v.at_ k 0) || isInf32 (v.at_ k 1)) ||
  (cull && decide (v.area ≤ 0)) ||
  ks.all (fun k => decide (v.x k < 0)) || ks.all (fun k => decide (v.y k < 0)) ||
  ks.all (fun k => decide ((width : Int) * one ≤ v.x k)) || ks.all (fun k => decide ((height : Int) * one ≤ v.y k))

/-- The range of squares along one axis. -/
def squareSpan (cs : List Int) (side count : Nat) : List Nat :=
  match cs with
  | [] => []
  | c :: t =>
    let unit : Int := ((side * 2 ^ 149 : Nat) : Int)
    let lo := (max 0 (Int.fdiv (t.foldl min c) unit)).toNat
    let hi := (min ((count : Int) - 1) (Int.fdiv (t.foldl max c) unit)).toNat
    (List.range (hi + 1 - lo)).map fun k => lo + k

/-- The squares a primitive touches, in ascending square id. -/
def squaresOf (p : Pass) (v : Verts) : List (Nat × Nat) :=
  (squareSpan [v.y 0, v.y 1, v.y 2] p.side p.sqy).flatMap fun sy =>
    (squareSpan [v.x 0, v.x 1, v.x 2] p.side p.sqx).map fun sx => (sx, sy)

/-- The 64 bytes of a primitive packet (R307). -/
def packetBytes (turn sid flags : Nat) (v : Verts) (attr : Nat) : List Byte :=
  bytesOf 4 turn ++ bytesOf 2 sid ++ bytesOf 2 flags ++ (v.flatMap fun q => q.flatMap fun w => bytesOf 4 w.toNat) ++ bytesOf 8 attr

/-- Emission so far: the group with its counts, and the packets formed. -/
structure Emit where
  prims : Nat
  sent : List Nat
  packets : List SortPacket

/-- What an emission needs of its group. -/
structure Emitter where
  pass : Pass
  die : Nat
  group : Nat
  flight : Nat
  draw : Nat
  index : Nat
  attrBase : Nat
  attrStride : Nat

def addCount (ns : List Nat) (k : Nat) : List Nat :=
  let ns := ns ++ List.replicate (k + 1 - ns.length) 0
  setAt ns k (ns.getD k 0 + 1)

/-- One lane's primitive (R306). -/
def emitLane (e : Emitter) (v : Verts) (flags : Nat) (m : Emit) : Emit :=
  let k := m.prims
  let turn := (e.draw * 2 ^ 20 + e.index * 2 ^ 8 + k) % 2 ^ 32
  let m := { m with prims := k + 1 }
  if dropped v (bit flags 0) e.pass.width e.pass.height then m
  else
    let attr := (e.attrBase + e.attrStride * (256 * e.index + k)) % 2 ^ 64
    (squaresOf e.pass v).foldl (fun (m : Emit) q =>
      let o := e.pass.ownerOf q.1 q.2
      let sid := q.2 * e.pass.sqx + q.1
      { m with
        sent := addCount m.sent o,
        packets := m.packets ++
          [{ id := 0, pass := e.pass.id, owner := o, src := e.die, close := false, turn,
             bytes := packetBytes turn sid (flags % 2 ^ 16) v attr, num := m.sent.getD o 0, group := e.group, flight := e.flight }] }) m

def State.emitter (s : State) (g : Group) (p : Pass) : Emitter :=
  let args := match s.launchOf g with
    | some l => l.argBytes
    | none => []
  { pass := p, die := g.die, group := g.id, flight := g.nextFlight, draw := s.drawOf g, index := s.taskIndex g,
    attrBase := fieldAt args 16 8, attrStride := fieldAt args 24 4 }

/-- Add packets that a die still has to send. -/
def State.addSorts (s : State) (ps : List SortPacket) : State :=
  { s with sorts := s.sorts ++ (ps.zipIdx.map fun e => { e.1 with id := s.nextId + e.2 }), nextId := s.nextId + ps.length }

/-- An outstanding emission: it counts on RND until its packets are accepted. -/
def Ctx.emission (x : Ctx) (s : State) (n : Nat) : State :=
  s.modGroup x.g.id fun g => g.addFlight (x.flight none (if n = 0 then .performed else .sort n))

/-- EMITP (R306). -/
def execEmitp (a b : Operand) (s : State) : Host.Outcome State Fault Refusal :=
  issue (.emitp a b) s fun x =>
    match x.s.passOf x.g with
    | none => .fault (trap .illegalForm)
    | some p =>
      if 256 < x.g.prims + x.activeLanes.length then .fault (trap .illegalForm)
      else if !x.anyActive then .done x.s
      else if 512 ≤ x.s.unaccepted x.g.die then .hold .work
      else
        let e := x.s.emitter x.g p
        let m := x.activeLanes.foldl (fun (m : Emit) l =>
          let idx := (x.src a l).toNat
          let v : Verts := (List.range 3).map fun k => (List.range 4).map fun c => x.g.vert (bits idx (8 * k) 8) c
          emitLane e v (x.src b l).toNat m) { prims := x.g.prims, sent := x.g.sent, packets := [] }
        let s := (x.mod fun g => { g with prims := m.prims, sent := m.sent }).addSorts m.packets
        .done (x.emission s m.packets.length)

/-- The close markers of a task group, one for every die of the rectangle (R307, R308). -/
def closeMarkers (e : Emitter) (sent : List Nat) : List SortPacket :=
  let turn := (e.draw * 2 ^ 20 + e.index * 2 ^ 8) % 2 ^ 32
  (List.range (e.pass.rectf * e.pass.rectr)).map fun o =>
    let n := sent.getD o 0
    { id := 0, pass := e.pass.id, owner := o, src := e.die, close := true, turn,
      bytes := bytesOf 4 turn ++ bytesOf 2 0xFFFF ++ bytesOf 2 n ++ bytesOf 56 0, num := n % 2 ^ 32, group := e.group,
      flight := e.flight }

/-- EMITEND (R308): whatever the guard; it is a release at PNL, so it hardens a versioned region (R362), and the markers go out when
what it covers is performed. -/
def execEmitend (s : State) : Host.Outcome State Fault Refusal :=
  issue .emitend s fun x =>
    match x.s.passOf x.g with
    | none => .fault (trap .illegalForm)
    | some p =>
      if 512 ≤ x.s.unaccepted x.g.die then .hold .work
      else
        let ms := closeMarkers (x.s.emitter x.g p) x.g.sent
        x.afterRelease 4 fun s =>
        let s := (s.modGroup x.g.id fun g => { g with closed := true }).addSorts ms
        .done (x.emission s ms.length)

/-- A task group that ends without EMITEND closes in the same way (R308). -/
def State.closeAtEnd (s : State) (g : Group) : State :=
  match s.passOf g with
  | none => s
  | some p => if s.isTask g && !g.closed then s.addSorts (closeMarkers (s.emitter g p) g.sent) else s

/-! ### SORT_SEND (R404) -/

/-- The first packet formed and not sent, of a die with fewer than 512 unaccepted. -/
def State.sendable? (s : State) : Option SortPacket := s.sorts.find? fun p => !p.sent && decide (s.unaccepted p.src < 512)

/-- The mesh packet of a packet or marker, to the physical die at its owner's index; its number stands in ADDR (R307, R385, R387). -/
def State.sortPacket (s : State) (p : SortPacket) : MeshPacket :=
  { type := if p.close then 0x11 else 0x10, cls := 1, src := p.src, dst := (s.pass? p.pass).elim p.src fun a => (s.ownerDies a).getD p.owner p.src,
    tag := p.id, addr := p.num, payload := p.bytes, len := 64 }

/-- SORT_SEND (R404): the next packet of a die is sent. -/
def execSortSend (s : State) : Host.Outcome State Fault Refusal :=
  match s.sendable? with
  | none => .next s
  | some p => .next ({ s with sorts := s.sorts.map fun (q : SortPacket) => if q.id = p.id then { q with sent := true } else q }.send (s.sortPacket p))

/-! ### The owner (R309–R311) -/

/-- The number of task groups of a draw, when known. -/
def Pass.drawCount (p : Pass) (d : Nat) : Option Nat := (p.draws.find? fun e => e.1 = d).map fun e => e.2

/-- The draw and task group of a packet. -/
def SortPacket.of (p : SortPacket) : Nat × Nat := (p.turn / 2 ^ 20, p.turn / 2 ^ 8 % 2 ^ 12)

/-- The oldest open task group over the draws that are known (R309). -/
def Pass.oldestKnown (p : Pass) (o : Owner) : Nat × Nat :=
  if (p.drawCount o.oldest.1).isSome then o.oldest
  else ((((List.range p.ndraw).filter fun d => decide (o.oldest.1 < d)).find? fun d => (p.drawCount d).isSome).getD p.ndraw, 0)

/-- The owner's draw is known, so its oldest group may release. -/
def Pass.releasing (p : Pass) (o : Owner) : Bool := (p.drawCount o.oldest.1).isSome

/-- Store one released packet in the parameter buffer (R311); a buffer without room for it fails the pass, and its owner discards
the packet, as it does every later one. -/
def storePacket (p : Pass) (k : Nat) (o : Owner) (q : SortPacket) (s : State) : Except Stop (State × Pass × Owner) :=
  let o := { o with released := o.released + 1 }
  let die := (s.ownerDies p).getD k s.active
  if p.pbsize < 64 * (o.stored + 2) then
    if p.failed then .ok (s, p, o) else (s.passStatus p 1 true).map fun s => (s, { p with failed := true }, o)
  else
    let base := p.pbbase + k * p.pbsize
    (hwPost s p.ctx die (base + 64 * (o.stored + 1)) q.bytes).bind fun s =>
      (hwPost s p.ctx die base (bytesOf 4 (o.stored + 1))).map fun s => (s, p, { o with stored := o.stored + 1 })

/-- The next (draw, g) after a group. -/
def Pass.nextTask (p : Pass) (t : Nat × Nat) : Nat × Nat :=
  match p.drawCount t.1 with
  | some n => if t.2 + 1 < n then (t.1, t.2 + 1) else (t.1 + 1, 0)
  | none => t

/-- Release held packets and move past closed groups while possible (R309). `fuel` bounds it by the entries held. -/
def drainOwner (fuel k : Nat) (p : Pass) (o : Owner) (s : State) : Except Stop (State × Pass × Owner) :=
  match fuel with
  | 0 => .ok (s, p, o)
  | n + 1 =>
    if o.oldest.1 = p.ndraw then .ok (s, p, { o with closed := true })
    else if !p.releasing o then .ok (s, p, o)
    else match o.held.find? fun q => q.of = o.oldest && !q.close && q.num = o.released with
      | some q =>
        (storePacket p k { o with held := o.held.filter fun e => e.id ≠ q.id } q s).bind fun r => drainOwner n k r.2.1 r.2.2 r.1
      | none => match o.held.find? fun q => q.of = o.oldest && q.close && q.num = o.released with
        | some q => drainOwner n k p { o with held := (o.held.filter fun e => e.id ≠ q.id), oldest := p.nextTask o.oldest, released := 0 } s
        | none => .ok (s, p, o)

/-- An arrival finds a free entry, or needs none (R309, R310): the oldest open group fills its 1,024 entries first, and the entries
it holds beyond them count against those of the younger groups. Its close marker takes no entry. -/
def Owner.accepts (p : Pass) (o : Owner) (q : SortPacket) : Bool :=
  let old := p.oldestKnown o
  let mine := (o.held.filter fun e => !e.close && e.of = old).length
  let others := (o.held.filter fun e => e.of ≠ old).length
  if q.of = old then q.close || (p.releasing o && q.num = o.released) || decide (mine + others < 16384)
  else decide (others + (mine - 1024) < 15360)

/-- The emission of an accepted packet has one packet less to wait for. -/
def State.accepted (s : State) (q : SortPacket) : State :=
  s.modGroup q.group fun g =>
    match g.flight? q.flight with
    | some f => match f.work with
      | .sort n => if n ≤ 1 then g.completeFlight f.id else g.modFlight f.id fun f => { f with work := .sort (n - 1), unitAt := s.cycle }
      | _ => g
    | none => g

/-- Every owner has closed: STATUS becomes SHADING, unless the pass failed (R302). -/
def State.shadeIfClosed (s : State) (pid : Nat) : Except Stop State :=
  match s.pass? pid with
  | none => .ok s
  | some p =>
    if p.shading || !p.owners.all (fun o => o.closed) then .ok s
    else
      let s := s.modPass pid fun p => { p with shading := true }
      if p.failed then .ok s else s.passStatus p 2 false

/-- The owner of a packet or marker takes it now (R310); one of a pass that is gone is taken and dropped. -/
def State.takesSort (s : State) (q : SortPacket) : Bool := (s.pass? q.pass).elim true fun p => (p.owners.getD q.owner {}).accepts p q

/-- A packet or marker that its owner accepts (R309, R311). -/
def State.acceptSort (s : State) (q : SortPacket) : Except Stop State :=
  match s.pass? q.pass with
  | none => .ok { s with sorts := s.sorts.filter fun e => e.id ≠ q.id }
  | some p =>
    let o := p.owners.getD q.owner {}
    (drainOwner (2 * o.held.length + 3) q.owner p { o with held := o.held ++ [q] } s).bind fun r =>
      let s := r.1.modPass p.id fun _ => { r.2.1 with owners := setAt r.2.1.owners q.owner r.2.2 }
      let s := ({ s with sorts := s.sorts.filter fun e => e.id ≠ q.id }).accepted q
      s.shadeIfClosed p.id

/-- The outcome of a hardware act that is its context's own: done, waiting, or frozen (R351, R403). -/
def State.hwNext (s : State) (r : Except Stop State) : Host.Outcome State Fault Refusal :=
  match r with
  | .ok s' => .next s'
  | .error e => .next (s.hwFail e fun _ => s)

end Sys2Proof.Machine
end

