-- ==== Sys2Proof/Machine/Residency.lean ====
section
/-! DEFINITION. Acceptance of children, residency, the end of groups and launches, pre-emption and restoration
(R97, R127, R181–R190, R206, R365–R368). -/

namespace Sys2Proof.Machine

open Sys2Proof

/-! ### CHILD_ACCEPT (R181, R182) -/

/-- A graph cursor learns the launch that its child became (R193). -/
def State.noteCursor (s : State) (c : Child) (lid : Nat) : State :=
  match c.graph with
  | none => s
  | some (gid, cid) =>
    { s with graphs := s.graphs.map fun g =>
        if g.id = gid then { g with cursors := g.cursors.map fun k =>
          if k.id = cid then { k with launch := some lid, waiting := false } else k } else g }

/-- The launch a child becomes, in the context that owns its queue. -/
def State.newLaunch (s : State) (c : Child) (r : LaunchRec) (seq : Word) : Launch :=
  { id := s.nextId, ctx := (s.queues.getD r.queue {}).ctx, record := r, addr := c.addr, arg := c.arg, seq, age := s.nextAge,
    fromDie := c.fromDie }

def State.addLaunch (s : State) (l : Launch) : State :=
  { s with launches := s.launches ++ [l], nextId := s.nextId + 1, nextAge := s.nextAge + 1 }

/-- A queue's counter moves on; a refused record counts in REFUSED (R181, R182). -/
def State.takeIndex (s : State) (q : Nat) (refused : Bool) : State :=
  { s with queues := modAt s.queues q fun e =>
      { e with seq := e.seq + 1, refused := if refused && e.refused ≠ 0xFFFFFFFF then e.refused + 1 else e.refused } }

/-- The context of a child's launch: the one that owns its queue (R181, R452; log 30). -/
def State.childCtx (s : State) (c : Child) (q : Nat) : Nat := if q < 128 then (s.queues.getD q {}).ctx else c.ctx

/-- A refused child: its completion word, in the launch's context, says why (R181, R183, R452; log 30). -/
def State.refuse (s : State) (c : Child) (r : LaunchRec) (reason : Nat) : Except Stop State :=
  let named := decide (r.queue < 128)
  let seq := if named then (s.queues.getD r.queue {}).seq else 0
  let s := if named then s.takeIndex r.queue true else s
  let l := { s.newLaunch c r seq with state := .finished 2, ctx := s.childCtx c r.queue }
  let s := if c.graph.isSome then (s.addLaunch l).noteCursor c l.id else s
  s.complete l.ctx s.active r.completion seq reason 2

/-- An accepted child joins its queue. -/
def State.enqueue (s : State) (c : Child) (r : LaunchRec) (pass : Option Nat) (args : List Byte) : State :=
  let l := { s.newLaunch c r (s.queues.getD r.queue {}).seq with pass, argBytes := args }
  let s := ((s.takeIndex r.queue false).addLaunch l).noteCursor c l.id
  match pass with
  | some p => if r.pixel then s.modPass p fun q => { q with pixel := some l.id } else s
  | none => s

/-- A child of a record of given bytes is refused, or joins its queue. -/
def State.acceptRecord (s : State) (c : Child) (r : LaunchRec) (bs : List Byte) : Except Stop State :=
  let reason := s.refusal c r bs
  if reason ≠ 0 then s.refuse c r reason
  else if r.task || r.pixel then
    match s.acceptPass (s.queues.getD r.queue {}).ctx r with
    | .refused => s.refuse c r 9
    | .stop e => .error e
    | .ok s pid args => .ok (s.enqueue c r (some pid) args)
  else .ok (s.enqueue c r none [])

/-- The first child waiting at the queues: its record is read in the launch's context (R452), for the queue that LAUNCH found in it.
A record that cannot be read is refused, and no completion word is known (R452; log 30). -/
def State.acceptChild (s : State) (c : Child) : Except Stop State :=
  let q := fieldAt c.bytes 26 1
  let s := { s with children := removeFirst s.children c }
  match hwReadAll s (s.childCtx c q) s.active c.addr.toNat 2 with
  | .error e => (hwFailed e).elim (.error e) fun _ => s.refuse c { queue := q } 0
  | .ok (s, bs) => s.acceptRecord c { parseRecord bs with queue := q } bs

/-- The queue that a child's record named when the child was created. -/
def Child.queue (c : Child) : Nat := fieldAt c.bytes 26 1

/-- What a child's issuer issued before it is performed (R169), and its queue, when it is enabled, holds fewer than DEPTH pending launches
(R182). A child outlives its issuer, whose context may end first (log 63). -/
def State.childReady (s : State) (c : Child) : Bool :=
  (c.after.elim true fun a => (s.group? a.1).elim true fun g => !s.behind g a.2) &&
  (decide (127 < c.queue) || !bit (s.queues.getD c.queue {}).ctl 0 || decide (s.pendingIn c.queue < (s.queues.getD c.queue {}).depth))

/-- The next child that its queue accepts: the first that is ready, behind no other of its queue (R169, R182). -/
def State.nextChild? (s : State) : Option Child :=
  s.children.find? fun c => s.childReady c && (s.children.find? fun d => d.queue = c.queue) = some c

/-- CHILD_ACCEPT (R169, R181, R182, R301). -/
def execChildAccept (s : State) : Host.Outcome State Fault Refusal :=
  match s.nextChild? with
  | none => .next s
  | some c => s.hwNext (s.acceptChild c)

/-! ### Room (R127, R185, R205, R208) -/

/-- Workgroups that hold a core's resources. -/
def State.residents (s : State) (die core : Nat) (without : List Nat) : List Workgroup :=
  s.workgroups.filter fun w => w.die = die && w.core = core && !w.saved && !(without.contains w.id)

def State.recordOfWg (s : State) (w : Workgroup) : LaunchRec :=
  match s.launch? w.launch with
  | some l => l.record
  | none => {}

/-- The lowest aligned free range of a size (R205). -/
def firstFit (cap : Nat) (used : List (Nat × Nat)) (size : Nat) : Option Nat :=
  if size = 0 then some 0
  else
    let starts := sortBy id (0 :: used.map fun u => u.1 + u.2)
    starts.find? fun b => decide (b + size ≤ cap) && used.all fun u => decide (b + size ≤ u.1) || decide (u.1 + u.2 ≤ b)

/-- Where a workgroup fits on a core: scratchpad and accumulator bases. -/
structure Fit where
  core : Nat
  scratch : Nat
  accum : Nat

/-- A workgroup fits on a core: its groups on the datapaths (R127), its scratchpad (R205), and its accumulator tiles, for which the
model takes one contiguous free range (log 60). -/
def State.coreFit (s : State) (die core : Nat) (r : LaunchRec) (without : List Nat) : Option Fit :=
  let ws := s.residents die core without
  let path (k : Nat) : Bool :=
    let used := ws.map fun w => ((s.recordOfWg w).groups + 1 - k) / 2
    let regs := ws.map fun w => ((s.recordOfWg w).groups + 1 - k) / 2 * (s.recordOfWg w).regs
    let n := (r.groups + 1 - k) / 2
    decide (used.sum + n ≤ 24) && decide (regs.sum + n * r.regs ≤ 1024)
  if !(path 0 && path 1) then none
  else
    let used (f : Workgroup → Nat × Nat) : List (Nat × Nat) := (ws.map f).filter fun u => u.2 ≠ 0
    (firstFit 393216 (used fun w => (w.scratchBase, (s.recordOfWg w).scratch)) r.scratch).bind fun sb =>
      (firstFit 64 (used fun w => (w.accumBase, (s.recordOfWg w).accum)) r.accum).map fun ab => ⟨core, sb, ab⟩

/-- A launch has not completed. -/
def Launch.runs (l : Launch) : Bool :=
  match l.state with
  | .finished _ => false
  | _ => true

/-- A square that pre-emption discarded starts again on a die (R323). -/
def State.restartsOn (s : State) (l : Launch) (die : Nat) : Bool :=
  (l.pass.bind s.pass?).any fun p => l.again.any fun q => (s.ownerDies p)[p.ownerOf (q % p.sqx) (q / p.sqx)]? = some die

/-- Every workgroup of a launch on a die is pre-empted, or would be with these: its die scratchpad is in the save area (R208). -/
def State.scratchAway (s : State) (die : Nat) (l : Launch) (without : List Nat) : Bool :=
  let ws := s.workgroups.filter fun w => w.launch = l.id && w.die = die
  (!ws.isEmpty || s.restartsOn l die) && ws.all fun w => w.saved || without.contains w.id

/-- The die scratchpad has room for a launch: every other one keeps its allocation on a die until it completes, unless all its
workgroups there are pre-empted (R207, R208). -/
def State.dieScratchFit (s : State) (die : Nat) (l : Launch) (without : List Nat) : Bool :=
  let others := (s.launches.filter fun e => e.id ≠ l.id && e.runs && e.scratchDies.contains die && !(s.scratchAway die e without)).map
    fun e => roundUp e.record.diescratch 4096
  decide (others.sum + roundUp l.record.diescratch 4096 ≤ 33554432)

/-- Where one workgroup, or the four of a cluster, fit on a die (R155, R185). -/
def State.dieFit (s : State) (die : Nat) (l : Launch) (without : List Nat) : Option (List Fit) :=
  if !s.dieScratchFit die l without then none
  else if l.record.cluster then
    (List.range 16).findSome? fun c => (List.range 4).mapM fun k => s.coreFit die (4 * c + k) l.record without
  else (List.range 64).findSome? fun c => (s.coreFit die c l.record without).map fun f => [f]

/-! ### Choosing the next workgroup (R185–R188) -/

/-- The lowest workgroup index of a launch not yet resident on rectangle die k: the first of its cluster. -/
def Launch.nextOn (l : Launch) (n k : Nat) : Option Nat :=
  if l.record.cluster then
    let c := ((l.placed.filter fun w => w % 4 = 0 && w / 4 % n = k).length) * n + k
    if 4 * c < l.record.wgtotal then some (4 * c) else none
  else
    let w := ((l.placed.filter fun w => w % n = k).length) * n + k
    if w < l.record.wgtotal then some w else none

/-- The rectangles to try, in the order of R186. -/
def State.candidates (s : State) (l : Launch) : List ((Nat × Nat) × List Nat) :=
  let fixed := match l.pass.bind s.pass? with
    | some p => p.origin
    | none => l.origin
  match fixed with
  | some o => ((rectDies s.ident o l.record.rectf l.record.rectr).map fun ds => (o, ds)).toList
  | none =>
    let all := origins s.ident l.record.rectf l.record.rectr
    match l.fromDie with
    | some d => (all.filter fun o => o.2.contains d) ++ all.filter fun o => !o.2.contains d
    | none => all

/-- The origin is fixed already. -/
def State.originFixed (s : State) (l : Launch) : Bool :=
  match l.pass.bind s.pass? with
  | some p => p.origin.isSome
  | none => l.origin.isSome

/-- A placement: the origin, the first workgroup index, the die and the fits. -/
structure Placement where
  origin : Nat × Nat
  w : Nat
  die : Nat
  fits : List Fit

/-- The next workgroup that can become resident in a rectangle, avoiding dies held for others (R188). -/
def State.placeIn (s : State) (l : Launch) (o : (Nat × Nat) × List Nat) (avoid : List Nat) : Option Placement :=
  o.2.zipIdx.findSome? fun e =>
    if avoid.contains e.1 then none
    else (l.nextOn o.2.length e.2).bind fun w => (s.dieFit e.1 l []).map fun fs => ⟨o.1, w, e.1, fs⟩

/-- Where a launch's next workgroup goes: its origin must be fixed, or every die of the rectangle have room (R186). -/
def State.placement (s : State) (l : Launch) (avoid : List Nat) : Option Placement :=
  (s.candidates l).findSome? fun o =>
    if s.originFixed l || o.2.all (fun d => !avoid.contains d && (s.dieFit d l []).isSome) then s.placeIn l o avoid else none

def State.priority (s : State) (l : Launch) : Nat := min l.record.prio (bits (s.queues.getD l.record.queue {}).ctl 1 3)

/-- The launches of a context with pre-empted workgroups: saved ones, or squares that are to start again (R189, R323). -/
def State.displaced (s : State) (ctx : Nat) : List Launch :=
  s.launches.filter fun l => l.ctx = ctx && (!l.again.isEmpty || s.workgroups.any fun w => w.saved && w.launch = l.id)

/-- A launch may make workgroups resident as far as pre-empted ones of its context are concerned: there are none, or squares of its
own start again and no older launch has any (R189). -/
def State.mayPlace (s : State) (l : Launch) : Bool :=
  let ds := s.displaced l.ctx
  ds.isEmpty || (!l.again.isEmpty && ds.all fun d => decide (l.age ≤ d.age))

/-- The oldest pending launch of a queue (R187). -/
def State.head? (s : State) (q : Nat) : Option Launch :=
  (sortBy Launch.age (s.launches.filter fun l => l.record.queue = q && s.pending l)).head?

/-- A head that the distributor may start now: a later launch of a pass waits until the pass's origin is fixed (R301). -/
def State.startable (s : State) (l : Launch) : Bool :=
  !(s.context l.ctx).stopped && s.mayPlace l &&
  (match l.pass.bind s.pass? with
   | some p => p.origin.isSome || (s.launches.filter fun e => e.pass = l.pass).all fun e => decide (l.age ≤ e.age)
   | none => true)

/-- The launches at the heads of the queues, in the order they are served (R187). -/
def State.served (s : State) : List Launch :=
  let hs := ((List.range 128).filterMap s.head?).filter s.startable
  sortBy (fun l => (7 - s.priority l) * 128 + (l.record.queue + 127 - s.lastQueue) % 128) hs

/-- The dies on which a launch of a priority may stop workgroups: with all its victims gone there is room (R188). -/
def State.victims (s : State) (l : Launch) (die : Nat) : List Workgroup :=
  s.workgroups.filter fun w => w.die = die && !w.saved &&
    (s.launch? w.launch).elim false fun e => decide (s.priority e < s.priority l) && e.record.preempt ≠ 3

def State.roomWithout (s : State) (l : Launch) (die : Nat) : Bool :=
  (s.dieFit die l ((s.victims l die).map fun w => w.id)).isSome

/-- The dies that a launch without room needs (R188). -/
def State.needed (s : State) (l : Launch) : List Nat :=
  if s.originFixed l then
    match (s.candidates l).head? with
    | some o => (o.2.zipIdx.filter fun e => (l.nextOn o.2.length e.2).isSome && s.roomWithout l e.1).map fun e => e.1
    | none => []
  else
    match (s.candidates l).find? fun o => o.2.all fun d => s.roomWithout l d with
    | some o => o.2
    | none => []

/-! ### Squares (R312) -/

/-- A square that an owner die starts next: the owner's index, its die and the square's id. -/
structure NextSquare where
  owner : Nat
  die : Nat
  sid : Nat

/-- The squares that the owners at which a pixel launch's pass has closed start next, one for each owner, in ascending
square id; squares that pre-emption discarded start before others (R189, R312). -/
def State.nextSquares (s : State) (l : Launch) : List NextSquare :=
  match l.pass.bind s.pass? with
  | none => []
  | some p =>
    if p.failed then []
    else
      p.owners.zipIdx.filterMap fun e =>
        if !e.1.closed then none
        else (((List.range (p.sqx * p.sqy)).find? fun q =>
            p.ownerOf (q % p.sqx) (q / p.sqx) = e.2 && !l.placed.contains q && (l.again.isEmpty || l.again.contains q)).bind fun q =>
          ((s.ownerDies p)[e.2]?).map fun d => ⟨e.2, d, q⟩)

/-- The first square with room on its die. -/
def State.squarePlace (s : State) (l : Launch) (avoid : List Nat) : Option (NextSquare × Fit) :=
  (s.nextSquares l).findSome? fun q =>
    if avoid.contains q.die then none
    else ((s.dieFit q.die l []).bind List.head?).map fun f => (q, f)

/-- What the distributor does next: a graph starts, a workgroup or a square becomes resident, or a launch needs room on
dies. -/
inductive Decision where
  | graph (l : Launch)
  | place (l : Launch) (p : Placement)
  | square (l : Launch) (q : NextSquare) (f : Fit)
  | preempt (l : Launch) (dies : List Nat)

/-- The first launch, in serving order, that can start; dies needed by earlier ones are held for them (R187, R188): against every launch
that is served later, of equal effective priority too, of which the spec does not speak (log 70). -/
def decideFrom (s : State) (ls : List Launch) (avoid : List Nat) (pre : Option Decision) : Option Decision :=
  match ls with
  | [] => pre
  | l :: t =>
    if l.record.graph then
      if s.graphs.length < 16 then some (.graph l) else decideFrom s t avoid pre
    else if l.record.pixel then
      match s.squarePlace l avoid with
      | some (q, f) => some (.square l q f)
      | none =>
        let ds := ((s.nextSquares l).filter fun q => !avoid.contains q.die && s.roomWithout l q.die).map fun q => q.die
        decideFrom s t (avoid ++ ds) (if pre.isNone && !ds.isEmpty then some (.preempt l ds) else pre)
    else match s.placement l avoid with
      | some p => some (.place l p)
      | none =>
        let ds := (s.needed l).filter fun d => !avoid.contains d
        decideFrom s t (avoid ++ ds) (if pre.isNone && !ds.isEmpty then some (.preempt l ds) else pre)

def State.decision (s : State) : Option Decision := decideFrom s s.served [] none

/-! ### WORKGROUP_RESIDENT (R184, R185) -/

/-- The lowest free slots of a core (R356). -/
def State.freeSlots (s : State) (die core n : Nat) : List Nat :=
  let used := (s.residents die core []).flatMap fun w => w.slots
  ((List.range 48).filter fun k => !used.contains k).take n

/-- The scalars a group starts with (R184). -/
def startScalars (l : Launch) (w : Nat) : Store 32 :=
  let put (st : Store 32) (n : Nat) (v : Nat) : Store 32 := swrite st n (BitVec.ofNat 32 v)
  let st := put [] 0 l.arg.toNat
  let st := put st 1 l.seq.toNat
  let st := put (put st 2 l.record.args.toNat) 3 (l.record.args.toNat / 2 ^ 32)
  let st := put st 4 w
  put (put st 6 l.addr.toNat) 7 (l.addr.toNat / 2 ^ 32)

/-- A group as it starts (R9, R184). -/
def newGroup (id wg ctx die core grpx slot : Nat) (l : Launch) (w : Nat) (rseed : Word) : Group :=
  { id, wg, ctx, die, core, grpx, slot, sliceSize := max l.record.lanestore 512, regCount := l.record.regs,
    scalars := startScalars l w, rseed, entry := l.record.entry,
    splits := [{ id := 0, mask := 0xFFFFFFFF, pc := l.record.entry, wdog := 0x100000 }] }

/-- The first word of an argument block, for SR_RSEED (R184). -/
def readSeed (s : State) (l : Launch) (die : Nat) : Except Stop (State × Word) :=
  if l.record.args = 0 then .ok (s, 0)
  else match hwBytes s l.ctx die l.record.args.toNat 4 with
    | .error e => .error e
    | .ok (s, bs) => .ok (s, BitVec.ofNat 32 (ofBytes bs))

/-- The first words of groups that start on a core come after an acquire: its L1 forgets its global lines (R237, R312). -/
def State.startCore (s : State) (die core : Nat) : State :=
  (s.dropLines fun e => e.die = die && !e.host && e.core = core).fitL1 die core

/-- Make one workgroup resident on a core. The kernel's square workgroups start in `State.addSquare`. -/
def State.addWorkgroup (s : State) (l : Launch) (w die : Nat) (f : Fit) (rseed : Word) : State :=
  let wg := s.nextId
  let slots := s.freeSlots die f.core l.record.groups
  let gs := (List.range l.record.groups).map fun k =>
    newGroup (wg + 1 + k) wg l.ctx die f.core k (slots.getD k 0) l w rseed
  let u : Workgroup := { id := wg, launch := l.id, w, die, core := f.core, scratchBase := f.scratch, accumBase := f.accum,
                         groups := gs.map (fun g => g.id), slots, rseed, ring := s.ring }
  { s with groups := s.groups ++ gs, workgroups := s.workgroups ++ [u], nextId := wg + 1 + l.record.groups }.startCore die f.core

/-- A launch's workgroup or square is resident: its die scratchpad is allocated there (R208). -/
def State.nowPlaced (s : State) (lid w die : Nat) : State :=
  s.modLaunch lid fun e =>
    { e with placed := w :: e.placed, again := e.again.filter fun k => k ≠ w,
             scratchDies := if e.scratchDies.contains die then e.scratchDies else die :: e.scratchDies }

/-- The origin is fixed once the first workgroup becomes resident (R186, R301). -/
def State.fixOrigin (s : State) (l : Launch) (o : Nat × Nat) : State :=
  let s := s.modLaunch l.id fun e => { e with origin := some o, state := .running }
  match l.pass with
  | some p => s.modPass p fun q => { q with origin := some o }
  | none => s

/-- Place one workgroup, or the four of a cluster. That is one turn of the round-robin among queues of equal priority: the spec does not
say what a turn is (log 69). -/
def State.doPlace (s : State) (l : Launch) (p : Placement) : State :=
  match readSeed s l p.die with
  | .error e => s.hwFail e fun t =>
    ((s.ctxFatal l.ctx p.die t).fixOrigin l p.origin).modLaunch l.id fun e => { e with placed := p.w :: e.placed }
  | .ok (s, rseed) =>
    let s := { s.fixOrigin l p.origin with lastQueue := l.record.queue }
    p.fits.zipIdx.foldl (fun s e =>
      (s.addWorkgroup l (p.w + e.2) p.die e.1 rseed).nowPlaced l.id (p.w + e.2) p.die) s

/-- Start a task graph: one cursor at node 0 (R192, R193). -/
def State.startGraph (s : State) (l : Launch) : State :=
  { s.modLaunch l.id (fun e => { e with state := .running }) with
    graphs := s.graphs ++ [{ id := s.nextId, launch := l.id, cursors := [{ id := 0, node := 0 }] }],
    nextId := s.nextId + 1, lastQueue := l.record.queue }

/-- WORKGROUP_RESIDENT (R184–R187, R192). -/
def execWorkgroupResident (s : State) : Host.Outcome State Fault Refusal :=
  match s.decision with
  | some (.place l p) => .next (s.doPlace l p)
  | some (.graph l) => .next (s.startGraph l)
  | _ => .next s

/-- SCRATCH_DRAIN (R206): the lines of the core that the next workgroup goes to leave its L1; nothing else that is visible changes. -/
def execScratchDrain (s : State) : Host.Outcome State Fault Refusal :=
  let s := { s with cycle := s.cycle + 1 }
  match s.decision with
  | some (.place _ p) => .next (s.dropLines fun e => e.die = p.die && !e.host && p.fits.any fun f => f.core = e.core)
  | some (.square _ q f) => .next (s.dropLines fun e => e.die = q.die && !e.host && e.core = f.core)
  | _ => .next s

/-! ### The end of groups, workgroups and launches (R97, R183, R322) -/

/-- Every lane has retired, and nothing is outstanding (R97). -/
def Group.over (g : Group) : Bool := g.empty && g.flights.isEmpty && g.rays.isEmpty && g.efaults.isEmpty

/-- A request of a group to another package has not been acknowledged (R171, R226). -/
def State.sends (s : State) (gid : Nat) : Bool := s.fabricOut.any fun f => f.owner.elim false fun o => o.1 = gid

/-- A group that ends next: its phase posts are performed too (R171). -/
def State.overGroup? (s : State) : Option Group := s.groups.find? fun g => s.live g && g.over && !s.sends g.id

/-- A workgroup ends with its last group, a square's once every batch has ended as well (R312, R322). -/
def State.endWorkgroup (s : State) (wid : Nat) : State :=
  match s.workgroup? wid with
  | none => s
  | some w =>
    let batches := w.square.elim false fun q => !q.running.isEmpty || decide (q.next < q.total)
    if s.groups.any (fun g => g.wg = wid) || batches then s
    else
      let s := { s with workgroups := s.workgroups.filter fun u => u.id ≠ wid }
      s.modLaunch w.launch fun l =>
        { l with ended := l.ended + 1, finished := if w.square.isSome then w.w :: l.finished else l.finished }

/-- A batch ends when its group ends (R315). -/
def State.endBatch (s : State) (g : Group) : State :=
  s.modWorkgroup g.wg fun w =>
    { w with groups := w.groups.filter fun i => i ≠ g.id,
             square := w.square.map fun q => { q with running := q.running.filter fun r => r.2.2.2 ≠ g.id } }

/-- GROUP_END (R97, R308, R315, R322). -/
def execGroupEnd (s : State) : Host.Outcome State Fault Refusal :=
  match s.overGroup? with
  | none => .next s
  | some g =>
    let s := (s.closeAtEnd g).endBatch g
    .next (({ s with groups := s.groups.filter fun h => h.id ≠ g.id }).endWorkgroup g.wg)

/-- Every workgroup of a running launch has ended; a failed pass's pixel launch starts no square (R183, R302). -/
def State.doneLaunch? (s : State) : Option Launch :=
  s.launches.find? fun l =>
    match l.state with
    | .finished _ => false
    | _ =>
      if l.record.graph || (s.context l.ctx).stopped then false
      else if l.record.pixel then
        match l.pass.bind s.pass? with
        | some p => p.shading && decide (s.total l ≤ l.finished.length)
        | none => false
      else l.state = .running && decide (l.record.wgtotal ≤ l.ended)

/-- A finished launch leaves the list, unless a graph's cursor has still to see it. -/
def State.finishLaunch (s : State) (lid status : Nat) : State :=
  if s.graphs.any fun g => g.cursors.any fun c => c.launch = some lid then
    s.modLaunch lid fun l => { l with state := .finished status }
  else { s with launches := s.launches.filter fun l => l.id ≠ lid }

/-- The pass of a pixel launch is done before its completion word is written (R302). -/
def State.passDone (s : State) (l : Launch) : Except Stop State :=
  match l.pass.bind s.pass? with
  | some p =>
    if !l.record.pixel || p.failed then .ok s
    else (s.passStatus p 3 false).map fun s => { s with passes := s.passes.filter fun q => q.id ≠ p.id }
  | none => .ok s

/-- COMPLETION_WRITE (R183): a release at SYS; a failed pass's pixel launch reports FAULTED (R302). -/
def execCompletionWrite (s : State) : Host.Outcome State Fault Refusal :=
  match s.doneLaunch? with
  | none => .next s
  | some l =>
    let failed := l.record.pixel && ((l.pass.bind s.pass?).elim false fun p => p.failed)
    let status := if failed then 4 else 1
    s.hwNext ((s.passDone l).bind fun s =>
      (s.complete l.ctx s.active l.record.completion l.seq 0 status).map fun s => s.finishLaunch l.id status)

/-! ### PREEMPT (R365, R367, R368) -/

/-- The workgroups stopped together with one (R189). -/
def State.together (s : State) (w : Workgroup) : List Workgroup :=
  if (s.recordOfWg w).cluster then s.workgroups.filter fun u => u.launch = w.launch && u.w / 4 = w.w / 4 else [w]

/-- The holds at a word at which a split stops for a pre-emption (R365). -/
def Hold.stops : Hold → Bool
  | .bar _ | .cbar _ | .regroup _ | .waitmem | .port | .drain | .queue | .tnext => true
  | .none | .flag | .path | .work | .token | .map => false

/-- A split has stopped: at a header, held at one of those words, or with a pending fault or an escalation (R365). -/
def Split.stopped (p : Split) : Bool := (p.clause.isNone && p.resume.isNone) || p.hold.stops || p.pend.isSome || p.escalated

/-- An earlier matrix instruction of the group is stopped by a fault and holds an instruction back (R294). -/
def Group.heldBack (g : Group) (f : Flight) : Bool :=
  g.flights.any fun e => decide (e.id < f.id) && e.stopped && e.work.isMatrix

/-- Work that completes before a group is saved (R295, R365): everything but the long instructions, which stop at a unit boundary, and
what a fault has stopped. A long matrix instruction before an accepted MMA goes on until the MMA is done. -/
def Group.settling (g : Group) : Bool :=
  g.flights.any fun f => !f.stopped && (match f.work with
    | .matrix _ => !f.long && !g.heldBack f
    | .mstat .. => !g.heldBack f
    | .performed | .results .. | .sort _ | .tokens _ => true
    | .copy _ | .gather .. | .mrow _ | .tstore _ | .tload .. | .writeout | .march .. | .coll .. => f.flag.isSome)

/-- Every access of a group is performed at its scope (R365, R423). -/
def State.settled (s : State) (g : Group) : Bool := g.flights.all fun f => !s.unperformed g f && f.late.isEmpty

/-- A workgroup has stopped: its splits, what settles, its accesses (R365), and its rays, whose state records can be written (R349). -/
def State.quiet (s : State) (w : Workgroup) : Bool :=
  (s.groups.filter fun g => g.wg = w.id).all fun g => g.splits.all Split.stopped && !g.settling && (s.stopRays g).isSome && s.settled g

/-- A square that pre-emption is to discard: its context runs on (R323, R357). -/
def State.discards (s : State) (w : Workgroup) : Bool :=
  w.square.isSome && (s.launch? w.launch).elim false fun l => !(s.context l.ctx).stopped

/-- Such a square has stopped: nothing of it goes on, so that a split held at its word, as its control group's at TDONE, and what waits
for an earlier batch are discarded as they stand (R323). -/
def State.quietSquare (s : State) (w : Workgroup) : Bool :=
  (s.groups.filter fun g => g.wg = w.id).all fun g => g.splits.all (fun p => p.stopped || p.hold ≠ .none) && s.settled g

/-- A square whose TDONE has issued completes its write-out first (R323). -/
def State.writing (s : State) (w : Workgroup) : Bool :=
  s.groups.any fun g => g.wg = w.id && g.flights.any fun f => f.work = .writeout

/-- The split of an unhardened region. -/
def Group.opener? (g : Group) : Option Split := g.splits.find? fun p => g.unhardened p

/-- An unhardened region aborts; under REPLAY its instructions issued since are dropped (R363, R365). -/
def State.abortFor (s : State) (g : Group) (replay : Bool) : State :=
  match g.opener?, g.region with
  | some p, some r =>
    let s := if replay then s.modGroup g.id fun g =>
        { g with flights := g.flights.filter fun f => !(decide (r.since ≤ f.id) && f.split = p.id) } else s
    (s.abortRegion g.id p.id).modSplit g.id p.id fun p => { p with hold := .none }
  | _, _ => s

/-- The instruction's fault has been delivered and is still being handled: by the handler, or by the system (R268, R356). -/
def Group.handles (g : Group) (f : Flight) : Bool :=
  (g.handler.bind fun h => h.flight) = some f.id || g.splits.any fun p => p.escalated && (p.pend.bind fun t => t.flight) = some f.id

/-- What a stopped instruction goes on with: a GATH reads its sources again (R269). -/
def Group.resumable (g : Group) (f : Flight) : Flight :=
  { f with stopped := f.stopped && g.handles f, work := match f.work with
      | .gather _ d => .gather [] d
      | w => w }

/-- What the words that splits are held at took from their ports goes back, since they issue again (R366). -/
def Group.giveAllBack (g : Group) : Group :=
  let h := g.splits.foldl (fun (h : Group) p => h.giveBack p.taken) g
  { h with splits := h.splits.map fun p => { p with taken := [] } }

/-- What the saved copy of a group keeps: bt slots with limit 0, no undelivered engine fault, every record in memory
(R137, R218, R365). -/
def Group.stored (g : Group) : Group :=
  let g := g.giveAllBack
  { g with bt := g.bt.map fun e => { e with limit := 0 }, efaults := [], flights := g.flights.map g.resumable,
           recent := List.replicate 16 256 ++ g.recent.filter fun n => n ≠ 256 }

/-- Save a workgroup as CLAUSE pre-emption does: its accesses are performed, regions abort, rays stop (R349), the records spill, the
area is written (R365, R369). -/
def State.storeWorkgroup (s : State) (w : Workgroup) : State :=
  let s := (s.groups.filter fun g => g.wg = w.id).foldl (fun s g => s.performAll g.id) s
  let s := (s.groups.filter fun g => g.wg = w.id).foldl (fun s g => s.abortFor g false) s
  let s := (s.groups.filter fun g => g.wg = w.id).foldl (fun s g => (s.stopRays g).getD s) s
  let s := (s.groups.filter fun g => g.wg = w.id).foldl (fun s g => s.putGroup g.stored) s
  (s.writeSave w).modWorkgroup w.id fun u => { u with saved := true, stopping := false }

/-- Save one workgroup (R365, R369) or, for a square that is pre-empted, discard it (R323); a fatal fault saves a square too (R357). -/
def State.saveWorkgroup (s : State) (w : Workgroup) : State :=
  let l := (s.launch? w.launch).getD { id := 0, ctx := 0, record := {}, addr := 0, arg := 0, seq := 0, age := 0 }
  let s := s.boxEvent w.die 4 (w.core % 64) (BitVec.ofNat 64 (w.w + 2 ^ 32 * l.seq.toNat))
  if s.discards w then
    let s := { s with groups := s.groups.filter (fun g => g.wg ≠ w.id), workgroups := s.workgroups.filter fun u => u.id ≠ w.id }
    let done := w.square.elim false fun q => q.written
    s.modLaunch w.launch fun l =>
      if done then { l with finished := w.w :: l.finished }
      else { l with placed := l.placed.filter fun k => k ≠ w.w, again := w.w :: l.again }
  else s.storeWorkgroup w

/-- Begin to stop a workgroup: under REPLAY its unhardened regions abort at once (R365). -/
def State.beginStop (s : State) (w : Workgroup) : State :=
  let s := s.modWorkgroup w.id fun u => { u with stopping := true }
  if (s.recordOfWg w).preempt = 1 then
    (s.groups.filter fun g => g.wg = w.id).foldl (fun s g => s.abortFor g true) s
  else s

/-- The stopping workgroups that can be saved now, a cluster's only together. -/
def State.saveable? (s : State) : Option (List Workgroup) :=
  s.workgroups.findSome? fun w =>
    if w.stopping && !w.saved then
      let ws := s.together w
      if ws.all fun u => (if s.discards u then s.quietSquare u else s.quiet u) && !s.writing u then some ws else none
    else none

/-- The next victim for a launch on the dies it needs: lowest priority, then youngest (R188). -/
def State.victim? (s : State) (l : Launch) (dies : List Nat) : Option Workgroup :=
  let ds := dies.filter fun d => (s.dieFit d l []).isNone
  let vs := ds.flatMap fun d => s.victims l d
  let vs := vs.filter fun w => !s.writing w
  let key (w : Workgroup) : Nat := (s.launch? w.launch).elim 0 fun e => s.priority e * 2 ^ 96 + (2 ^ 64 - 1 - e.age) * 2 ^ 32 + (2 ^ 32 - 1 - w.w)
  (sortBy key vs).head?

/-- PREEMPT (R188, R323, R365–R368): save what has stopped, or begin to stop the next victim. -/
def execPreempt (s : State) : Host.Outcome State Fault Refusal :=
  match s.saveable? with
  | some ws => .next (ws.foldl State.saveWorkgroup s)
  | none =>
    if s.workgroups.any fun w => w.stopping && !w.saved then .next s
    else match s.decision with
      | some (.preempt l ds) => match s.victim? l ds with
        | some w => .next ((s.together w).foldl State.beginStop s)
        | none => .next s
      | _ => .next s

/-! ### RESTORE (R189, R366, R367) -/

/-- A split after a restore (R366, R367): barrier arrivals stay held, other held words issue again; a page fault is dropped, since
its access is made again, and so is an engine's fault that is not delivered, since its instruction finds it again (R365); any other
fault stays pending or escalated. -/
def Split.restored (p : Split) : Split :=
  let paged := p.pend.elim false fun t => t.cause.cls = .p || (t.engine && !p.escalated)
  match p.hold with
  | .bar _ | .cbar _ => p
  | _ =>
    if p.dead then p
    else { p with hold := .none, recheck := false, pend := if paged then none else p.pend, escalated := p.escalated && !paged }

/-- The dies on which a launch that is served wants its next workgroups (R188). -/
def State.wants (s : State) (l : Launch) : List Nat :=
  if l.record.graph then []
  else if l.record.pixel then (s.nextSquares l).map fun q => q.die
  else match s.placement l [] with
    | some p => (((s.candidates l).find? fun o => o.1 = p.origin).elim [] fun o =>
        (o.2.zipIdx.filter fun e => (l.nextOn o.2.length e.2).isSome).map fun e => e.1)
    | none => s.needed l

/-- Room on a die is held against a launch: one of higher effective priority wants it (R188). -/
def State.heldFrom (s : State) (l : Launch) (die : Nat) : Bool :=
  s.served.any fun e => decide (s.priority l < s.priority e) && (s.wants e).contains die

/-- Where a saved workgroup, or cluster, lands: on its die, at its old cluster positions (R189). -/
def State.landing (s : State) (ws : List Workgroup) : Option (List (Workgroup × Fit)) :=
  match ws with
  | [] => none
  | w :: _ =>
    let r := s.recordOfWg w
    if (s.launch? w.launch).elim false fun l => !(s.dieScratchFit w.die l []) then none
    else if r.cluster then
      (List.range 16).findSome? fun c => ws.mapM fun u => (s.coreFit u.die (4 * c + u.core % 4) r []).map fun f => (u, f)
    else (List.range 64).findSome? fun c => (s.coreFit w.die c r []).map fun f => [(w, f)]

/-- The oldest saved workgroup of each context that runs (R189). -/
def State.restorable (s : State) : List Workgroup :=
  let ws := s.workgroups.filter fun w => w.saved && (s.launch? w.launch).elim false fun l => !(s.context l.ctx).stopped
  sortBy (fun w => (s.launch? w.launch).elim 0 fun l => l.age * 2 ^ 32 + w.w) ws

def State.firstOf (s : State) (ctx : Nat) : Option Workgroup :=
  s.restorable.find? fun w => (s.launch? w.launch).elim false fun l =>
    l.ctx = ctx && (s.displaced ctx).all fun d => d.again.isEmpty || decide (l.age ≤ d.age)

def State.restore? (s : State) : Option (List (Workgroup × Fit)) :=
  ((List.range 64).filterMap s.firstOf).findSome? fun w =>
    if (s.launch? w.launch).elim false fun l => s.heldFrom l w.die then none else s.landing (s.together w)

/-- One workgroup is resident again; its first words come after an acquire (R366). -/
def State.restoreOne (s : State) (e : Workgroup × Fit) : State :=
  let w := e.1
  let l := (s.launch? w.launch).getD { id := 0, ctx := 0, record := {}, addr := 0, arg := 0, seq := 0, age := 0 }
  let slots := s.freeSlots w.die e.2.core (s.recordOfWg w).groups
  let s := s.boxEvent w.die 5 (e.2.core % 64) (BitVec.ofNat 64 (w.w + 2 ^ 32 * l.seq.toNat))
  let s := { s with saves := s.saves.filter fun a => a.wg ≠ w.id }
  let s := s.modWorkgroup w.id fun u =>
    { u with saved := false, core := e.2.core, slots, scratchBase := e.2.scratch, accumBase := e.2.accum }
  let s := { s with groups := s.groups.map fun (g : Group) =>
      if g.wg = w.id then
        { g with core := e.2.core, slot := slots.getD g.grpx 0, splits := g.splits.map Split.restored,
                 recent := g.recent.filter fun n => n ≠ 256, rays := g.rays.map RayWalk.restored,
                 flights := g.flights.map fun (f : Flight) => { f with issued := s.cycle, unitAt := s.cycle } }
      else g }
  s.startCore w.die e.2.core

/-- RESTORE (R189, R366, R367): in ascending age, and not into room held for a launch of higher priority (R188). -/
def execRestore (s : State) : Host.Outcome State Fault Refusal :=
  match s.restore? with
  | none => .next s
  | some es => .next (es.foldl State.restoreOne s)

end Sys2Proof.Machine
end

