-- ==== Sys2Proof/Machine/Square.lean ====
section
/-! DEFINITION. Squares, batches and tile memory (R312–R323). -/

namespace Sys2Proof.Machine

open Sys2Proof

/-! ### SQUARE_START (R312) -/

/-- Every word of every plane takes the plane's CLEAR value. -/
def Pass.clearTile (p : Pass) (wg : Nat) (s : State) : State :=
  s.writeMem (Space.key (.scratch wg) 0)
    ((List.range p.planes).flatMap fun k => (List.range (p.side * p.side)).flatMap fun _ => bytesOf 4 (p.clear k))

/-- Set scalars of a starting group. -/
def Group.withScalars (g : Group) (vs : List (Nat × Nat)) : Group :=
  vs.foldl (fun (g : Group) e => g.setScalar e.1 (BitVec.ofNat 32 e.2)) g

/-- A square becomes resident with its control group (R312, R315). -/
def State.addSquare (s : State) (l : Launch) (p : Pass) (q : NextSquare) (f : Fit) (rseed : Word) : State :=
  let wg := s.nextId
  let slots := s.freeSlots q.die f.core l.record.groups
  let g := (newGroup (wg + 1) wg l.ctx q.die f.core 0 (slots.getD 0 0) l q.sid rseed).withScalars [(0, 0), (1, q.sid)]
  let u : Workgroup := { id := wg, launch := l.id, w := q.sid, die := q.die, core := f.core, scratchBase := f.scratch,
                         accumBase := f.accum, groups := [wg + 1], slots, rseed, ring := s.ring,
                         square := some { pass := p.id, owner := q.owner, sid := q.sid,
                                          total := (p.owners.getD q.owner {}).stored } }
  p.clearTile wg ({ s with groups := s.groups ++ [g], workgroups := s.workgroups ++ [u], nextId := wg + 2 }.startCore q.die f.core)

/-- SQUARE_START (R312). -/
def execSquareStart (s : State) : Host.Outcome State Fault Refusal :=
  match s.decision with
  | some (.square l q f) =>
    match l.pass.bind s.pass? with
    | none => .next s
    | some p =>
      let placed (s : State) : State := (s.nowPlaced l.id q.sid q.die).modLaunch l.id fun e => { e with state := .running }
      match readSeed s l q.die with
      | .error e => .next (s.hwFail e fun t => placed (s.ctxFatal l.ctx q.die t))
      | .ok (s, rseed) => .next (placed ({ s with lastQueue := l.record.queue }.addSquare l p q f rseed))
  | _ => .next s

/-! ### Coverage and interpolants (R313–R315) -/

/-- The pixel of a lane of a block, relative to the square. -/
def lanePixel (side block l : Nat) : Nat × Nat :=
  let n := side / 8
  let q := l / 4
  (8 * (block % n) + 2 * (q % 4) + l % 2, 4 * (block / n) + 2 * (q / 4) + l % 4 / 2)

/-- A point in units of 2^−149. -/
abbrev Pt := Int × Int

/-- The centre of a pixel. -/
def centre (x y : Nat) : Pt := ((((2 * x + 1) * 2 ^ 148 : Nat) : Int), (((2 * y + 1) * 2 ^ 148 : Nat) : Int))

/-- E of a directed edge for a point, in units of 2^−298. -/
def edge (a b c : Pt) : Int := (b.1 - a.1) * (c.2 - a.2) - (b.2 - a.2) * (c.1 - a.1)

def edgeIn (a b c : Pt) : Bool :=
  let e := edge a b c
  decide (0 < e) || (e = 0 && (decide (b.2 - a.2 < 0) || (b.2 = a.2 && decide (0 < b.1 - a.1))))

/-- A primitive with its vertices in the order of R313. -/
structure Tri where
  vs : Verts
  area : Int

/-- The vertices of a packet, turned to positive area. -/
def triOf (bs : List Byte) : Tri :=
  let v : Verts := (List.range 3).map fun k => (List.range 4).map fun c => BitVec.ofNat 32 (fieldAt bs (8 + 16 * k + 4 * c) 4)
  let a := v.area
  if a < 0 then ⟨[v.getD 0 [], v.getD 2 [], v.getD 1 []], -a⟩ else ⟨v, a⟩

def Tri.pt (t : Tri) (k : Nat) : Pt := (t.vs.x k, t.vs.y k)

def Tri.covers (t : Tri) (c : Pt) : Bool :=
  t.area ≠ 0 && edgeIn (t.pt 0) (t.pt 1) c && edgeIn (t.pt 1) (t.pt 2) c && edgeIn (t.pt 2) (t.pt 0) c

/-- The coverage mask of a block. -/
def coverage (p : Pass) (sid block : Nat) (t : Tri) : LaneMask :=
  maskOf ((List.range 32).filter fun l =>
    let q := lanePixel p.side block l
    let x := p.side * (sid % p.sqx) + q.1
    let y := p.side * (sid / p.sqx) + q.2
    decide (x < p.width) && decide (y < p.height) && t.covers (centre x y))

/-- n/d rounded once to FP32 by RNE. -/
def ratF32 (n : Int) (d : Nat) : Word := BitVec.ofNat 32 (if n = 0 then 0 else (fp32.round .rne (n < 0) n.natAbs d).1)

/-- λ1 and λ2 as numerators over the area. -/
def Tri.lambda (t : Tri) (c : Pt) : Int × Int := (edge (t.pt 2) (t.pt 0) c, edge (t.pt 0) (t.pt 1) c)

/-- An interpolated vertex component (R315). -/
def Tri.interp (t : Tri) (c : Pt) (k : Nat) : Word :=
  let ws := (List.range 3).map fun v => t.vs.at_ v k
  if ws.any isNan32 then 0x7FC00000
  else if ws.any isInf32 then (if ws.all fun w => w = ws.headD 0 then ws.headD 0 else 0x7FC00000)
  else
    let z (v : Nat) : Int := coord (ws.getD v 0)
    let lam := t.lambda c
    ratF32 (z 0 * t.area + lam.1 * (z 1 - z 0) + lam.2 * (z 2 - z 0)) (t.area.toNat * 2 ^ 149)

/-! ### BATCH_DISPATCH (R314, R315) -/

/-- A batch that is dispatched next: its packet's index and bytes, its block and coverage. -/
structure Batch where
  idx : Nat
  bytes : List Byte
  block : Nat
  cover : LaneMask

/-- SUBMASK of a packet: 0 means sub-pass 0 alone (R306). -/
def subMask (bs : List Byte) : Nat := if bits (fieldAt bs 6 2) 4 4 = 0 then 1 else bits (fieldAt bs 6 2) 4 4

/-- Search the packets from one on. `fuel` is the number of packets left. -/
def nextBatch (s : State) (p : Pass) (q : Square) (die : Nat) (fuel idx block : Nat) : Except Stop (State × Option Batch) :=
  match fuel with
  | 0 => .ok (s, none)
  | n + 1 =>
    match hwRead s p.ctx die (p.pbbase + q.owner * p.pbsize + 64 * (idx + 1)) 64 with
    | .error e => .error e
    | .ok (s, bs) =>
      let mine := fieldAt bs 4 2 = q.sid && bit (subMask bs) q.sub
      let t := triOf bs
      let blocks := if mine then (List.range (p.side * p.side / 32)).filter fun b => decide (block ≤ b) else []
      match blocks.findSome? fun b => let m := coverage p q.sid b t; if m = 0 then none else some (b, m) with
      | some (b, m) => .ok (s, some ⟨idx, bs, b, m⟩)
      | none => nextBatch s p q die n (idx + 1) 0

/-- The state a batch group starts with (R315). -/
def batchGroup (p : Pass) (q : Square) (b : Batch) (g : Group) : Group :=
  let t := triOf b.bytes
  let g := g.withScalars [(0, fieldAt b.bytes 0 4), (1, q.sid), (2, fieldAt b.bytes 56 4), (3, fieldAt b.bytes 60 4), (5, 1),
    (8, q.sub), (9, b.cover.toNat), (10, fieldAt b.bytes 6 2)]
  let g := (List.range 32).foldl (fun (g : Group) l =>
    let px := lanePixel p.side b.block l
    let x := p.side * (q.sid % p.sqx) + px.1
    let y := p.side * (q.sid / p.sqx) + px.2
    let c := centre x y
    let lam := t.lambda c
    [BitVec.ofNat 32 (px.2 * p.side + px.1), BitVec.ofNat 32 (x + 2 ^ 16 * y), ratF32 lam.1 t.area.toNat, ratF32 lam.2 t.area.toNat,
      t.interp c 2, t.interp c 3].zipIdx.foldl (fun (g : Group) e => g.setReg e.2 l e.1) g) g
  { g.setPred 6 0xFFFFFFFF b.cover with batch := some (q.dispatch, b.cover) }

/-- The lowest free slot of a square workgroup (R314). -/
def State.freeBatchSlot (s : State) (w : Workgroup) (groups : Nat) : Option Nat :=
  ((List.range groups).drop 1).find? fun k => !(s.groups.any fun g => g.wg = w.id && g.grpx = k)

/-- Squares with packets left in their sub-pass and a free slot. -/
def State.dispatching (s : State) : List (Workgroup × Square × Pass × Launch × Nat) :=
  s.workgroups.filterMap fun w =>
    w.square.bind fun q => (s.pass? q.pass).bind fun p => (s.launch? w.launch).bind fun l =>
      if q.total ≤ q.next || w.stopping || (s.context l.ctx).stopped then none
      else (s.freeBatchSlot w l.record.groups).map fun k => (w, q, p, l, k)

def State.modSquare (s : State) (wid : Nat) (f : Square → Square) : State :=
  s.modWorkgroup wid fun w => { w with square := w.square.map f }

/-- BATCH_DISPATCH (R237, R314). -/
def execBatchDispatch (s : State) : Host.Outcome State Fault Refusal :=
  match s.pick s.dispatching with
  | none => .next s
  | some (w, q, p, l, k) =>
    match nextBatch s p q w.die (q.total - q.next) q.next q.block with
    | .error e => .next (s.hwFail e fun t => (s.ctxFatal l.ctx w.die t).modSquare w.id fun q => { q with next := q.total })
    | .ok (s, none) => .next ((s.modSquare w.id fun q => { q with next := q.total, block := 0 }).endWorkgroup w.id)
    | .ok (s, some b) =>
      let id := s.nextId
      let g := batchGroup p q b (newGroup id w.id l.ctx w.die w.core k (w.slots.getD k 0) l q.sid w.rseed)
      let s := { s with groups := s.groups ++ [g], nextId := id + 1 }.startCore w.die w.core
      .next (s.modWorkgroup w.id fun w => { w with
        groups := w.groups ++ [id],
        square := w.square.map fun q => { q with next := b.idx, block := b.block + 1, dispatch := q.dispatch + 1,
                                                 running := q.running ++ [(q.dispatch, b.block, b.cover, id)] } })

/-! ### Tile memory (R316–R319) -/

/-- A blend of a source word into a tile word (R317). -/
def blendWord (mode w s : Nat) : Nat :=
  match mode with
  | 0 => s
  | 1 => (fp32.add .rne w s).1
  | 2 => min w s
  | 3 => max w s
  | 4 =>
    let a := bits s 24 8
    let c (k : Nat) : Nat := (bits s (8 * k) 8 * a + bits w (8 * k) 8 * (255 - a) + 127) / 255
    c 0 + 2 ^ 8 * c 1 + 2 ^ 16 * c 2 + 2 ^ 24 * (a + (bits w 24 8 * (255 - a) + 127) / 255)
  | _ => (w + s) % 2 ^ 32

/-- The pass of a group's square. -/
def State.squarePass (s : State) (g : Group) : Option (Square × Pass) :=
  (s.squareOf g).bind fun q => (s.pass? q.pass).map fun p => (q, p)

/-- The entry of a batch group among the running batches. -/
def Square.batchOf (q : Square) (gid : Nat) : Option (Nat × Nat × LaneMask) :=
  (q.running.find? fun r => r.2.2.2 = gid).map fun r => (r.1, r.2.1, r.2.2.1)

/-- A lane acts: every lane of the control group, the covered lanes of a batch (R319). -/
def Group.actsOn (g : Group) (l : Nat) : Bool :=
  match g.batch with
  | some (_, m) => inMask m l
  | none => true

/-- A word index a lane may not name (R319). -/
def badWord (g : Group) (q : Square) (p : Pass) (l i : Nat) : Bool :=
  decide (p.planes * p.side * p.side ≤ i) ||
  (match q.batchOf g.id with
   | some (_, b, _) =>
     let px := lanePixel p.side b l
     g.batch.isSome && i % (p.side * p.side) ≠ px.2 * p.side + px.1
   | none => false)

/-- The lanes of a TLOAD or TSTORE that act, and those that fail its check. -/
def Ctx.tileLanes (x : Ctx) (lanes : List Nat) (a : Operand) : Option (Square × Pass × List Nat × List Nat) :=
  (x.s.squarePass x.g).map fun e =>
    let act := lanes.filter x.g.actsOn
    (e.1, e.2, act, act.filter fun l => badWord x.g e.1 e.2 l (x.src a l).toNat)

/-- The lanes of a TLOAD: with a scalar destination the lowest one that acts. -/
def Ctx.tloadLanes (x : Ctx) (d : Operand) : List Nat :=
  if isScalar d then ((x.activeLanes.filter x.g.actsOn).head?.getD x.scalarLane) :: [] else x.activeLanes

/-- TLOAD (R319): performed in the order of R318 by LONG_LATENCY_COMPLETE. -/
def execTload (d a : Operand) (s : State) : Host.Outcome State Fault Refusal :=
  issue (.tload d a) s fun x =>
    let lanes := x.tloadLanes d
    let acting := lanes.filter fun l => x.g.actsOn l && inMask x.active l
    match x.tileLanes acting a with
    | none => .fault (trap .illegalForm)
    | some (_, _, act, bad) =>
      if bad ≠ [] then .fault { trap .scrBounds with tval := maskOf bad, byLanes := true }
      else if !acts x.i x.c then .done (x.mod x.attached)
      else
        let w : Work := .tload (lanes.map fun l => (l, if act.contains l then some (x.src a l).toNat else none)) d x.p.wb (vectorShape x.i)
        .done (x.mod fun g => (x.attached g).addFlight (x.flight x.c.flag w))

/-- TSTORE (R319): performed in the order of R318 by PATH_COMPLETION. -/
def execTstore (d a : Operand) (s : State) : Host.Outcome State Fault Refusal :=
  issue (.tstore d a) s fun x =>
    match x.tileLanes x.activeLanes a with
    | none => .fault (trap .illegalForm)
    | some (_, _, act, bad) =>
      if bad ≠ [] then .fault { trap .scrBounds with tval := maskOf bad, byLanes := true }
      else x.counted x.s (.tstore (act.map fun l => (l, (x.src a l).toNat, x.src d l)))

/-- A tile access of a flight: its lanes with a word. -/
def Work.tileOps (w : Work) : Option (List Nat) :=
  match w with
  | .tload ops _ _ _ => some (ops.filterMap fun e => e.2.map fun _ => e.1)
  | .tstore ops => some (ops.map fun e => e.1)
  | _ => none

/-- A tile access can be performed: every earlier batch that covers one of its pixels has ended, and no earlier tile access
of its group is left (R230, R318). -/
def State.tileReady (s : State) (g : Group) (f : Flight) : Bool :=
  match f.work.tileOps with
  | none => false
  | some ls =>
    !(g.flights.any fun e => decide (e.id < f.id) && e.work.tileOps.isSome) &&
    (match (s.squareOf g).bind fun q => (q.batchOf g.id).map fun b => (q, b) with
     | some (q, d, b, _) =>
       q.running.all fun r => decide (d ≤ r.1) || r.2.1 ≠ b || ls.all fun l => !inMask r.2.2.1 l
     | none => true)

/-- The key of a tile word. -/
def tileKey (g : Group) (i : Nat) : Nat := Space.key (.scratch g.wg) (4 * i)

/-- Perform a TLOAD: its results are known (R319). -/
def State.performTload (s : State) (g : Group) (f : Flight) : State :=
  match f.work with
  | .tload ops d wb vec =>
    let val (l : Nat) : Word := match ops.find? fun e => e.1 = l with
      | some (_, some i) => BitVec.ofNat 32 (s.readMem (tileKey g i) 4)
      | _ => 0
    let lanes := ops.map fun e => e.1
    let w : Work := match d with
      | .v n => .results (lanes.map fun l => .vec (wb + n.val) l (val l)) none none
      | .s n => .results (lanes.map fun l => .scal n.val (val l)) none none
      | .q n => .results [] (some (n.val, { entryOf vec lanes val with split := f.split, issue := f.mask })) none
      | _ => .results [] none none
    s.modGroup g.id fun g => g.modFlight f.id fun f => { f with work := w }
  | _ => s

/-- Perform a TSTORE: blends in ascending lane order (R317, R319). -/
def State.performTstore (s : State) (g : Group) (f : Flight) : State :=
  match f.work, s.squarePass g with
  | .tstore ops, some (_, p) =>
    let s := ops.foldl (fun (s : State) e =>
      let k := tileKey g e.2.1
      s.writeMem k (bytesOf 4 (blendWord (p.blend (e.2.1 / (p.side * p.side))) (s.readMem k 4) e.2.2.toNat))) s
    s.modGroup g.id fun g => g.modFlight f.id fun f => { f with work := .performed }
  | _, _ => s

/-! ### TNEXT and TDONE (R320, R321) -/

/-- Every batch of the current sub-pass has been dispatched and has ended. -/
def Square.drained (q : Square) : Bool := decide (q.total ≤ q.next) && q.running.isEmpty

/-- TNEXT (R320): the split is held until TNEXT_RELEASE. -/
def execTnext (s : State) : Host.Outcome State Fault Refusal :=
  issue .tnext s fun x => .held .tnext x.s

/-- Splits held at TNEXT whose square's sub-pass is over. -/
def State.nexts (s : State) : List (Group × Split) :=
  s.groups.flatMap fun g =>
    if s.live g && (s.squareOf g).elim false Square.drained then
      (g.splits.filter fun p => p.hold = .tnext && p.pend.isNone).map fun p => (g, p)
    else []

/-- TNEXT_RELEASE (R320). -/
def execTnextRelease (s : State) : Host.Outcome State Fault Refusal :=
  match s.pick s.nexts with
  | none => .next s
  | some (g, p) =>
    if !s.controls g || s.lastSub g then .next (s.raise g.id p.id (trap .illegalForm))
    else .next ((s.modSquare g.wg fun q => { q with sub := q.sub + 1, next := 0, block := 0 }).advance g.id p.id 1)

/-- TDONE (R321). -/
def execTdone (s : State) : Host.Outcome State Fault Refusal :=
  issue .tdone s fun x =>
    if (x.s.squareOf x.g).elim false Square.drained && x.g.pathCount .rnd = 0 then
      x.counted (((x.s.harden x.g.id x.p.id 3).modSquare x.g.wg fun q => { q with tdone := true }).addOrder x.g.id 0 .rel true) .writeout
    else .hold .work

/-- What TDONE's release at PNL covers is not performed: its own writes, what its group issued before it, and what its order waits for
(R233, R321). -/
def State.writeoutOpen (s : State) (g : Group) (f : Flight) : Bool :=
  s.unperformed g f || s.behind g f.id || g.orders.any fun o => o.lanes = 0 && s.orderOpen g o

/-- Write one row of a plane, or set the square's bit of DONEMAP, which is the last unit and waits for a release at PNL (R321). -/
def writeoutUnit (s : State) (g : Group) (f : Flight) (q : Square) (p : Pass) (n : Nat) : Except Stop State :=
  let out := (List.range p.planes).filter p.outPlane
  let s0 := p.side
  if n < out.length * s0 then
    let k := out.getD (n / s0) 0
    let y := n % s0
    let py := s0 * (q.sid / p.sqx) + y
    if p.height ≤ py then .ok s
    else (List.range s0).foldl (fun (r : Except Stop State) x =>
      let px := s0 * (q.sid % p.sqx) + x
      if p.width ≤ px then r
      else match r with
        | .error e => .error e
        | .ok s => engineWrite s g (some f) ((p.taddr k + py * 16 * p.tpitch k + 4 * px) % 2 ^ 64)
            (s.bytesAt (tileKey g (k * s0 * s0 + y * s0 + x)) 4)) (.ok s)
  else if s.writeoutOpen g f then .error none
  else
    let ea := (p.donemap + q.sid / 8) % 2 ^ 64
    match engineRead s g ea 1 { r := true } none true with
    | .error e => .error e
    | .ok (s, bs) => engineWrite s g (some f) ea (bytesOf 1 (ofBytes bs ||| 2 ^ (q.sid % 8))) { w := true } true

/-- Squares whose write-out goes on. -/
def State.writeouts (s : State) : List (Group × Flight × Square × Pass) :=
  s.groups.flatMap fun g =>
    match s.squarePass g with
    | none => []
    | some (q, p) =>
      if (s.context g.ctx).stopped then []
      else (g.flights.filter fun f => f.work = .writeout && !f.stopped && !f.done).map fun f => (g, f, q, p)

/-- TDONE_WRITEOUT (R321): one row of a plane, or at last the square's DONEMAP bit. -/
def execTdoneWriteout (s : State) : Host.Outcome State Fault Refusal :=
  match s.pick s.writeouts with
  | none => .next s
  | some (g, f, q, p) =>
    let last := decide (((List.range p.planes).filter p.outPlane).length * p.side ≤ f.progress)
    let wrote (s : State) : State := if last then s.modSquare g.wg fun q => { q with written := true } else s
    match writeoutUnit s g f q p f.progress with
    | .error none => .next s
    | .error (some t) => .next (if t.denied then wrote (s.unitDenied g f t last) else s.stopFlight g f t)
    | .ok s' => .next (wrote (s'.unitDone g f last))

end Sys2Proof.Machine
end

