-- ==== Sys2Proof/Machine/Complete.lean ====
section
/-! DEFINITION. The completion of outstanding instructions: LONG_LATENCY_COMPLETE and PATH_COMPLETION (R14, R18). -/

namespace Sys2Proof.Machine

open Sys2Proof

/-- A late entry is discarded: its port takes nothing any more (R266, R453), or every lane it is for has exited (R97). -/
def Group.lateLost (g : Group) (f : Flight) (n : Nat) : Bool :=
  (g.ports.getD n {}).code.isNone || g.empty || g.allExited f.mask

/-- A late push finds room, or is discarded. -/
def Group.pushReady (g : Group) (f : Flight) (o : Option (Nat × Entry)) : Bool :=
  o.elim true fun e => !g.portFull e.1 || g.lateLost f e.1

/-- An entry without the results of the lanes that have exited (R97). -/
def Entry.without (e : Entry) (gone : LaneMask) : Entry :=
  { e with words := e.words.zipIdx.map fun w => if inMask gone w.2 then 0 else w.1,
           mask := if e.mask &&& ~~~gone = 0 then e.mask else e.mask &&& ~~~gone }

/-- Push a result that is late. -/
def Group.latePush (g : Group) (f : Flight) (o : Option (Nat × Entry)) : Group :=
  match o with
  | none => g
  | some (n, e) => if g.lateLost f n then g else g.pushPort n (e.without (f.mask &&& g.retired))

/-- The results of an outstanding instruction are written (R14). -/
def Group.deliverResults (g : Group) (f : Flight) : Group :=
  match f.work with
  | .results ds push bt =>
    let g := ds.foldl (fun (g : Group) d => g.applyLate f.mask d) g
    let g := g.latePush f push
    let g := match bt with
      | some (k, e) => { g with bt := setAt g.bt k e }
      | none => g
    g.completeFlight f.id
  | _ => g

/-- The results of an instruction are known, and no earlier one of its path still has to write them (R17). It may name no flag, when
its word issued under SETX = 15 (log 58). -/
def Group.resultsDue (g : Group) (f : Flight) : Bool :=
  match f.work with
  | .results .. => !f.done && !g.shadowed f
  | _ => false

/-- The push that an instruction's results make. -/
def Work.push? (w : Work) : Option (Nat × Entry) :=
  match w with
  | .results _ push _ => push
  | _ => none

/-- The instruction can complete: its results are due and its port takes them (R17, R104). -/
def Group.canDeliver (g : Group) (f : Flight) : Bool := g.resultsDue f && g.pushReady f f.work.push?

/-- A result that is due finds its port full: the port holds the issuing split (R32, R104). -/
def State.stick (s : State) (g : Group) (f : Flight) : State :=
  if g.resultsDue f then s.modGroup g.id fun g => g.modFlight f.id fun f => { f with stuck := true } else s

/-- A TLOAD whose turn has come is performed (R318), so that its results are known. -/
def State.performLoads (s : State) (gid fid : Nat) : State :=
  match (s.group? gid).bind fun g => (g.flight? fid).map fun f => (g, f) with
  | some (g, f) => match f.work with
    | .tload .. => if s.tileReady g f then s.performTload g f else s
    | _ => s
  | none => s

/-- An outstanding instruction of a group. -/
def State.flightAt (s : State) (gid fid : Nat) : Option (Group × Flight) :=
  (s.group? gid).bind fun g => (g.flight? fid).map fun f => (g, f)

/-- The accesses of an instruction whose completion is due are performed, where they may be (R226). -/
def State.settleDue (s : State) (gid fid : Nat) : State :=
  (s.flightAt gid fid).elim s fun e => if e.1.canDeliver e.2 then s.settleFlight gid fid fun _ => true else s

/-- LONG_LATENCY_COMPLETE (R14, R15, R24, R226, R318, R351, R391). -/
def execLongLatencyComplete (gid fid : Nat) (s : State) : Host.Outcome State Fault Refusal :=
  let s := (s.performLoads gid fid).settleDue gid fid
  match s.flightAt gid fid with
  | none => .next s
  | some (g, f) =>
    if s.unperformed g f || !f.late.isEmpty then .next s
    else if !g.canDeliver f then .next (s.stick g f)
    else match f.fault with
      | some t => .next ((s.fatalFor g f.mask t).modGroup gid fun g => g.completeFlight fid)
      | none => .next ((s.modGroup gid fun g => g.deliverResults f).deliver gid)

/-- The oldest instruction of a path. -/
def Group.oldestOn (g : Group) (p : Nat) : Option Flight :=
  match Path.ofCode? p with
  | some q => g.flights.find? fun f => f.path = some q
  | none => none

/-- A TSTORE whose turn has come is performed (R318). -/
def State.performStores (s : State) (gid p : Nat) : State :=
  match (s.group? gid).bind fun g => (g.oldestOn p).map fun f => (g, f) with
  | some (g, f) => match f.work with
    | .tstore _ => if s.tileReady g f then s.performTstore g f else s
    | _ => s
  | none => s

/-- The oldest instruction of a path, when nothing but its turn remains (R18, R226). -/
def Group.performed? (g : Group) (p : Nat) : Option Flight :=
  match g.oldestOn p with
  | some f => match f.work with
    | .performed => if f.flag.isNone then some f else none
    | _ => none
  | none => none

/-- The accesses of the oldest instruction of a path are performed, so that it can complete; those of a later one may be before them
(R226, R230). -/
def State.settlePath (s : State) (gid p : Nat) : State :=
  match s.group? gid with
  | none => s
  | some g =>
    let fs := g.flights.filter fun f => f.path = Path.ofCode? p && f.path.isSome && f.loose
    (if s.loose.ahead then s.pick fs else fs.head?).elim s fun f => s.settleFlight gid f.id fun _ => true

/-- PATH_COMPLETION (R18, R226, R318): the counter falls when the oldest instruction of its path is performed at the path's scope. -/
def execPathCompletion (gid p : Nat) (s : State) : Host.Outcome State Fault Refusal :=
  let s := (s.performStores gid p).settlePath gid p
  match (s.group? gid).bind fun g => (g.performed? p).map fun f => (g, f) with
  | none => .next s
  | some (g, f) => if s.unperformed g f then .next s else .next (s.modGroup gid fun g => g.completeFlight f.id)

end Sys2Proof.Machine
end

