-- ==== Sys2Proof/Machine/System.lean ====
section
/-! DEFINITION. System registers (SRD, SWR, R376), versioned regions (VBEGIN, VEND, R361–R364), the handler's instructions
(RFT, KILL, MAPPG, PIDX, R356, R377–R379), breakpoints and halting (R375, R377), and frame pools (R222, R223). -/

namespace Sys2Proof.Machine

open Sys2Proof

/-! ### System registers (R376) -/

/-- The half of a 64-bit register that a number names (R376). -/
def halfOf (hi : Bool) (d : DWord) : Word := if hi then highWord d else lowWord d

/-- A 64-bit register with one half replaced. -/
def setHalf (hi : Bool) (d : DWord) (v : Word) : DWord := if hi then join64 (lowWord d) v else join64 v (highWord d)

/-- The context that a class C access reaches: TARGET's for a thread of system code (R376). -/
def Group.reached (g : Group) : Nat := if g.system then g.target else g.ctx

/-- SR_CTX (R376). -/
def State.ctxWord (s : State) (g : Group) : Word :=
  let c := s.context g.reached
  BitVec.ofNat 32 (g.system.toNat * 2 ^ 31 + c.dbg.toNat * 2 ^ 30 + c.bkhalt.toNat * 2 ^ 29 + g.target * 2 ^ 16 + g.ctx)

/-- What a system register holds, as the word that a number names. -/
def srWord (s : State) (g : Group) (p : Split) (n : Nat) : Word :=
  let hi := n % 2 = 1
  let c := s.context g.reached
  if n = 0x00 then BitVec.ofNat 32 g.fstat.toNat
  else if n = 0x01 then g.rseed
  else if n = 0x02 then g.rcnt
  else if n = 0x03 then BitVec.ofNat 32 g.budget.toNat
  else if n = 0x04 then BitVec.ofNat 32 g.qlimit.toNat
  else if n = 0x05 then g.vstat
  else if n ≤ 0x07 then halfOf hi g.hgbase
  else if n ≤ 0x09 then halfOf hi g.rpool
  else if n ≤ 0x11 then halfOf hi g.tpc
  else if n = 0x12 then g.causeReg
  else if n = 0x13 then g.tval
  else if n ≤ 0x15 then halfOf hi g.taddr
  else if n ≤ 0x17 then halfOf hi g.tstate
  else if n = 0x18 then BitVec.ofNat 32 s.ns
  else if n = 0x19 then p.gtimeHi.getD (BitVec.ofNat 32 (s.ns / 2 ^ 32))
  else if n = 0x20 then s.ctxWord g
  else if n ≤ 0x23 then halfOf hi c.tvec
  else if n ≤ 0x25 then halfOf hi c.ptbr
  else if n = 0x26 then BitVec.ofNat 32 c.lease.toNat
  else if n = 0x27 then BitVec.ofNat 32 c.hold.toNat
  else if n ≤ 0x29 then halfOf hi c.fqueue
  else 0

/-- SRD of SR_GTIME's low half latches the high half for the split's next SRD of the high one (R360). -/
def latchTime (s : State) (n : Nat) (p : Split) : Split :=
  if n = 0x18 then { p with gtimeHi := some (BitVec.ofNat 32 (s.ns / 2 ^ 32)) }
  else if n = 0x19 then { p with gtimeHi := none }
  else p

/-- SRD (R360, R376). -/
def execSrd (d : Operand) (r : SrNum) (s : State) : Host.Outcome State Fault Refusal :=
  issue (.srd d r) s fun x =>
    if !acts x.i x.c then .done x.s
    else
      let o := x.out d fun _ => [srWord x.s x.g x.p r.val]
      .done (x.mod fun g => ((g.applyOut o).pushOut o).modSplit x.p.id (latchTime x.s r.val))

/-- The bits of a map's RW fields, taken from a written value. -/
def keep (mask : Nat) (d : DWord) : DWord := d &&& BitVec.ofNat 64 mask

/-- Bits lo to hi of a map. -/
def span (lo hi : Nat) : Nat := 2 ^ (hi + 1) - 2 ^ lo

/-- Stored SHIFT of SR_QLIMIT (R148). -/
def storedShift (v : Nat) : Nat := if v < 16 then 16 else if 41 ≤ v ∧ v ≤ 62 then 40 else v

/-- Stored MAX of SR_LEASE (R220). -/
def storedLease (v : Nat) : Nat := if v < 2 then 2 else if 64 < v then 64 else v

/-- A write of a register that belongs to the group (R376): classes G and H. -/
def Group.writeSr (g : Group) (pid n : Nat) (v : Word) : Group :=
  let hi := n % 2 = 1
  if n = 0x00 then { g with fstat := g.fstat &&& ~~~(BitVec.ofNat 5 v.toNat) }
  else if n = 0x01 then { g with rseed := v }
  else if n = 0x02 then { g with rcnt := v }
  else if n = 0x03 then
    { g with budget := BitVec.ofNat 24 v.toNat }.modSplit pid fun p => { p with wdog := v.toNat % 2 ^ 24 }
  else if n = 0x04 then { g with qlimit := BitVec.ofNat 6 (storedShift (v.toNat % 64)) }
  else if n = 0x05 then { g with aborts := BitVec.ofNat 8 (v.toNat / 256), hardens := BitVec.ofNat 8 v.toNat }
  else if n ≤ 0x07 then { g with hgbase := keep (span 60 63 + span 7 56) (setHalf hi g.hgbase v) }
  else if n ≤ 0x09 then { g with rpool := keep (span 60 63 + span 7 56) (setHalf hi g.rpool v) }
  else if n ≤ 0x11 then { g with tpc := keep (span 2 56) (setHalf hi g.tpc v) }
  else if n = 0x12 then { g with causeReg := (g.causeReg &&& ~~~0x80) ||| (v &&& 0x80) }
  else if n = 0x13 then { g with tval := v }
  else if n ≤ 0x15 then { g with taddr := setHalf hi g.taddr v }
  else { g with tstate := keep (span 52 55 + span 51 51 + span 0 41) (setHalf hi g.tstate v) }

/-- A write of a context's register (R376): class C. -/
def Context.writeSr (c : Context) (n : Nat) (v : Word) : Context :=
  let hi := n % 2 = 1
  if n = 0x20 then { c with dbg := bit v.toNat 30, bkhalt := bit v.toNat 29 }
  else if n ≤ 0x23 then { c with tvec := keep (span 2 56 + 1) (setHalf hi c.tvec v) }
  else if n ≤ 0x25 then { c with ptbr := keep (span 9 51) (setHalf hi c.ptbr v) }
  else if n = 0x26 then { c with lease := BitVec.ofNat 7 (storedLease (v.toNat % 128)) }
  else if n = 0x27 then { c with hold := BitVec.ofNat 16 (max 10 (v.toNat % 65536)) }
  else { c with fqueue := keep (span 5 51 + 1) (setHalf hi c.fqueue v) }

/-- What a written ticket asks for: its ACT (R356). -/
def ticketEvent (t : DWord) : Option Instr :=
  match bits t.toNat 62 2 with
  | 0 => some .ticketResume
  | 1 => some .ticketKill
  | 2 => some .ticketEndContext
  | _ => none

/-- A write of SR_TICKET takes effect with its high word (R376): the event it asks for happens next. -/
def State.writeTicket (s : State) (g : Group) (hi : Bool) (v : Word) : State :=
  if !hi then s.modGroup g.id fun g => { g with ticketLow := v }
  else
    let t := join64 g.ticketLow v
    match ticketEvent t with
    | some e => { s with agenda := s.agenda ++ [{ chosen := t.toNat, event := e }] }
    | none => s

/-- A write of the register that a number names. -/
def State.writeSr (s : State) (g : Group) (pid n : Nat) (v : Word) : State :=
  if n < 0x18 then s.modGroup g.id fun g => g.writeSr pid n v
  else if n < 0x2A then
    let s := s.modContext g.reached fun c => c.writeSr n v
    if n = 0x20 then s.modGroup g.id fun g => { g with target := bits v.toNat 16 6 } else s
  else s.writeTicket g (n = 0x2B) v

/-- SWR (R376). -/
def execSwr (d : Operand) (r : SrNum) (s : State) : Host.Outcome State Fault Refusal :=
  issue (.swr d r) s fun x =>
    if !acts x.i x.c then .done x.s
    else .done (x.s.writeSr x.g x.p.id r.val (x.src d x.firstLane))

/-! ### Versioned regions (R361–R364) -/

/-- The checkpoint that VBEGIN takes (R361). -/
def Ctx.checkpoint (x : Ctx) (first count : Nat) : Region :=
  let lanes := lanesOf x.p.mask
  { since := x.g.nextFlight, first, count, header := x.c.at_, lanes := x.p.mask, wb := x.p.wb, join := x.p.join,
    regs := ((List.range count).flatMap fun k => lanes.map fun l => (x.p.wb + first + k) * 32 + l).foldl
      (fun st k => swrite st k (sread x.g.regs k)) [],
    preds := x.g.preds, depths := x.g.calls.map List.length }

/-- VBEGIN (R361, R364): it waits for the split's long-latency instructions. -/
def execVbegin (fr : FirstReg) (n : RegCount) (s : State) : Host.Outcome State Fault Refusal :=
  issue (.vbegin fr n) s fun x =>
    if x.g.outstanding x.p.mask then .hold .flag
    else .done (x.mod fun g =>
      ({ g with region := some (x.checkpoint fr.val n.val) }).modSplit x.p.id fun p => { p with opener := true })

/-- No region is open any more. -/
def Group.closeRegion (g : Group) (last : BitVec 2) : Group :=
  { g with region := none, last,
           splits := g.splits.map fun (p : Split) => { p with opener := false },
           joins := g.joins.map fun (r : Rejoin) => { r with opener := false },
           defers := g.defers.map fun (d : Deferred) => { d with opener := false } }

/-- VEND (R364): an unhardened region commits. -/
def execVend (s : State) : Host.Outcome State Fault Refusal :=
  issue .vend s fun x =>
    match x.g.region with
    | none => .done x.s
    | some r =>
      if !x.p.opener then .done x.s
      else if r.hard then .done (x.mod fun g => g.closeRegion 3)
      else .done ((x.s.performVersion x.g r).modGroup x.g.id fun g => g.closeRegion 1)

/-! ### RFT and KILL (R356, R377) -/

/-- RFT (R356). -/
def execRft (s : State) : Host.Outcome State Fault Refusal :=
  issue .rft s fun x =>
    match x.s.returnFromHandler x.g.id x.p.id with
    | some s' => .moved s'
    | none => .hold .flag

/-- An engine instruction is abandoned: its path counter falls, its faults are gone (R268). -/
def Group.abandon (g : Group) (f? : Option Nat) : Group :=
  match f? with
  | none => g
  | some fid =>
    let g := { g with efaults := g.efaults.filter fun (e : EngineFault) => e.issue ≠ fid }
    match g.flight? fid with
    | none => g
    | some f =>
      let g := g.dropFlight fid
      match f.path with
      | some p => g.drainPath p g.flights.length
      | none => g

/-- A split ends: every lane of it, and of `more`, retires as under EXIT (R146). -/
def State.killSplit (s : State) (gid pid : Nat) (more : LaneMask) : State :=
  match s.group? gid with
  | none => s
  | some g =>
    let g := g.modSplit pid fun p => { p with mask := p.mask ||| more, handler := false }
    match g.split? pid with
    | none => s
    | some p => s.putGroup (g.retireLanes pid p.mask)

/-- KILL (R146, R268, R377). -/
def execKill (s : State) : Host.Outcome State Fault Refusal :=
  issue .kill s fun x =>
    match x.g.handler with
    | none => .fault (trap .illegalForm)
    | some h =>
      let s := x.mod fun g => ({ g with handler := none }).abandon h.flight
      .moved ((s.killSplit x.g.id x.p.id h.held).deliver x.g.id)

/-! ### BKPT and HALTALL (R375, R377) -/

/-- The package halts; each die notes how many cycles it took, at most 2,048 (R374, R375). -/
def State.halt (s : State) : State :=
  let s := { s with halted := true, haltedAt := s.cycle }
  (List.range 52).foldl (fun s d =>
    let f := s.freeWord
    f.2.boxEvent d 3 0x40 (BitVec.ofNat 64 (f.1.toNat % 2049))) s

/-- HALTALL (R375). -/
def execHaltall (s : State) : Host.Outcome State Fault Refusal := issue .haltall s fun x => .done x.s.halt

/-- BKPT (R377). -/
def execBkpt (code : SrNum) (s : State) : Host.Outcome State Fault Refusal :=
  issue (.bkpt code) s fun x =>
    let c := x.s.context x.g.ctx
    if !x.anyActive then .done x.s
    else if c.dbg && c.bkhalt then .moved (x.s.halt.goHeader x.g.id x.p.id x.c.next)
    else .fault { trap .breakpoint with tval := BitVec.ofNat 32 code.val, hdrAt := some x.c.next }

/-! ### PIDX (R379) -/

/-- The recorded index of the fault being handled. -/
def Ctx.progressIndex (x : Ctx) : Word :=
  match x.g.handler with
  | some h => if x.p.handler && bit x.g.causeReg.toNat 6 then h.index else 0xFFFFFFFF
  | none => 0xFFFFFFFF

/-- PIDX (R379). -/
def execPidx (d : Operand) (s : State) : Host.Outcome State Fault Refusal :=
  issue (.pidx d) s fun x => x.write (x.out d fun _ => [x.progressIndex])

/-! ### Frame pools (R222, R223) -/

/-- A die's frame pool, as its header gives it. -/
structure FramePool where
  ring : Nat
  cap : Nat
  head : Nat
  tail : Nat
  low : Nat

def State.framePool (s : State) (d : Nat) : FramePool :=
  let b := (s.die d).poolbase
  { ring := s.physRead d b 8, cap := s.physRead d (b + 8) 4, head := s.physRead d (b + 12) 4,
    tail := s.physRead d (b + 16) 4, low := s.physRead d (b + 20) 4 }

/-- Frames the pool holds. -/
def FramePool.count (p : FramePool) : Nat := if p.cap = 0 then 0 else (p.tail + p.cap - p.head % p.cap) % p.cap

/-- Post a POOL_LOW record to context 0's queue (R222). Its cause code is open (log 4). -/
def State.poolLow (s : State) (d : Nat) : State :=
  let f := s.freeWord
  f.2.writeRecord 0 { kind := 4, trap := trap .illegalOp, openCode := some (BitVec.ofNat 6 f.1.toNat), ctx := 0xFF, master := 4, die := d }

/-- The header, or the ring entry at HEAD, of a frame pool holds an uncorrectable error (R351). -/
def State.poolPoisoned (s : State) (d : Nat) : Bool :=
  let p := s.framePool d
  (s.die d).spare.isNone && (s.physPoisoned d (s.die d).poolbase 24 ||
    (p.count ≠ 0 && s.physPoisoned d (p.ring + 8 * (p.head % p.cap)) 8))

/-- Take the spare frame, or the one at HEAD (R222, R223). -/
def State.takeFrame (s : State) (d : Nat) : Option (State × Nat) :=
  match (s.die d).spare with
  | some f => some (s.modDie d fun e => { e with spare := none }, f)
  | none =>
    let p := s.framePool d
    if p.count = 0 then none
    else
      let f := s.physRead d (p.ring + 8 * (p.head % p.cap)) 8 % 2 ^ 37
      let s := s.physWrite d ((s.die d).poolbase + 12) 4 ((p.head + 1) % p.cap)
      let s := if p.low < p.count then s.modDie d fun e => { e with poolArmed := true } else s
      let s := if p.low < p.count && decide (p.count - 1 ≤ p.low) then
          (s.poolLow d).modDie d fun e => { e with poolArmed := false } else s
      some (s, f)

/-- Zero a frame and its tags, in the pieces that a region's stride keeps whole; no L1 keeps its old contents. -/
def State.zeroFrame (s : State) (d frame : Nat) : State :=
  (List.range 8).foldl (fun s k =>
    match s.physKey d (frame * 2 ^ 15 + 4096 * k) with
    | some key =>
      let s := (s.fixOver key 4096).dropLines fun e => overlap (e.line * 128) 128 key 4096
      { s with mem := sclear s.mem key 4096, tags := sclear s.tags (key / 32) 128,
                           poison := s.poison.filter fun p => !(key ≤ p && p < key + 4096) }
    | none => s) s

/-- Where MAPPG's walk ends (R223). -/
inductive MapWalk where
  | failed
  | present
  /-- An entry holds an uncorrectable error (R351). -/
  | poisoned
  /-- The physical address of an L3 entry with V = 0. -/
  | absent (entry : Nat)

/-- The walk of MAPPG from a table. -/
def mapWalk (s : State) (die va : Nat) (levels : List (Nat × Nat)) (lvl table : Nat) : MapWalk :=
  match levels with
  | [] => .failed
  | (lo, len) :: rest =>
    let addr := table + 8 * bits va lo len
    match s.physKey die addr with
    | none => .failed
    | some k =>
      let e := s.readMem k 8
      if s.poisoned k 8 then .poisoned
      else if lvl = 3 then (if bit e 0 then .present else .absent addr)
      else if !bit e 0 || malformed e lvl then .failed
      else if bit e 1 then .present
      else mapWalk s die va rest (lvl + 1) (bits e 15 37 * 2 ^ 15)

/-- The leaf that MAPPG writes (R223). -/
def mapLeaf (frame flags : Nat) : Nat :=
  3 + 4 * bits flags 0 1 + 8 * bits flags 1 1 + 16 * bits flags 2 1 + 32 * bits flags 3 1 + 2 ^ 12 + frame * 2 ^ 15

/-- What MAPPG's walk and its taking of a frame come to (R223). -/
inductive MapStart where
  /-- The result, with no frame taken. -/
  | result (n : Nat)
  /-- A frame, zeroed, and the leaf to write. -/
  | frame (s : State) (leaf new f : Nat)
  /-- An uncorrectable error met on the way: the die's control unit freezes (R351). -/
  | error

/-- MAPPG up to its compare-and-swap (R223, R378). -/
def State.mapStart (s : State) (ctx die va flags : Nat) : MapStart :=
  if !canonical va then .result 3
  else match mapWalk s die (va % 2 ^ 57) walkLevels 0 ((s.context ctx).ptbr.toNat / 512 % 2 ^ 43 * 512) with
    | .failed => .result 3
    | .present => .result 1
    | .poisoned => .error
    | .absent leaf =>
      if s.poolPoisoned die then .error
      else match s.takeFrame die with
        | none => .result 2
        | some (s, f) => .frame (s.zeroFrame die f) leaf (mapLeaf f flags) f

/-- MAPPG's compare-and-swap at the entry's home: lost, the frame becomes the die's spare (R223). It is lost to an entry with V = 1
only (log 64). -/
def State.compareSwap (s : State) (die leaf new f : Nat) : State × Nat :=
  if bit (s.physRead die leaf 8) 0 then (s.modDie die fun e => { e with spare := some f }, 1) else (s.physWrite die leaf 8 new, 0)

/-- MAPPG is done: its result stands in SR_TVAL (R378). -/
def Ctx.mapDone (x : Ctx) (r : State × Nat) : Res := .done (r.1.modGroup x.g.id fun g => { g with tval := BitVec.ofNat 32 r.2 })

/-- MAPPG (R223, R378): one act on its die, whose compare-and-swap may come later than its walk; a release at PNL. -/
def execMappg (a b : Operand) (s : State) : Host.Outcome State Fault Refusal :=
  issue (.mappg a b) s fun x =>
    if !acts x.i x.c then .done x.s
    else
      let s := x.s.release x.g.id x.p.mask .pnl
      match s.mapping.find? fun (j : MapJob) => j.group = x.g.id && j.split = x.p.id with
      | some j => x.mapDone (State.compareSwap { s with mapping := removeFirst s.mapping j } j.die j.leaf j.new j.frame)
      | none =>
        if s.mapping.any fun (j : MapJob) => j.die = x.g.die then .hold .map
        else match s.mapStart x.g.ctx x.g.die (x.src64 a x.firstLane).toNat (x.src b x.firstLane).toNat with
          | .error => .fault { trap .uncorrectable with freezes := some x.g.die }
          | .result n => x.mapDone (s, n)
          | .frame t leaf new f =>
            if s.loose.slow then .held .map { t with mapping := t.mapping ++ [⟨x.g.id, x.p.id, x.g.die, leaf, new, f⟩] }
            else x.mapDone (t.compareSwap x.g.die leaf new f)

end Sys2Proof.Machine
end

