-- ==== Sys2Proof/Machine/Traps.lean ====
section
/-! DEFINITION. Delivery of waiting faults, fatal faults, tickets, the end of a context, and freezing
(R352–R359, R365, R373). -/

namespace Sys2Proof.Machine

open Sys2Proof

/-! ### HANDLER_ENTRY (R353, R354) -/

/-- A pending fault of the group takes its road now. -/
def State.deliverable (s : State) (g : Group) : Bool :=
  s.live g && (g.fatalPend?.isSome || (g.handler.isNone && (match g.oldestPend? with
    | some (p, t) => !s.stoppingGroup g && !s.awaits g p t
    | none => false)))

/-- HANDLER_ENTRY (R352–R354): the fault of a split that waited for its long-latency work is delivered. -/
def execHandlerEntry (s : State) : Host.Outcome State Fault Refusal :=
  match s.groups.find? s.deliverable with
  | some g => .next (s.deliver g.id)
  | none => .next s

/-! ### FATAL_FAULT (R357) -/

/-- Stop a context: its groups stop issuing, and its workgroups stop as in CLAUSE pre-emption, which saves each when it has stopped
(R357, R365). -/
def State.stopContext (s : State) (ctx : Nat) : State :=
  let mine (w : Workgroup) : Bool := !w.saved && (s.launch? w.launch).elim false fun l => l.ctx = ctx
  { s with workgroups := s.workgroups.map fun (w : Workgroup) => if mine w then { w with stopping := true } else w }.modContext ctx
    fun c => { c with stopped := true }

/-- FATAL_FAULT (R357): the record is written, and the first one stops the context. -/
def execFatalFault (s : State) : Host.Outcome State Fault Refusal :=
  match s.fatals with
  | [] => .next s
  | r :: rest =>
    let s := { s with fatals := rest }.writeRecord r.ctx r
    .next (if (s.context r.ctx).stopped then s else s.stopContext r.ctx)

/-! ### Tickets (R356) -/

/-- The parked split that a ticket names. -/
def State.ticketSplit? (s : State) (t : Nat) : Option (Group × Split) :=
  s.groups.findSome? fun g =>
    if g.ctx = bits t 0 6 && g.die = bits t 6 6 && g.core = bits t 12 6 && g.slot = bits t 18 6 && s.live g then
      (g.splits.find? fun p => p.escalated && p.gen.toNat = bits t 24 16).map fun p => (g, p)
    else none

/-- A parked split goes on where it stands: at a header it may meet a join address (R134). The engine instruction of its fault is
retried (R268). -/
def Group.unpark (g : Group) (p : Split) : Group :=
  let g := g.modSplit p.id fun p => { p with escalated := false, pend := none }
  let g := (p.pend.bind fun t => t.flight).elim g fun fid => g.modFlight fid fun f => { f with stopped := false }
  if p.clause.isNone && p.resume.isNone && p.reissue.isNone then (g.arrive p.id).settle else g

/-- TICKET_RESUME (R356). -/
def execTicketResume (s : State) : Host.Outcome State Fault Refusal :=
  match s.ticketSplit? s.chosen with
  | none => .next s
  | some (g, p) => .next ((s.putGroup (g.unpark p)).deliver g.id)

/-- TICKET_KILL (R356): the split ends as by KILL. -/
def execTicketKill (s : State) : Host.Outcome State Fault Refusal :=
  match s.ticketSplit? s.chosen with
  | none => .next s
  | some (g, p) =>
    let s := s.modGroup g.id fun g => g.abandon (p.pend.bind fun t => t.flight)
    .next ((s.killSplit g.id p.id 0).deliver g.id)

/-- The launches of a context that are open (R183, R356). -/
def State.openLaunches (s : State) (ctx : Nat) : List Launch :=
  s.launches.filter fun l => l.ctx = ctx && (match l.state with
    | .finished _ => false
    | _ => true)

/-- The groups of a context end as by KILL: what they have issued is performed (R146, R356), task groups close (R308), and a frame that a
MAPPG has taken goes back to its die (R223). -/
def State.endGroups (s : State) (ctx : Nat) : State :=
  let gs := s.groups.filter fun g => g.ctx = ctx
  let s := gs.foldl (fun s g => (s.performEnding g.id).closeAtEnd g) s
  let mine (j : MapJob) : Bool := gs.any fun g => g.id = j.group
  let s := (s.mapping.filter mine).foldl (fun s j => s.modDie j.die fun d => { d with spare := some j.frame }) s
  { s with mapping := s.mapping.filter fun j => !mine j, groups := s.groups.filter fun g => g.ctx ≠ ctx,
           traces := s.traces.filter fun n => n.ctx ≠ ctx }

/-- Groups, workgroups, graphs and passes of a context are gone. -/
def State.dropContext (s : State) (ctx : Nat) : State :=
  let ls := (s.launches.filter fun l => l.ctx = ctx).map fun l => l.id
  let ws := (s.workgroups.filter fun w => ls.contains w.launch).map fun w => w.id
  let s := s.endGroups ctx
  { s with workgroups := s.workgroups.filter fun w => !ls.contains w.launch,
           graphs := s.graphs.filter fun g => !ls.contains g.launch,
           passes := s.passes.filter fun p => p.ctx ≠ ctx,
           saves := s.saves.filter fun a => !ws.contains a.wg }

/-- The completion words of the open launches; one that cannot be written now leaves the rest for the next try. -/
def State.closeLaunches (s : State) (status : Nat) (ls : List Launch) : Except Stop State :=
  match ls with
  | [] => .ok s
  | l :: t => (s.complete l.ctx s.active l.record.completion l.seq 0 status).bind fun s => State.closeLaunches s status t

/-- TICKET_END_CONTEXT (R356): only CTX is read. While a completion word waits at the walker (R403) the end waits. -/
def execTicketEndContext (s : State) : Host.Outcome State Fault Refusal :=
  let ctx := bits s.chosen 0 6
  let status := if (s.context ctx).stopped then 4 else 3
  match s.closeLaunches status (s.openLaunches ctx) with
  | .error e => .next (State.hwFail { s with agenda := s.agenda ++ [{ chosen := s.chosen, event := .ticketEndContext }] } e fun _ => s)
  | .ok s' =>
    let s' := (s.openLaunches ctx).foldl (fun s l => s.finishLaunch l.id status) (s'.dropContext ctx)
    .next (s'.modContext ctx fun c => { c with stopped := false })

/-! ### FREEZE (R373) -/

/-- FREEZE (R373): the master that detected a violation, as its die and 64 times its code in `chosen`. -/
def execFreeze (s : State) : Host.Outcome State Fault Refusal :=
  .next (s.freezeMaster (s.chosen % 64) (Master.ofCode (s.chosen / 64)))

end Sys2Proof.Machine
end

