-- ==== Sys2Proof/Machine/Mesh.lean ====
section
/-! DEFINITION. Mesh packets, the directory and its coherence traffic, refusals and resends (R382, R387–R391, R396–R401). -/

namespace Sys2Proof.Machine

open Sys2Proof

/-! ### Packets (R387) -/

/-- The lengths that a TYPE allows. -/
def lenOk (type len : Nat) : Bool :=
  if type = 3 then decide (1 ≤ len) && decide (len ≤ 128)
  else if type = 4 then len = 16
  else if type = 7 || type = 9 then len = 128
  else if type = 0x10 || type = 0x11 then len = 64
  else if (0x18 ≤ type && type ≤ 0x1B) || (0x20 ≤ type && type ≤ 0x23) then decide (len ≤ 128)
  else if type = 0x30 then decide (len ≤ 16)
  else len = 0

/-- The TYPEs of R387's table. -/
def knownType (t : Nat) : Bool :=
  (1 ≤ t && t ≤ 0xA) || t = 0x10 || t = 0x11 || (0x18 ≤ t && t ≤ 0x1B) || (0x20 ≤ t && t ≤ 0x23) || t = 0x30

/-- A packet that freezes the mesh port it reaches: a reserved TYPE, a bad LEN, a NACK with a reserved reason, a DST that no
die has (R387, R391). -/
def MeshPacket.malformed (p : MeshPacket) : Bool :=
  !knownType p.type || !lenOk p.type p.len || decide (52 ≤ p.dst) || (p.type = 0xA && (p.aux = 0 || decide (3 < p.aux)))

/-! ### Routes and ports (R382, R383, R386, R388) -/

/-- A die has a live router (R383). -/
def Identity.routerLive (p : Identity) (d : Nat) : Bool := p.dieLive d || (decide (d < 48) && bit p.pass d)

/-- The render dies to which a rim die attaches (R382). -/
def attached (d : Nat) : List Nat :=
  if d = 48 then [3, 4] else if d = 49 then [23, 31] else if d = 50 then [43, 44] else if d = 51 then [16, 24] else []

/-- The render dies by which a route may reach or leave a die: itself, or the live ones of the two attached (R382, R388). -/
def Identity.gates (p : Identity) (d : Nat) : List Nat :=
  match attached d with
  | [] => [d]
  | a :: t => if ((a :: t).filter p.routerLive).isEmpty then [a] else (a :: t).filter p.routerLive

/-- The positions passed on a ring of n from a to b: direction 1 ascending, 2 descending, 0 the shorter, ties ascending. -/
def ringPath (n a b dir : Nat) : List Nat :=
  let up := (b + n - a) % n
  let down := (a + n - b) % n
  if dir = 1 || (dir = 0 && decide (up ≤ down)) then (List.range (up + 1)).map fun k => (a + k) % n
  else (List.range (down + 1)).map fun k => (a + n - k) % n

/-- The render dies that a route entry's packets pass between two render dies (R386, R388): FDIR along the rank, RDIR along the file. -/
def routeBetween (a b entry : Nat) : List Nat :=
  let files := ringPath 8 (a % 8) (b % 8) (bits entry 1 2)
  let ranks := ringPath 6 (a / 8) (b / 8) (bits entry 3 2)
  if bit entry 0 then ranks.map (fun r => r * 8 + a % 8) ++ (files.drop 1).map fun f => b / 8 * 8 + f
  else files.map (fun f => a / 8 * 8 + f) ++ (ranks.drop 1).map fun r => r * 8 + b % 8

/-- The render dies that a route entry's packets pass between two dies. A rim die is reached through the attached die that the route comes
to first, and left through the one from which the route is shorter (R388; log 75). -/
def Identity.routeDies (p : Identity) (src dst entry : Nat) : List Nat :=
  let ps := (p.gates src).flatMap fun a => (p.gates dst).map fun b => routeBetween a b entry
  (sortBy List.length ps).headD []

/-- The ports at the two ends of a mesh link, or wrap link, between neighbours (R386). -/
def linkPorts (a b : Nat) : List (Nat × Master) :=
  let k := if b / 8 = a / 8 then (if b % 8 = (a % 8 + 1) % 8 then 1 else 3) else if b / 8 = (a / 8 + 1) % 6 then 2 else 0
  [(a, .mesh k), (b, .mesh ((k + 2) % 4))]

/-- The ports of a chain of dies, in order. -/
def chainPorts : List Nat → List (Nat × Master)
  | a :: b :: t => linkPorts a b ++ chainPorts (b :: t)
  | _ => []

/-- A rim die's end of its rim link to a render die. -/
def rimPort (d at_ : Nat) : List (Nat × Master) :=
  ((attached d).findIdx? fun a => a = at_).toList.map fun k => (d, .mesh k)

/-- The ports through which a route entry's packets pass. -/
def Identity.routePorts (p : Identity) (src dst entry : Nat) : List (Nat × Master) :=
  let ds := p.routeDies src dst entry
  if src = dst then [] else rimPort src (ds.headD src) ++ chainPorts ds ++ rimPort dst (ds.getLastD dst)

/-- The ports through which a packet passes, by the route it was injected with (R388). A message that came from another package has
entered at its destination. -/
def State.packetPorts (s : State) (p : MeshPacket) : List (Nat × Master) :=
  if 0x21 ≤ p.type && p.type ≤ 0x23 && p.ctx ≠ 0 then []
  else s.ident.routePorts p.src p.dst p.route

/-- The port that a malformed packet reaches and freezes: its destination's, or port 0 of its source when no die has that number or
there is no link to cross (R373, R387; log 47). -/
def State.portReached (s : State) (p : MeshPacket) : Nat × Master :=
  if 52 ≤ p.dst then (p.src, .mesh 0) else (s.packetPorts p).getLastD (p.dst, .mesh 0)

/-! ### Delivery (R390) -/

/-- Two packets that are delivered in injection order: one source, destination, class and kind, and hash lane (R390). -/
def sameStream (p q : MeshPacket) : Bool :=
  p.src = q.src && p.dst = q.dst && p.cls = q.cls && hashLane p.addr = hashLane q.addr

/-- Two packets between one pair of dies in one class that were given different routes: the later one is not injected before the
earlier one is delivered (R388). -/
def rerouted (p q : MeshPacket) : Bool :=
  p.src = q.src && p.dst = q.dst && p.cls % 4 = q.cls % 4 && p.route ≠ q.route

/-- A packet that its destination can take now: it is well formed, the first of its stream, no packet of an earlier route is on its
way, and no port on its own way is frozen. -/
def State.arriving (s : State) (p : MeshPacket) : Bool :=
  !p.refused && !p.malformed && (s.packetPorts p).all (fun e => !s.frozen.contains e) &&
  s.packets.find? (fun q => (sameStream p q || rerouted p q) && !q.refused) = some p

/-- The packets of a TYPE on their way. -/
def State.packetsOf (s : State) (type : Nat) : List MeshPacket := s.packets.filter fun p => p.type = type && s.arriving p

/-- The packet that an event takes, and the state without it. -/
def State.takePacket (s : State) (ps : List MeshPacket) : Option (MeshPacket × State) :=
  (if ps.isEmpty then none else ps[s.chosen % ps.length]?).map fun p => (p, { s with packets := s.packets.erase p })

/-- A packet that its receiver cannot take has no effect there: NACK goes to its sender, which keeps it (R391). -/
def State.nack (s : State) (p : MeshPacket) (reason : Nat) : State :=
  { s with packets := s.packets ++ [{ p with refused := true, resendAt := 0 }] }.send
    { type := 0xA, cls := p.cls % 4 + 8, src := p.dst, dst := p.src, tag := p.tag, aux := reason, addr := p.addr }

/-! ### The directory (R397) -/

def dieBit (d : Nat) : BitVec 52 := BitVec.ofNat 52 (2 ^ d)

/-- Replace the region that covers a line; after a conflict it is split into halves (R397). -/
def State.putRegion (s : State) (home : Nat) (r : DirRegion) (conflict : Bool) : State :=
  let rs := if conflict && decide (128 < r.size) then
      [{ r with size := r.size / 2 }, { r with base := r.base + r.size / 2, size := r.size / 2 }] else [r]
  s.modDie home fun d => { d with directory := (d.directory.filter fun e => e.base ≠ r.base) ++ rs }

/-- Some acknowledgements more are to come for a line, to the die that counts them for a writer. -/
def State.expectAcks (s : State) (die line writer n : Nat) : State :=
  let mine (a : AckCount) : Bool := a.die = die && a.line = line && a.writer = writer
  if n = 0 then s
  else if s.acks.any mine then
    { s with acks := s.acks.map fun (a : AckCount) => if mine a then { a with expect := some (a.expect.getD 0 + n) } else a }
  else { s with acks := s.acks ++ [{ die, line, expect := some n, got := 0, writer }] }

/-- A line of a region is recalled: every die that may hold it is told to drop it (R397). -/
def State.recallLine (s : State) (home : Nat) (holders : List Nat) (line : Nat) : State :=
  (holders.foldl (fun s d => s.send { type := 5, src := home, dst := d, addr := line, asker := 52 }) s).expectAcks home line 52 holders.length

/-- A directory of more than 2^20 entries recalls the least recently used region: its copies are invalidated and its owned lines written
back (R397). -/
def State.recall (s : State) (home : Nat) : State :=
  let ds := (s.die home).directory
  if ds.length ≤ 2 ^ 20 then s
  else match (sortBy DirRegion.lastUse ds).head? with
    | none => s
    | some r =>
      let s := s.modDie home fun d => { d with directory := removeFirst d.directory r }
      ((List.range (r.size / 128)).map fun i => r.base + 128 * i).foldl (fun s l =>
        s.recallLine home (r.holders.filter fun d => d ≠ home) l) s

/-- A line that is being recalled, which no request may join (R391, R397). -/
def State.recalling (s : State) (home line : Nat) : Bool := s.acks.any fun a => a.die = home && a.line = line && a.writer = 52

/-- A die counts acknowledgements for its own write of a line (R398). -/
def State.counts (s : State) (die line : Nat) : Bool := s.acks.any fun a => a.die = die && a.line = line && a.writer = die

/-! ### Requests at the home (R398) -/

/-- The bytes of a line as a die has them. -/
def State.lineBytes (s : State) (die line : Nat) : List Byte :=
  (s.physKey die line).elim (List.replicate 128 0) fun k => (List.range 128).map fun i => s.dieByte die (k + i)

/-- A die serves a request: the line goes to the die that has asked (R398). -/
def State.supply (s : State) (p : MeshPacket) (die count : Nat) : State :=
  let line := lineOf p.addr
  s.send { type := 7, cls := 8, src := die, dst := p.asker, tag := p.tag, aux := count, addr := line, len := 128,
           payload := s.lineBytes die line, asker := p.asker, count, owns := p.owns, plain := p.plain, skip := p.skip }

/-- The home asks the owner to serve a request (R398). -/
def State.forward (s : State) (p : MeshPacket) (owner count : Nat) : State :=
  s.send { type := 8, src := p.dst, dst := owner, tag := p.tag, addr := lineOf p.addr, asker := p.asker, count, owns := p.owns, skip := p.skip }

/-- The owner of a region that is not the die that asks. -/
def DirRegion.other? (r : DirRegion) (asker : Nat) : Option Nat := if r.owned then (r.holders.filter fun d => d ≠ asker).head? else none

/-- A shared read reaches the home (R397). -/
def State.homeRead (s : State) (p : MeshPacket) : State :=
  let r := s.dirRegion p.dst (lineOf p.addr)
  let owner := r.other? p.asker
  let new := { r with owned := r.owned && r.sharers = dieBit p.asker, sharers := r.sharers ||| dieBit p.asker, lastUse := s.cycle }
  let s := (s.putRegion p.dst new owner.isSome).recall p.dst
  owner.elim (s.supply p p.dst 0) fun x => s.forward p x 0

/-- RD (R391, R393, R396, R397): the home answers, or asks the owner to; a line under recall is BUSY. A read of memory that no die
caches changes no directory. -/
def execRd (s : State) : Host.Outcome State Fault Refusal :=
  match s.takePacket (s.packetsOf 1) with
  | none => .next s
  | some (p, s) =>
    .next (if p.plain then s.supply p p.dst 0 else if s.recalling p.dst (lineOf p.addr) then s.nack p 2 else s.homeRead p)

/-- A request for ownership reaches the home (R398): every other die that may hold the line is told to drop it. -/
def State.homeOwn (s : State) (p : MeshPacket) : State :=
  let line := lineOf p.addr
  let r := s.dirRegion p.dst line
  let owner := r.other? p.asker
  let others := ((r.holders ++ s.replicaHolders line).filter fun d => d ≠ p.asker).eraseDups
  let told := others.filter fun d => some d ≠ owner
  let s := { s with acks := s.acks ++ [({ die := p.asker, line, expect := none, got := 0, writer := p.asker } : AckCount)] }
  let new := { r with owned := true, sharers := dieBit p.asker, lastUse := s.cycle }
  let s := (s.putRegion p.dst new (!others.isEmpty)).recall p.dst
  let s := told.foldl (fun s d => s.send { type := 5, src := p.dst, dst := d, addr := line, tag := p.asker, asker := p.asker }) s
  owner.elim (s.supply p p.dst told.length) fun x => s.forward p x told.length

/-- RDO (R391, R398): ownership goes to the writer. A line under recall, and one for which the writer still counts, is BUSY. -/
def execRdo (s : State) : Host.Outcome State Fault Refusal :=
  match s.takePacket (s.packetsOf 2) with
  | none => .next s
  | some (p, s) =>
    .next (if s.recalling p.dst (lineOf p.addr) || s.counts p.asker (lineOf p.addr) then s.nack p 2 else s.homeOwn p)

/-! ### Writes and atomics at the home (R393, R396) -/

/-- Write bytes at a key from outside the dies' caches: reads that wait are fixed first, and stale lines leave the L2s (R228). -/
def State.homeWrite (s : State) (k : Nat) (bs : List Byte) : State := (s.fixOver k bs.length).writeKeys [k] bs

/-- The home of a REPLREAD region forwards a write to the other copies, and counts their acknowledgements for the writer (R393). -/
def State.forwardCopies (s : State) (p : MeshPacket) (bs : List Byte) : State :=
  match s.regionOf p.addr with
  | none => s
  | some e =>
    if e.target = 4 || e.mode ≠ 1 then s
    else
      let ds := (setBits 56 e.dieset).drop 1
      (ds.foldl (fun s d => s.send { type := 3, src := p.dst, dst := d, tag := p.tag, addr := p.addr, payload := bs, len := bs.length,
                                     asker := p.asker, plain := true }) s).expectAcks p.dst (lineOf p.addr) p.asker ds.length

/-- The write that a WR has taken to its home. -/
def State.askedWrite? (s : State) (tag : Nat) : Option (Group × Flight × LaneWrite) :=
  s.groups.findSome? fun g => g.flights.findSome? fun f => (f.writes.find? fun w => w.asked = some tag).map fun w => (g, f, w)

/-- A WR is performed at the home: the write of an outstanding instruction, or that of one that has ended. -/
def State.performAsked (s : State) (p : MeshPacket) (k : Nat) (bs : List Byte) : State :=
  match s.askedWrite? p.tag with
  | some (g, f, w) =>
    (((s.fixOver k bs.length).performWrite g f.lanes f.id f.path w).writeKeys [k] bs).modGroup g.id fun h => h.modFlight f.id fun e =>
      { e with writes := removeFirst e.writes w }
  | none => s.homeWrite k bs

/-- WR (R387, R393, R396): at the home it is performed, and a REPLREAD region's goes on to the other copies; at a copy it is performed and
acknowledged. -/
def execWr (s : State) : Host.Outcome State Fault Refusal :=
  match s.takePacket (s.packetsOf 3) with
  | none => .next s
  | some (p, s) =>
    let bs := p.payload.take p.len
    match s.writePlace p.dst p.addr, s.placeOf p.dst p.addr with
    | .cell k home, .cell c _ =>
      .next (if home = p.dst then (s.performAsked p k bs).forwardCopies p bs
        else (s.homeWrite c bs).send { type := 6, cls := 8, src := p.dst, dst := p.src, tag := p.tag, addr := lineOf p.addr, asker := p.asker })
    | _, _ => .next s

/-- The read-modify-write that ATOM packets have taken to its home. -/
def State.askedAtom? (s : State) (tag : Nat) : Option (Group × Flight × AtomUnit) :=
  s.groups.findSome? fun g => g.flights.findSome? fun f => (f.atoms.find? fun u => u.asked = some tag).map fun u => (g, f, u)

/-- A read-modify-write is performed at its home: the line goes back as it was before. -/
def State.performAt (s : State) (p : MeshPacket) (g : Group) (f : Flight) (u : AtomUnit) : State :=
  let new := bytesOf 4 (u.combine (s.readMem u.key 4)).2
  let s := s.supply { p with plain := true } p.dst 0
  (((s.fixOver u.key 4).writeEvent g f.lanes f.id f.path u.key new).writeKeys [u.key] new).forwardCopies p new

/-- ATOM (R251, R387, R393, R396): the payload holds the op in byte 0 and the operands v and c in bytes 4–7 and 8–11 (log 39). The packets
of one read-modify-write carry one TAG, and the last of them performs it. -/
def execAtom (s : State) : Host.Outcome State Fault Refusal :=
  match s.takePacket (s.packetsOf 4) with
  | none => .next s
  | some (p, s) =>
    match s.askedAtom? p.tag with
    | some (g, f, u) => .next (if s.packets.any fun q => q.type = 4 && q.src = p.src && q.tag = p.tag then s else s.performAt p g f u)
    | none =>
      match s.writePlace p.dst p.addr, AtomicOp.ofCode? (fieldAt p.payload 0 1) with
      | .cell k _, some op =>
        let s := (s.fixOver k 4).atomics op [(0, k)] fun _ => (fieldAt p.payload 4 4, fieldAt p.payload 8 4)
        .next ((s.1.writeKeys [k] (s.1.bytesAt k 4)).forwardCopies p (s.1.bytesAt k 4))
      | _, _ => .next s

/-! ### Invalidations and fills (R398, R399) -/

/-- An INV that its die can act on: one of a recall waits while the die counts for a write of the line. -/
def State.invReady (s : State) (p : MeshPacket) : Bool := p.asker ≠ 52 || !s.counts p.dst (lineOf p.addr)

/-- A shared read of a die for a line, or its fill, is on its way (R399). -/
def MeshPacket.filling (q : MeshPacket) (die line : Nat) : Bool :=
  q.asker = die && lineOf q.addr = line && !q.owns && !q.plain && (q.type = 1 || q.type = 7 || q.type = 8)

/-- INV (R397–R399): the copy is dropped, an owned one is written back, ACK goes out at once, and a fill still on its way will not be
installed. -/
def execInv (s : State) : Host.Outcome State Fault Refusal :=
  match s.takePacket ((s.packetsOf 5).filter s.invReady) with
  | none => .next s
  | some (p, s) =>
    let line := lineOf p.addr
    let s := if (s.l2Line? p.dst line).elim false fun e => e.own then
        s.send { type := 9, src := p.dst, dst := p.src, addr := line, len := 128, payload := s.lineBytes p.dst line } else s
    let s := s.dropL2 p.dst fun e => e.line = line
    let s := { s with packets := s.packets.map fun (q : MeshPacket) => if q.filling p.dst line then { q with skip := true } else q }
    .next (s.send { type := 6, cls := 8, src := p.dst, dst := if p.asker = 52 then p.src else p.asker, addr := line, asker := p.asker })

/-- A count that is complete ends: its writer's write is performed at PNL. -/
def State.countAcks (s : State) (die line writer : Nat) (f : AckCount → AckCount) : State :=
  let mine (a : AckCount) : Bool := a.die = die && a.line = line && a.writer = writer
  { s with acks := (s.acks.map fun a => if mine a then f a else a).filter fun a => !(mine a && a.expect = some a.got) }

/-- ACK (R393, R397, R398). -/
def execAck (s : State) : Host.Outcome State Fault Refusal :=
  match s.takePacket (s.packetsOf 6) with
  | none => .next s
  | some (p, s) => .next (s.countAcks p.dst (lineOf p.addr) p.asker fun a => { a with got := a.got + 1 })

/-- The accesses of a die's groups to a line that may now be performed are performed (R398). -/
def State.performLine (s : State) (die k : Nat) : State :=
  (s.groups.filter fun g => g.die = die).foldl (fun s g => (g.flights.filter Flight.loose).foldl (fun s f =>
    s.settleFlight g.id f.id fun c => overlap c.1 c.2 k 128) s) s

/-- A fill is installed in the L2 of its die (R398). -/
def State.install (s : State) (p : MeshPacket) : State :=
  match s.placeOf p.dst (lineOf p.addr) with
  | .cell k home => s.fillL2 { die := p.dst, line := lineOf p.addr, key := k, bytes := if home = p.dst then [] else p.payload, own := p.owns }
  | _ => s

/-- DATA (R387, R398, R399): every load that waits on it is answered. Unless an INV overtook it the fill is installed; ownership lets the
die's writes to the line be performed, and AUX says how many ACKs it then counts. -/
def execData (s : State) : Host.Outcome State Fault Refusal :=
  match s.takePacket (s.packetsOf 7) with
  | none => .next s
  | some (p, s) =>
    let line := lineOf p.addr
    let s := s.answer p.tag p.payload
    if p.plain then .next s
    else
      let s := if p.skip then s else s.install p
      let s := if p.owns then (s.physKey p.dst line).elim s fun k => s.performLine p.dst k else s
      .next (if p.owns then s.countAcks p.dst line p.dst fun a => { a with expect := some p.aux } else s)

/-- FWD (R398): the owner serves the request once its own count is complete, and drops the line or shares it. -/
def execFwd (s : State) : Host.Outcome State Fault Refusal :=
  match s.takePacket ((s.packetsOf 8).filter fun p => !s.counts p.dst (lineOf p.addr)) with
  | none => .next s
  | some (p, s) =>
    let line := lineOf p.addr
    let t := s.supply p p.dst p.count
    .next (if p.owns then t.dropL2 p.dst fun e => e.line = line
      else { t with l2 := t.l2.map fun (e : L2Line) => if e.die = p.dst && e.line = line then { e with own := false } else e })

/-- WB (R387, R397): an owned line comes back to its home. Its bytes are in the one memory since they were written (log 6), so the home
takes it and nothing else changes. -/
def execWb (s : State) : Host.Outcome State Fault Refusal :=
  match s.takePacket (s.packetsOf 9) with
  | none => .next s
  | some (_, s) => .next s

/-! ### SORT packets (R309, R310, R404) -/

/-- A packet of the SORT class reaches its owner: accepted, or refused with NACK FULL (R310, R391). -/
def State.arriveSort (s : State) (type : Nat) : Host.Outcome State Fault Refusal :=
  match s.takePacket (s.packetsOf type) with
  | none => .next s
  | some (p, t) =>
    match t.sorts.find? fun q => q.id = p.tag with
    | none => .next t
    | some q => if t.takesSort q then s.hwNext (t.acceptSort q) else .next (t.nack p 1)

/-- PRIM (R309, R310, R404). -/
def execPrim (s : State) : Host.Outcome State Fault Refusal := s.arriveSort 0x10

/-- CLOSE (R309, R310, R404). -/
def execClose (s : State) : Host.Outcome State Fault Refusal := s.arriveSort 0x11

/-! ### Refusals (R391) -/

/-- NACK (R391): FULL resends after a doubling backoff, BUSY after 64 cycles, REFUSED not at all. -/
def execNack (s : State) : Host.Outcome State Fault Refusal :=
  match s.takePacket (s.packetsOf 0xA) with
  | none => .next s
  | some (p, s) =>
    let mine (q : MeshPacket) : Bool := q.refused && q.resendAt = 0 && q.src = p.dst && q.tag = p.tag && q.addr = p.addr
    let again (q : MeshPacket) : MeshPacket :=
      if p.aux = 1 then { q with resendAt := s.cycle + q.backoff, backoff := min 1024 (2 * q.backoff) }
      else { q with resendAt := s.cycle + 64 }
    if p.aux = 3 then .next { s with packets := s.packets.filter fun q => !mine q }
    else
      let ps := s.packets.map fun q => if mine q then again q else q
      .next { s with packets := ps }

/-- A refused packet whose backoff is over. -/
def State.resendDue? (s : State) : Option MeshPacket :=
  s.packets.find? fun q => q.refused && q.resendAt ≠ 0 && decide (q.resendAt ≤ s.cycle)

/-- NACK_RESEND (R310, R391): the same packet is sent again. -/
def execNackResend (s : State) : Host.Outcome State Fault Refusal :=
  match s.resendDue? with
  | none => .next s
  | some q => .next ({ s with packets := s.packets.erase q }.send { q with refused := false, resendAt := 0 })

/-! ### DIRECTORY_MERGE (R397) -/

/-- Two sibling halves with the same state and mask, and no request for 2^16 cycles. -/
def siblings (now : Nat) (a b : DirRegion) : Bool :=
  a.size = b.size && decide (a.size < 65536) && a.base % (2 * a.size) = 0 && b.base = a.base + a.size &&
  a.owned = b.owned && a.sharers = b.sharers && decide (a.lastUse + 65536 ≤ now) && decide (b.lastUse + 65536 ≤ now)

def State.mergeable? (s : State) : Option (Nat × DirRegion × DirRegion) :=
  (List.range 52).findSome? fun d =>
    let ds := (s.die d).directory
    ds.findSome? fun a => (ds.find? fun b => siblings s.cycle a b).map fun b => (d, a, b)

/-- DIRECTORY_MERGE (R397). -/
def execDirectoryMerge (s : State) : Host.Outcome State Fault Refusal :=
  match s.mergeable? with
  | none => .next s
  | some (d, a, b) =>
    .next (s.modDie d fun e =>
      { e with directory := (e.directory.filter fun r => r ≠ a && r ≠ b) ++ [{ a with size := 2 * a.size, lastUse := max a.lastUse b.lastUse }] })

end Sys2Proof.Machine
end

