-- ==== Sys2Proof/Machine/Tokens.lean ====
section
/-! DEFINITION. Dependency tokens: STXT, STXW, TKWAIT, TKSTAT and the exchange that carries them (R409–R420, R425). -/

namespace Sys2Proof.Machine

open Sys2Proof

/-! ### Token words and token tables (R409, R410) -/

def tokV (t : Word) : Bool := bit t.toNat 31
def tokPkg (t : Word) : Nat := bits t.toNat 22 9
def tokDie (t : Word) : Nat := bits t.toNat 16 6
def tokSlot (t : Word) : Nat := bits t.toNat 6 10
def tokGen (t : Word) : Nat := bits t.toNat 0 6

/-- The token of an entry (R409). -/
def tokenWord (pkg die slot gen : Nat) : Word := BitVec.ofNat 32 (2 ^ 31 + pkg * 2 ^ 22 + die * 2 ^ 16 + slot * 2 ^ 6 + gen)

/-- States of an entry: 0 FREE, 1 PENDING, 2 LANDED, 3 FAILED (R410, R419). -/
def State.tokenEntry (s : State) (die slot : Nat) : TokenEntry :=
  match (s.die die).tokens.find? fun e => e.1 = slot with
  | some e => e.2
  | none => {}

def State.putToken (s : State) (die slot : Nat) (e : TokenEntry) : State :=
  s.modDie die fun d => { d with tokens := (slot, e) :: d.tokens.filter fun t => t.1 ≠ slot }

/-- The state of a token of this package, and whether it has retired (R410). -/
def State.tokenState (s : State) (t : Word) : Nat × Bool :=
  let e := s.tokenEntry (tokDie t) (tokSlot t)
  if e.gen.toNat = tokGen t && e.state ≠ 0 then (e.state.toNat, false)
  else (if bit e.history.toNat (tokGen t) then 3 else 2, true)

/-- The die exists and can hold a token table. -/
def State.tokenHome (s : State) (d : Nat) : Bool := s.dieLive d || (decide (48 ≤ d) && decide (d < 52))

/-- What is known of a token: `none` when no reachable die holds it (R413, R419). The state of another package's token is
known there only: it is free here (log 4). -/
def State.knownState (s : State) (t : Word) (lane : Nat) : Option (Nat × Bool) :=
  if tokPkg t = s.pkgid then (if s.tokenHome (tokDie t) then some (s.tokenState t) else none)
  else if tokDie t ≥ 52 || s.planes.isEmpty || Config.remoteVerdict s.tick lane = 1 then none
  else
    let w := (Config.remoteWord s.tick lane 0).toNat
    some (1 + w % 3, bit w 2 && w % 3 ≠ 0)

/-- The FREE entry that retired longest ago; unused ones first, lowest slot first (R410). -/
def State.freeToken? (s : State) (die : Nat) : Option Nat :=
  let ts := (s.die die).tokens
  match (List.range 1024).find? fun k => !(ts.any fun e => e.1 = k) with
  | some k => some k
  | none => ((sortBy (fun e => e.2.retired) (ts.filter fun e => e.2.state = 0)).head?).map fun e => e.1

/-! ### Messages (R420) -/

/-- A TOKEN-class packet to a die of a package; TAG names the store it is about, when it is about one. -/
def State.sendToken (s : State) (type aux src pkg dst addr : Nat) (tag : Nat := 0) : State :=
  let p : MeshPacket := { type, cls := 3, src, dst, aux, addr, tag }
  if pkg = s.pkgid then s.send p
  else s.sendFabric pkg p

/-- A message to a token's home die. -/
def State.toHome (s : State) (type aux src : Nat) (t : Word) (tag : Nat := 0) : State :=
  s.sendToken type aux src (tokPkg t) (tokDie t) t.toNat tag

def State.modHeld (s : State) (id : Nat) (f : HeldStore → HeldStore) : State :=
  { s with held := s.held.map fun h => if h.id = id then f h else h }

def State.dropHeld (s : State) (id : Nat) : State := { s with held := s.held.filter fun h => h.id ≠ id }

/-! ### The issuing instruction's count (R411, R412, R425) -/

/-- A lane of an STXT or STXW was denied: MULTI_DENIED gathers the lanes and the first address (R425). -/
def Flight.deny (f : Flight) (lane : Nat) (va : DWord) : Flight :=
  let m := f.denied ||| laneBit lane
  let ta := (f.fault.bind fun t => t.taddr).getD va
  { f with denied := m, fault := some { trap .multiDenied with tval := m, taddr := some ta, byLanes := true } }

/-- One store of an instruction has been performed, denied or discarded; with the last one the instruction completes, and its
denials are reported. -/
def Group.laneDone (g : Group) (fid : Nat) : Group :=
  match g.flight? fid with
  | none => g
  | some f =>
    match f.work with
    | .tokens (n + 2) => g.modFlight fid fun f => { f with work := .tokens (n + 1) }
    | .tokens _ =>
      let g := match f.fault with
        | some t => { g with efaults := g.efaults ++ [(⟨fid, f.mask, Path.code .fab, { t with index := f.index }⟩ : EngineFault)] }
        | none => g
      g.modFlight fid fun f => { f with fault := none, work := .performed }
    | _ => g

/-- A discarded lane of an STXW: TOKEN_EXPIRED becomes pending, 0 TIMEOUT or 1 BROKEN (R417). -/
def Group.expire (g : Group) (fid : Nat) (mask : LaneMask) (sub : Nat) (va : DWord) : Group :=
  let t := { trap .tokenExpired with tval := BitVec.ofNat 32 sub, taddr := some va, byLanes := true }
  { g with efaults := g.efaults ++ [(⟨fid, mask, Path.code .fab, t⟩ : EngineFault)] }

/-- The carrying die learns that a store was discarded. -/
def State.discarded (s : State) (h : HeldStore) (sub : Nat) : State :=
  let s := s.dropHeld h.id
  match s.group? h.group with
  | none => s
  | some g =>
    let mask := (g.flight? h.flight).elim 0 fun f => f.mask
    s.modGroup h.group fun g => (g.expire h.flight mask sub h.va).laneDone h.flight

/-! ### A token's outcome (R410, R414) -/

/-- The home die answers a watcher. -/
def State.tellWatcher (s : State) (die aux : Nat) (t : Word) (w : Nat × Nat) : State := s.sendToken 0x22 aux die w.1 w.2 t.toNat

/-- A store of a token's instruction landed or was denied: with the last one the entry is LANDED or FAILED, and its watchers
are answered. -/
def State.countStore (s : State) (t : Word) (denied : Bool) : State :=
  let d := tokDie t
  let e := s.tokenEntry d (tokSlot t)
  if e.gen.toNat ≠ tokGen t || e.state ≠ 1 then s
  else
    let bad := e.anyDenied || denied
    if 1 < e.count then s.putToken d (tokSlot t) { e with count := e.count - 1, anyDenied := bad }
    else
      let hist := if bad then e.history ||| BitVec.ofNat 64 (2 ^ e.gen.toNat) else e.history
      let s := s.putToken d (tokSlot t)
        { e with count := 0, anyDenied := bad, state := if bad then 3 else 2, since := s.cycle, watchers := [], history := hist }
      e.watchers.foldl (fun s w => s.tellWatcher d (if bad then 1 else 0) t w) s

/-! ### The destination (R414–R418) -/

/-- The TAG of a store's packet: its source's transaction tag (R387). -/
def HeldStore.wireTag (h : HeldStore) : Nat := if h.pkg.isSome then h.tag else h.id + 1

/-- A store is performed at its destination. An issuing instruction's store reports LANDED to its token's home; a carrying
store's lane is complete. -/
def State.performStore (s : State) (h : HeldStore) : State :=
  let s := (s.fixPhys h.dst h.phys 4).writeCopies h.dst h.phys (bytesOf 4 h.value.toNat)
  if h.issue then
    match h.pkg with
    | some _ => (s.dropHeld h.id).toHome 0x22 3 h.dst h.token h.wireTag
    | none => (s.modHeld h.id fun h => { h with phase := .landed }).toHome 0x22 3 h.dst h.token h.wireTag
  else match h.pkg with
    | some p => (s.dropHeld h.id).sendToken 0x22 3 h.dst p h.src h.token.toNat h.wireTag
    | none => (s.dropHeld h.id).modGroup h.group fun g => g.laneDone h.flight

/-- The stores of one die and line. -/
def sameLine (a b : HeldStore) : Bool := a.src = b.src && a.pkg = b.pkg && a.phys / 128 = b.phys / 128

/-- Hold a store and ask its token's home (R414). -/
def State.holdStore (s : State) (h : HeldStore) : State :=
  (s.modHeld h.id fun h => { h with phase := .held }).toHome 0x21 0 h.dst h.token

/-- A store that carries nothing: null, stripped, or an STXT's own. -/
def HeldStore.plain (h : HeldStore) : Bool := h.issue || !tokV h.token

/-- The stores behind one that is performed or discarded go on in arrival order (R418). `fuel` is the number of stores. -/
def State.releaseLine (s : State) (h : HeldStore) (fuel : Nat) : State :=
  match fuel with
  | 0 => s
  | k + 1 =>
    if s.held.any fun e => sameLine e h && (e.phase = .held || e.phase = .polling || e.phase = .ready) then s
    else match s.held.find? fun e => sameLine e h && e.phase = .behind with
      | none => s
      | some e =>
        if e.request.isSome then s.modHeld e.id fun e => { e with phase := .ready }
        else if e.plain then (s.performStore e).releaseLine h k else s.holdStore e

/-- The destination performs a held store (R414). -/
def State.releaseStore (s : State) (h : HeldStore) : State := (s.performStore h).releaseLine h s.held.length

/-- The destination discards a held store and reports it to the carrying die: 1 BROKEN by FAIL with the store's TAG, 0 TIMEOUT by EXPIRED
(R414, R417; log 40). -/
def State.discard (s : State) (h : HeldStore) (sub : Nat) : State :=
  let tell (s : State) (p : Nat) : State :=
    if sub = 1 then s.sendToken 0x22 1 h.dst p h.src h.token.toNat h.wireTag else s.sendToken 0x22 5 h.dst p h.src h.phys h.wireTag
  let s := match h.pkg with
    | some p => tell (s.dropHeld h.id) p
    | none => tell (s.modHeld h.id fun h => { h with phase := if sub = 1 then .broken else .expired }) s.pkgid
  s.releaseLine h s.held.length

/-- The store stands at its destination. -/
def HeldStore.there (h : HeldStore) : Bool := h.phase = .held || h.phase = .polling || h.phase = .ready || h.phase = .behind

/-- Stores held at a destination: its hold queue's entries (R414). -/
def State.holdCount (s : State) (die : Nat) : Nat := (s.held.filter fun h => h.dst = die && h.there && h.request.isNone).length

/-- The store arrives at its destination: performed, held, put behind a held one, or refused (R414, R416, R418). -/
def State.arriveStore (s : State) (h : HeldStore) : State :=
  let waits := s.held.any fun e => sameLine e h && e.id ≠ h.id && e.there
  if h.plain && !waits then s.performStore h
  else if 512 ≤ s.holdCount h.dst then
    match h.pkg with
    | some p => (s.dropHeld h.id).sendToken 0x23 0 h.dst p h.src h.phys h.wireTag
    | none => (s.modHeld h.id fun h => { h with phase := .refused, nextAt := 0 }).sendToken 0x23 0 h.dst s.pkgid h.src h.phys h.wireTag
  else if waits then s.modHeld h.id fun h => { h with phase := .behind, since := s.ns }
  else (s.modHeld h.id fun h => { h with since := s.ns }).holdStore h

/-- The TSTORE packet of a store (R420). -/
def HeldStore.packet (h : HeldStore) : MeshPacket :=
  { type := 0x20, cls := 3, src := h.src, dst := h.dst, tag := h.id + 1, aux := h.issue.toNat + 2 * (!tokV h.token).toNat, addr := h.phys, len := 12,
    payload := bytesOf 4 h.token.toNat ++ bytesOf 4 h.value.toNat ++ bytesOf 4 h.limit }

/-- A store goes out, to its die or to its package (R416, R427). -/
def State.dispatch (s : State) (h : HeldStore) : State :=
  match h.away with
  | some p => s.sendFabric p h.packet
  | none => s.send h.packet

/-- A packet is about a store that its destination die carries. -/
def HeldStore.carriedBy (h : HeldStore) (p : MeshPacket) : Bool :=
  p.tag ≠ 0 && (h.id + 1) % 2 ^ 16 = p.tag % 2 ^ 16 && h.pkg.isNone && h.src = p.dst && h.away = (if p.ctx = 0 then none else some (p.ctx - 1))

/-- TSTORE_PACKET (R390, R414, R416, R418). -/
def execTstorePacket (s : State) : Host.Outcome State Fault Refusal :=
  match s.takePacket (s.packetsOf 0x20) with
  | none => .next s
  | some (p, s) =>
    match s.held.find? fun h => h.phase = .sent && h.pkg.isNone && h.id + 1 = p.tag with
    | none => .next s
    | some h => .next (s.arriveStore h)

/-! ### The exchange (R410, R414–R417, R420) -/

def tokenOf (p : MeshPacket) : Word := BitVec.ofNat 32 p.addr

/-- WATCH (R414, R415). -/
def execWatch (s : State) : Host.Outcome State Fault Refusal :=
  match s.takePacket (s.packetsOf 0x21) with
  | none => .next s
  | some (p, s) =>
    let t := tokenOf p
    let st := (s.tokenState t).1
    let e := s.tokenEntry (tokDie t) (tokSlot t)
    let w := (if p.ctx = 0 then s.pkgid else p.ctx - 1, p.src)
    .next (if st = 2 then s.tellWatcher p.dst 0 t w
      else if st = 3 then s.tellWatcher p.dst 1 t w
      else if e.watchers.contains w then s
      else if e.watchers.length < 4 then s.putToken (tokDie t) (tokSlot t) { e with watchers := e.watchers ++ [w] }
      else s.tellWatcher p.dst 2 t w)

/-- Packets of type RELEASE with a reason. -/
def State.releases (s : State) (aux : Nat) : List MeshPacket := (s.packetsOf 0x22).filter fun p => p.aux = aux

/-- Stores held at a packet's die for its token. -/
def State.heldFor (s : State) (p : MeshPacket) : List HeldStore :=
  s.held.filter fun h => h.dst = p.dst && h.token = tokenOf p && !h.issue && (h.phase = .held || h.phase = .polling)

/-- A token's home has answered the TKWAITs of a die (R415, R419). -/
def State.tellWaits (s : State) (p : MeshPacket) (f : TokenWait → TokenWait) : State :=
  { s with waits := s.waits.map fun w => if w.die = p.dst && w.token = tokenOf p then f w else w }

/-- RELEASE (R414, R419). -/
def execRelease (s : State) : Host.Outcome State Fault Refusal :=
  match s.takePacket (s.releases 0) with
  | none => .next s
  | some (p, s) =>
    .next (((s.heldFor p).foldl State.releaseStore s).tellWaits p fun w => { w with phase := .landed })

/-- FAIL (R414, R417, R419): with a store's TAG, the carrying die learns that it was broken; otherwise the token's home says that it
failed, and the destination's stores are discarded. -/
def execFail (s : State) : Host.Outcome State Fault Refusal :=
  match s.takePacket (s.releases 1) with
  | none => .next s
  | some (p, s) =>
    if p.tag ≠ 0 then
      match s.held.find? fun h => h.carriedBy p && (h.phase = .broken || h.phase = .away) with
      | some h => .next (s.discarded h 1)
      | none => .next s
    else .next (((s.heldFor p).foldl (fun s h => s.discard h 1) s).tellWaits p fun w => { w with phase := .failed })

/-- POLL (R415, R419): WATCH is sent again after 1 µs. -/
def execPoll (s : State) : Host.Outcome State Fault Refusal :=
  match s.takePacket (s.releases 2) with
  | none => .next s
  | some (p, s) =>
    .next (((s.heldFor p).foldl (fun s h => s.modHeld h.id fun h => { h with phase := .polling, nextAt := s.ns + 1000 }) s).tellWaits p
      fun w => if w.phase = .asked then { w with phase := .polling, nextAt := s.ns + 1000 } else w)

/-- WATCH_REPOLL (R415, R419). -/
def execWatchRepoll (s : State) : Host.Outcome State Fault Refusal :=
  match s.held.find? (fun h => h.phase = .polling && decide (h.nextAt ≤ s.ns)),
      s.waits.find? (fun w => w.phase = .polling && decide (w.nextAt ≤ s.ns)) with
  | some h, _ => .next ((s.modHeld h.id fun h => { h with phase := .held }).toHome 0x21 0 h.dst h.token)
  | none, some w =>
    .next ({ s with waits := s.waits.map fun (v : TokenWait) => if v = w then { v with phase := .asked } else v }.toHome 0x21 0 w.die w.token)
  | none, none => .next s

/-- LANDED (R410–R412). -/
def execLanded (s : State) : Host.Outcome State Fault Refusal :=
  match s.takePacket (s.releases 3) with
  | none => .next s
  | some (p, s) =>
    match s.held.find? fun h => h.carriedBy p && (h.phase = .landed || h.phase = .away) with
    | none => .next s
    | some h =>
      let s := (s.dropHeld h.id).modGroup h.group fun g => g.laneDone h.flight
      .next (if h.issue then s.countStore h.token false else s)

/-- What the issuing group is told of a denied store: MULTI_DENIED for the lane, or TAG_MISMATCH of an access that compares tags, where
its package found one (R221, R407, R425; log 10). -/
def HeldStore.denied (h : HeldStore) (mismatch : Bool) (g : Group) : Group :=
  if mismatch then g.addDenied h.flight ((g.flight? h.flight).elim 0 fun f => f.mask) (some .fab) (fun _ => h.va) [(h.lane, trap .tagMismatch)]
  else g.modFlight h.flight fun f => f.deny h.lane h.va

/-- DENIED (R221, R410, R425). -/
def execDenied (s : State) : Host.Outcome State Fault Refusal :=
  match s.takePacket (s.releases 4) with
  | none => .next s
  | some (p, s) =>
    match s.held.find? fun h => h.carriedBy p && h.phase = .away with
    | none => .next s
    | some h =>
      let mismatch := h.tagged && Config.remoteVerdict s.tick h.phys = 2
      let s := (s.bump.dropHeld h.id).modGroup h.group fun g => (h.denied mismatch g).laneDone h.flight
      .next (if h.issue then s.countStore h.token true else s)

/-- EXPIRED (R417): TOKEN_EXPIRED becomes pending at the carrying group. -/
def execExpired (s : State) : Host.Outcome State Fault Refusal :=
  match s.takePacket (s.releases 5) with
  | none => .next s
  | some (p, s) =>
    match s.held.find? fun h => h.carriedBy p && (h.phase = .expired || h.phase = .away) with
    | some h => .next (s.discarded h 0)
    | none => .next s

/-- REFUSE (R416): the carrying die waits out a backoff. -/
def execRefuse (s : State) : Host.Outcome State Fault Refusal :=
  match s.takePacket (s.packetsOf 0x23) with
  | none => .next s
  | some (p, s) =>
    match s.held.find? fun h => h.carriedBy p && (h.phase = .away || (h.phase = .refused && h.nextAt = 0)) with
    | none => .next s
    | some h => .next (s.modHeld h.id fun h =>
        { h with phase := .refused, nextAt := s.cycle + h.backoff, backoff := min 16384 (2 * h.backoff) })

/-- REFUSE_RESEND (R416): the same store is sent again, where it went before. -/
def execRefuseResend (s : State) : Host.Outcome State Fault Refusal :=
  match s.held.find? fun h => h.phase = .refused && h.nextAt ≠ 0 && decide (h.nextAt ≤ s.cycle) with
  | none => .next s
  | some h => .next ((s.modHeld h.id fun h => { h with phase := if h.away.isSome then .away else .sent }).dispatch h)

/-- A token store refused or held beyond its limit (R417); an STXT's store is none. -/
def State.overHeld? (s : State) : Option HeldStore :=
  s.held.find? fun h => !h.issue && (h.phase = .refused || h.phase = .held || h.phase = .polling || h.phase = .behind) && tokV h.token &&
    decide (h.since + 1000 * h.limit < s.ns)

/-- TOKEN_HOLD_EXPIRY (R417); token hold timers stand still during a halt (R375). -/
def execTokenHoldExpiry (s : State) : Host.Outcome State Fault Refusal :=
  match s.overHeld? with
  | none => .next s
  | some h => .next (if s.halted then s else if h.phase = .refused then s.discarded h 0 else s.discard h 0)

/-- An entry LANDED or FAILED for 2^12 cycles. -/
def State.retirable? (s : State) : Option (Nat × Nat × TokenEntry) :=
  (List.range 52).findSome? fun d =>
    ((s.die d).tokens.find? fun e => decide (2 ≤ e.2.state.toNat) && decide (e.2.since + 4096 ≤ s.cycle)).map fun e => (d, e.1, e.2)

/-- TOKEN_RETIRE (R410). -/
def execTokenRetire (s : State) : Host.Outcome State Fault Refusal :=
  match s.retirable? with
  | none => .next s
  | some (d, k, e) =>
    let n := (s.die d).nextRetire
    .next ((s.putToken d k { e with state := 0, gen := e.gen + 1, watchers := [], retired := n }).modDie d fun d =>
      { d with nextRetire := n + 1 })

/-! ### STXT and STXW (R411–R413) -/

/-- The SR_HOLD of a group's context, in µs. -/
def State.holdLimit (s : State) (g : Group) : Nat := (s.context g.ctx).hold.toNat

/-- One lane's store, sent to its destination. A package that no plane reaches denies it (R407, R425). -/
def State.sendStore (s : State) (h : HeldStore) (gr : Grant) : State :=
  match gr.place with
  | .cell _ home =>
    let h := { h with id := s.nextId, dst := home }
    { s with held := s.held ++ [h], nextId := s.nextId + 1 }.dispatch h
  | .remote p a =>
    let h := { h with id := s.nextId, dst := 0, phys := a, phase := .away, away := some p, tagged := gr.tagged }
    let s := { s with held := s.held ++ [h], nextId := s.nextId + 1 }
    if s.planes.isEmpty then
      s.send { type := 0x22, cls := 3, aux := 4, src := h.src, dst := h.src, addr := a, tag := h.id + 1, ctx := p + 1 }
    else s.dispatch h
  | _ => s

/-- The place of a lane's store: package and address. -/
def Grant.where_ (gr : Grant) : Nat × Nat :=
  match gr.place with
  | .remote p a => (p + 1, a)
  | _ => (0, gr.pa)

/-- The lanes in the order in which their stores go out: of those to one place the one whose value remains goes last (R224, R243;
log 11). -/
def storeOrder (s : State) (gs : List (Nat × Grant)) : List (Nat × Grant) :=
  let at_ (e : Nat × Grant) : Nat × Nat := (e.1, e.2.where_.1 * 2 ^ 64 + e.2.where_.2)
  let last (e : Nat × Grant) : Bool := winner s.tick (gs.map at_) (at_ e).1 (at_ e).2
  gs.filter (fun e => !last e) ++ gs.filter last

/-- The stores of an instruction's lanes. -/
def Ctx.sendStores (x : Ctx) (s : State) (issue : Bool) (gs : List (Nat × Grant)) (ea : Nat → DWord) (value token : Nat → Word) :
    State :=
  (storeOrder s gs).foldl (fun s e => s.sendStore
    { id := 0, src := x.g.die, dst := 0, group := x.g.id, flight := x.g.nextFlight, lane := e.1, phys := e.2.pa, va := ea e.1,
      value := value e.1, token := token e.1, issue, limit := s.holdLimit x.g, since := s.ns } e.2) s

/-- STXT (R410, R411). -/
def execStxt (d a b : Operand) (s : State) : Host.Outcome State Fault Refusal :=
  issue (.stxt d a b) s fun x =>
    if !x.anyActive then x.write (x.outOn [x.scalarLane] d fun _ => [0])
    else match x.lanes x.s x.activeLanes (fun l => x.src64 a l) 4 4 { w := true } true false with
      | .error e => stopRes e
      | .ok (s, gs) =>
        match s.freeToken? x.g.die with
        | none => .hold .queue
        | some k =>
          let s := (s.harden x.g.id x.p.id 2).bump
          let e := s.tokenEntry x.g.die k
          let t := tokenWord s.pkgid x.g.die k e.gen.toNat
          let hist := e.history &&& ~~~(BitVec.ofNat 64 (2 ^ e.gen.toNat))
          let s := s.putToken x.g.die k
            { e with state := 1, count := gs.length, anyDenied := false, watchers := [], history := hist }
          let s := x.sendStores s true gs (fun l => x.src64 a l) (fun l => x.src b l) fun _ => t
          .done (s.modGroup x.g.id fun g =>
            (g.applyOut (x.outOn [x.scalarLane] d fun _ => [t])).addFlight (x.flight none (.tokens gs.length)))

/-- What becomes of a lane of STXW whose token is resolved (R413). -/
inductive Resolved where
  | plain | broken | carried
  deriving DecidableEq, Repr

def State.resolveToken (s : State) (g : Group) (t : Word) (lane : Nat) : Resolved :=
  if !tokV t then .plain
  else match s.knownState t lane with
    | none => .broken
    | some (st, _) =>
      if tokPkg t = s.pkgid && tokDie t = g.die then (if st = 2 then .plain else if st = 3 then .broken else .carried)
      else .carried

/-- STXW (R412, R413). -/
def execStxw (d a b : Operand) (s : State) : Host.Outcome State Fault Refusal :=
  issue (.stxw d a b) s fun x =>
    if !x.anyActive then .done x.s
    else match x.lanes x.s x.activeLanes (fun l => x.src64 a l) 4 4 { w := true } true false with
      | .error e => stopRes e
      | .ok (s, gs) =>
        let s := (s.harden x.g.id x.p.id 2).bump
        let r (l : Nat) : Resolved := x.s.resolveToken x.g (x.src b l) l
        let go := gs.filter fun e => r e.1 ≠ .broken
        let gone := gs.filter fun e => r e.1 = .broken
        let s := x.sendStores s false go (fun l => x.src64 a l) (fun l => x.src d l)
          fun l => if r l = .plain then 0 else x.src b l
        .done (s.modGroup x.g.id fun g =>
          let fid := g.nextFlight
          let g := g.addFlight (x.flight none (if go.isEmpty then .performed else .tokens go.length))
          gone.foldl (fun g e => g.expire fid x.issueMask 1 (x.src64 a e.1)) g)

/-! ### TKWAIT and TKSTAT (R419) -/

/-- The lanes whose tokens TKWAIT waits for. -/
def Ctx.tokenLanes (x : Ctx) (a : Operand) : List Nat :=
  if !x.anyActive then [] else if a.scalarSource then [x.firstLane] else x.activeLanes

/-- What a split's TKWAIT knows of a token (R410, R419): of its own die's at once, of another's what its home has answered; 3 when no
reachable die holds it, and none before the home is asked. -/
def Ctx.waitState (x : Ctx) (s : State) (t : Word) : Option Nat :=
  if tokPkg t = s.pkgid && tokDie t = x.g.die then some (s.tokenState t).1
  else if (s.knownState t 0).isNone then some 3
  else (s.waits.find? fun w => w.group = x.g.id && w.split = x.p.id && w.token = t).map fun w => match w.phase with
    | .landed => 2
    | .failed => 3
    | _ => 1

/-- A TKWAIT asks a token's home, as a destination does (R414, R419). -/
def Ctx.askToken (x : Ctx) (s : State) (t : Word) : State :=
  if (x.waitState s t).isSome then s
  else { s with waits := s.waits ++ [({ die := x.g.die, group := x.g.id, split := x.p.id, token := t } : TokenWait)] }.toHome 0x21 0 x.g.die t

/-- A split's TKWAIT asks anew, or is done; what groups that are gone have asked is forgotten. -/
def Ctx.doneWaiting (x : Ctx) (s : State) : State :=
  { s with waits := s.waits.filter fun w => !(w.group = x.g.id && w.split = x.p.id) && (s.group? w.group).isSome }

/-- TKWAIT (R419): it parks; its return is a progress point, and an acquire at SYS (R237). -/
def execTkwait (a : Operand) (s : State) : Host.Outcome State Fault Refusal :=
  issue (.tkwait a) s fun x =>
    let ts := ((x.tokenLanes a).map fun l => x.src a l).filter tokV
    let s := ts.foldl x.askToken (if x.p.hold = .token then x.s else x.doneWaiting x.s)
    if ts.any fun t => x.waitState s t = some 3 then .fault { trap .tokenExpired with tval := 1 }
    else if ts.any fun t => x.waitState s t ≠ some 2 then
      .held .token (if x.p.hold = .token then s else s.modSplit x.g.id x.p.id fun p => { p with parkedAt := s.ns })
    else
      let s := if ts.isEmpty then s else (x.doneWaiting s).acquire x.g x.p.mask .sys
      .done (if x.p.hold = .token then s.modSplit x.g.id x.p.id fun p => { p with wdog := x.g.budget.toNat } else s)

/-- Splits held at a TKWAIT beyond their context's SR_HOLD. -/
def State.overWaiting? (s : State) : Option (Group × Split) :=
  s.groups.findSome? fun g =>
    if !s.live g then none
    else (g.splits.find? fun p => p.hold = .token && p.pend.isNone && decide (p.parkedAt + 1000 * s.holdLimit g < s.ns)).map fun p => (g, p)

/-- TKWAIT_HOLD_EXPIRY (R419). -/
def execTkwaitHoldExpiry (s : State) : Host.Outcome State Fault Refusal :=
  match s.overWaiting? with
  | none => .next s
  | some (g, p) => if s.halted then .next s else .next (s.raise g.id p.id (trap .tokenExpired))

/-- TKSTAT's word (R419). -/
def State.tokenStatus (s : State) (t : Word) (lane : Nat) : Nat :=
  if !tokV t then 0
  else match s.knownState t lane with
    | none => 3
    | some (st, ret) => st + 4 * ret.toNat

/-- TKSTAT (R419). -/
def execTkstat (d a : Operand) (s : State) : Host.Outcome State Fault Refusal :=
  issue (.tkstat d a) s fun x =>
    let lanes := x.lanesFor d
    let far := lanes.any fun l => tokV (x.src a l) && tokPkg (x.src a l) ≠ x.s.pkgid
    x.later (if far then x.s.bump else x.s) (x.out d fun l => [BitVec.ofNat 32 (x.s.tokenStatus (x.src a l) l)])

end Sys2Proof.Machine
end

