-- ==== Sys2Proof/Machine/Coll.lean ====
section
/-! DEFINITION. Collectives: COLL, the transfer and combination of its units, and notifications (R421–R425). -/

namespace Sys2Proof.Machine

open Sys2Proof

/-! ### Combination (R422, R423) -/

/-- One element of a destination combined with one of the source (R422); no flag is raised (R67). -/
def collElem (op d s : Nat) : Nat :=
  match op with
  | 0 => (fp32.add .rne d s).1
  | 1 => (bf16.add .rne d s).1
  | 2 => (fp32.minMax true false d s).1
  | _ => s

/-- Combine bytes element by element. `n` is the number of elements. -/
def collBytes (op size n : Nat) (d s : List Byte) : List Byte :=
  (List.range n).flatMap fun k => bytesOf size (collElem op (fieldAt d (size * k) size) (fieldAt s (size * k) size))

/-- The element size of an op (R422). -/
def collSize (op : Nat) : Nat := if op = 1 then 2 else 4

/-- Combine the bytes of a unit into memory, each 16-byte block as one read-modify-write (R423). `fuel` counts blocks. -/
def State.combineUnit (s : State) (op : Nat) (ks : List Nat) (bs : List Byte) (fuel : Nat) : State :=
  match fuel with
  | 0 => s
  | m + 1 =>
    let s := ks.foldl (fun s k => s.fixOver k 16) s
    let old := s.bytesAt (ks.headD 0) 16
    let new := collBytes op (collSize op) (16 / collSize op) old (bs.take 16)
    (s.writeKeys ks new).combineUnit op (ks.map fun k => k + 16) (bs.drop 16) m

/-! ### COLL (R421, R422) -/

/-- The collective descriptor (R421). -/
structure CollDesc where
  laddr : Nat
  ctl : Nat
  dst : DWord

def CollDesc.len (d : CollDesc) : Nat := bits d.ctl 0 24
def CollDesc.level (d : CollDesc) : Nat := bits d.ctl 30 2
def CollDesc.notify (d : CollDesc) : Bool := bit d.ctl 29

/-- Reserved content (R422, check 2). -/
def CollDesc.bad (d : CollDesc) (pkg : Bool) : Bool :=
  bits d.ctl 24 5 ≠ 0 || bit d.ctl 30 || d.len = 0 || (if pkg then bits d.dst.toNat 52 12 ≠ 0 else bits d.dst.toNat 32 32 ≠ 0)

/-- The level of the source. -/
def CollDesc.level4 (d : CollDesc) : Level4 := if d.level = 2 then .die else .scratch

def Ctx.collDesc (x : Ctx) (a : Operand) : CollDesc :=
  { laddr := (x.nth a 0 x.firstLane).toNat, ctl := (x.nth a 1 x.firstLane).toNat,
    dst := join64 (x.nth a 2 x.firstLane) (x.nth a 3 x.firstLane) }

/-- The peer of a die offset: a die of the launch's rectangle (R173, R422). -/
def State.peerDie (s : State) (g : Group) (b : Nat) : Option Nat :=
  let c := s.coords g
  (s.placeAt g ((c.1 : Int) + signed 16 (bits b 0 16)) ((c.2 : Int) + signed 16 (bits b 16 16))).map fun w => bits w 48 6

def reachCause : Reach → Option Cause
  | .bad c => some c
  | _ => none

/-- The checks of R422 from the second on. -/
def Ctx.collFault (x : Ctx) (pkg : Bool) (d : CollDesc) (peer : Option Nat) : Option Trap :=
  if d.bad pkg then some (onceTrap .illegalOperand none)
  else match alignFault 16 [d.laddr, d.len, d.dst.toNat] with
    | some t => some t
    | none =>
      if peer.isNone then some (onceTrap .placeRange none)
      else match reachCause (x.s.reach x.g d.level4 0 d.laddr d.len) with
        | some c => some (onceTrap c none)
        | none =>
          if pkg then none
          else (reachCause (x.s.reach x.g .die 0 d.dst.toNat d.len)).map fun c => onceTrap c none

/-- COLL, in either form: one to another package reaches global memory, and so hardens a region (R362). -/
def Ctx.coll (x : Ctx) (o : CollOp) (pkg : Bool) (a b : Operand) : Res :=
  if !x.anyActive then .done x.s
  else
    let d := x.collDesc a
    let v := (x.src b x.firstLane).toNat
    let peer := if pkg then (x.s.ringOf x.g).package (signed 32 v) else x.s.peerDie x.g v
    match x.collFault pkg d peer with
    | some t => .fault t
    | none =>
      x.counted (if pkg then x.s.harden x.g.id x.p.id 3 else x.s) (.coll (CollOp.code o) pkg d.laddr d.ctl d.dst (peer.getD 0))

/-- COLL with a die offset (R422). -/
def execColl (o : CollOp) (a b : Operand) (s : State) : Host.Outcome State Fault Refusal :=
  issue (.coll o a b) s fun x => x.coll o false a b

/-- COLL with a package offset (R422). -/
def execCollPkg (o : CollOp) (a b : Operand) (s : State) : Host.Outcome State Fault Refusal :=
  issue (.collPkg o a b) s fun x => x.coll o true a b

/-! ### Notifications (R424) -/

/-- The word of a notification. -/
def noticeWord (pkg die dst : Nat) : Word := BitVec.ofNat 32 (pkg * 2 ^ 22 + die * 2 ^ 16 + bits dst 4 16)

/-- A group can receive a notification: it belongs to the launch, or to the context, on the die, with a FABRX port. -/
def State.receives (s : State) (n : Notice) (g : Group) : Bool :=
  g.die = n.die && s.onCore g && !g.isHost && !g.empty && (g.portOf .fabrx).isSome &&
  (match n.launch with
   | some l => (s.launchOf g).elim false fun e => e.id = l
   | none => g.ctx = n.ctx)

/-- The oldest group that receives a notification (R187). -/
def State.receiver? (s : State) (n : Notice) : Option Group := (sortBy s.groupAge (s.groups.filter (s.receives n))).head?

/-- A notification is pushed, or dropped when no group receives it; `none` while the port is full. -/
def State.pushNotice (s : State) (n : Notice) : Option State :=
  let s' := { s with notices := removeFirst s.notices n }
  match s.receiver? n with
  | none => some s'
  | some g =>
    match g.portOf .fabrx with
    | none => some s'
    | some k =>
      if g.portFull k then none
      else some (s'.modGroup g.id fun g => g.pushPort k { words := List.replicate 32 n.word, mask := 1 })

/-! ### COLL_TRANSFER (R423–R425) -/

/-- A COLL that is being run. -/
structure CollRun where
  g : Group
  f : Flight
  op : Nat
  pkg : Bool
  d : CollDesc
  peer : Nat

/-- The unit that comes next is the last one. -/
def CollRun.last (c : CollRun) : Bool := decide (c.d.len ≤ 128 * (c.f.progress + 1))

/-- Every unit has been sent. -/
def CollRun.sent (c : CollRun) : Bool := decide (c.d.len ≤ 128 * c.f.progress)

/-- The COLLs that are being run. -/
def State.collRuns (s : State) : List CollRun :=
  s.groups.flatMap fun g =>
    if !s.engineLive g .fab then []
    else g.flights.filterMap fun f => match f.work with
      | .coll op pkg laddr ctl dst peer => if f.done || f.stopped then none else some ⟨g, f, op, pkg, ⟨laddr, ctl, dst⟩, peer⟩
      | _ => none

/-- A pre-emption has stopped every split of a group's workgroup: its COLLs send no new unit (R423). -/
def State.halts (s : State) (g : Group) : Bool :=
  s.stoppingGroup g && (s.groups.filter fun h => h.wg = g.wg).all fun h => h.splits.all Split.stopped

/-- Those that have a unit to send; the last unit of one that notifies waits until the others are combined (R424). -/
def State.colls (s : State) : List CollRun :=
  s.collRuns.filter fun c => !c.sent && !s.halts c.g && !(c.last && c.d.notify && s.awayFrom c.g.id c.f.id)

/-- One that has sent every unit, each combined or denied (R423). -/
def State.collEnded? (s : State) : Option CollRun := s.collRuns.find? fun c => c.sent && !s.awayFrom c.g.id c.f.id

/-- Bytes of the unit that comes next: 128, or the rest (R423). -/
def CollRun.unit (c : CollRun) : Nat := min 128 (c.d.len - 128 * c.f.progress)

/-- The source bytes of the unit. -/
def State.collSource (s : State) (c : CollRun) : List Byte :=
  match s.reach c.g c.d.level4 0 (c.d.laddr + 128 * c.f.progress) c.unit with
  | .key k => s.bytesAt k c.unit
  | _ => List.replicate c.unit 0

/-- The packet that carries a unit: its TAG holds bits [19:4] of DST, and AUX[0] asks for the notification, of which none is due after a
denial (log 10). In the package it names the launch and the instruction. -/
def CollRun.packet (c : CollRun) (s : State) (bs : List Byte) : MeshPacket :=
  { type := 0x18 + c.op, cls := 2, src := c.g.die, dst := if c.pkg then c.g.die else c.peer, tag := bits c.d.dst.toNat 4 16, len := bs.length,
    aux := (c.last && c.d.notify && c.f.denied = 0).toNat, addr := c.d.dst.toNat + 128 * c.f.progress, payload := bs,
    ctx := if c.pkg then c.g.ctx else (s.launchOf c.g).elim 0 fun l => l.id, asker := c.g.id, count := c.f.id }

/-- A unit to another package goes out and waits for its answer; a package that no plane reaches denies it (R407, R425). -/
def State.sendAbroad (s : State) (c : CollRun) (p : MeshPacket) : State :=
  let va := c.d.dst + BitVec.ofNat 64 (128 * c.f.progress)
  if s.planes.isEmpty then s.modGroup c.g.id fun g => g.modFlight c.f.id fun f => f.deny 0 va
  else
    let a : Ask := { tag := p.tag, addr := p.addr, src := c.g.die, group := c.g.id, flight := c.f.id, lanes := 1, pkg := c.peer, va,
                     tagged := false, write := true }
    let t := s.sendFabric c.peer p (some (c.g.id, c.f.id))
    { t with asks := t.asks ++ [a] }

/-- The next unit of a COLL leaves for its peer (R423). -/
def State.stepColl (s : State) (c : CollRun) : State :=
  let p := c.packet s (s.collSource c)
  (if c.pkg then s.sendAbroad c p else s.send p).modGroup c.g.id fun g => g.modFlight c.f.id fun f =>
    { f with progress := f.progress + 1, unitAt := s.cycle }

/-- When every unit is combined or denied the instruction completes, and a denial is reported (R423, R425). -/
def State.endColl (s : State) (c : CollRun) : State :=
  s.modGroup c.g.id fun g => (g.modFlight c.f.id fun f => { f with work := .tokens 1 }).laneDone c.f.id

/-- A unit reaches its peer die, which combines it; the last one may ask for a notification (R423, R424). The combining buffer has
room (log 75). -/
def State.arriveUnit (s : State) (p : MeshPacket) : State :=
  let s := { s with packets := s.packets.erase p }
  let n : Notice := { die := p.dst, launch := some p.ctx, ctx := 0, word := noticeWord s.pkgid p.src (p.tag * 16) }
  let s := if s.launches.any fun l => l.id = p.ctx then
      s.combineUnit (p.type - 0x18) [Space.key (.dieScratch p.ctx p.dst) p.addr] p.payload (p.len / 16) else s
  if bit p.aux 0 then { s with notices := s.notices ++ [n] } else s

/-- COLL_TRANSFER (R423–R425): a notification that has room goes first, then the end of a COLL; otherwise a unit arrives or leaves. -/
def execCollTransfer (s : State) : Host.Outcome State Fault Refusal :=
  match s.notices.findSome? s.pushNotice, s.collEnded? with
  | some s', _ => .next s'
  | none, some c => .next (s.endColl c)
  | none, none =>
    match s.pick ((s.packets.filter fun p => p.isColl && s.arriving p).map s.arriveUnit ++ s.colls.map s.stepColl) with
    | none => .next s
    | some s' => .next s'

end Sys2Proof.Machine
end

