-- ==== Sys2Proof/Machine/Control.lean ====
section
/-! DEFINITION. Window, counters and control transfers (R91–R100, R129–R131). -/

namespace Sys2Proof.Machine

open Sys2Proof

/-! ### Taken lanes and targets -/

/-- The lanes for which a transfer is taken (R93). -/
def Ctx.taken (x : Ctx) (q : XferPred) : LaneMask :=
  x.active &&& (if q.inv then ~~~x.g.predMask q.p.val else x.g.predMask q.p.val)

/-- H + 4 × offset, H the address of the clause's header (R33). -/
def Ctx.branchTarget (x : Ctx) (off : BitVec 21) : DWord :=
  BitVec.ofNat 64 (wrap 64 ((x.c.at_.toNat : Int) + 4 * signed 21 off.toNat))

/-- The parts of BR and CALL (R129). -/
def Ctx.branchParts (x : Ctx) (t : LaneMask) (target : DWord) : List Part :=
  if t = 0 then [⟨x.mask, x.c.next⟩]
  else if t = x.mask then [⟨x.mask, target⟩]
  else [⟨t, target⟩, ⟨x.mask &&& ~~~t, x.c.next⟩]

/-- Distinct targets in the order of their lowest lanes. -/
def distinctTargets (ls : List (Nat × DWord)) : List DWord :=
  ls.foldl (fun ts e => if ts.contains e.2 then ts else ts ++ [e.2]) []

/-- The parts of JMPR and RET: one for each distinct target, in the order of the lowest lanes, the untaken part last (R130). -/
def Ctx.targetParts (x : Ctx) (t : LaneMask) (f : Nat → DWord) : List Part :=
  let ls := (lanesOf t).map fun l => (l, f l)
  let taken := (distinctTargets ls).map fun a => (⟨maskOf ((ls.filter fun e => e.2 = a).map fun e => e.1), a⟩ : Part)
  if x.mask &&& ~~~t = 0 then taken else taken ++ [⟨x.mask &&& ~~~t, x.c.next⟩]

/-- The index of the transfer within its clause (R139). -/
def Ctx.wordIndex (x : Ctx) : Nat := (x.c.base.toNat + 4 * x.c.idx - x.c.at_.toNat) / 4 - 1

/-- Offset in a lane's slice of entry `k` of its call stack (R199). -/
def Group.callOff (g : Group) (k : Nat) : Nat := g.sliceSize - 320 + 8 * k

/-- Write the pushed entries of lanes to their call-stack areas (R95; log 9). -/
def State.spillCalls (s : State) (old new : Group) : State :=
  (List.range 32).foldl (fun s l =>
    let a := old.calls.getD l []
    let b := new.calls.getD l []
    if a.length < b.length then s.writeMem (new.sliceKey l (new.callOff a.length)) (bytesOf 8 (b.headD 0).toNat) else s) s

/-- Make a transfer of the issuing split; a divergent one hardens an unhardened region first (R362), and one that finds no
record faults with no effect (R137). -/
def Ctx.transfer (x : Ctx) (parts : List Part) (s : State) (fx : LaneMask → Group → Group) : Res :=
  match s.group? x.g.id with
  | none => .moved s
  | some g =>
    let g := g.modSplit x.p.id fun p => { p with hold := .none }
    match g.transfer x.p parts (s.tableFree g) x.c.at_ x.wordIndex fx with
    | none => .fault (trap .recordOverflow)
    | some h =>
      let s' := if 2 ≤ parts.length then s.harden x.g.id x.p.id 4 else s
      let h := match s'.group? x.g.id with
        | some g' => { h with region := g'.region, hreason := g'.hreason, hardens := g'.hardens }
        | none => h
      .moved ((s'.putGroup h).spillCalls g h)

/-! ### The instructions -/

/-- WINDOW (R20, R91). -/
def execWindow (a : Operand) (s : State) : Host.Outcome State Fault Refusal :=
  issue (.window a) s fun x =>
    if !x.anyActive then .done x.s
    else
      let v := (x.src a x.firstLane).toNat
      if v % 16 ≠ 0 || decide (x.g.regCount < v + 96) then .fault (trap .windowRange)
      else .done (x.s.modSplit x.g.id x.p.id fun p => { p with pwb := some v })

/-- RDCNT.CYCLE (R92). -/
def execRdcntCycle (d : Operand) (s : State) : Host.Outcome State Fault Refusal :=
  issue (.rdcntCycle d) s fun x => x.write (x.out d fun _ => wordsOf true (x.s.cycle - (x.s.die x.g.die).reset))

/-- RDCNT.TIME (R92). -/
def execRdcntTime (d : Operand) (s : State) : Host.Outcome State Fault Refusal :=
  issue (.rdcntTime d) s fun x => x.write (x.out d fun _ => wordsOf true x.s.ns)

/-- RDCNT.CLAUSES (R92). -/
def execRdcntClauses (d : Operand) (s : State) : Host.Outcome State Fault Refusal :=
  issue (.rdcntClauses d) s fun x => x.write (x.out d fun _ => wordsOf true x.g.clauses.toNat)

/-- RDCNT.PATH (R92). -/
def execRdcntPath (d a : Operand) (s : State) : Host.Outcome State Fault Refusal :=
  issue (.rdcntPath d a) s fun x =>
    x.write (x.out d fun l => wordsOf false (match Path.ofCode? (bits (x.src a l).toNat 0 4) with
      | some p => x.g.pathCount p
      | none => 0))

/-- BR (R95, R129, R175). -/
def execBr (p : XferPred) (off : BitVec 21) (s : State) : Host.Outcome State Fault Refusal :=
  issue (.br p off) s fun x => x.transfer (x.branchParts (x.taken p) (x.branchTarget off)) x.s fun _ g => g

/-- JMPR (R96, R130, R176). -/
def execJmpr (p : XferPred) (a : Operand) (s : State) : Host.Outcome State Fault Refusal :=
  issue (.jmpr p a) s fun x =>
    let t := x.taken p
    let bad := (lanesOf t).filter fun l => (x.src64 a l).toNat % 4 ≠ 0
    if bad ≠ [] then
      .fault { trap .align with tval := maskOf bad, byLanes := true, taddr := some (x.src64 a (bad.headD 0)) }
    else x.transfer (x.targetParts t fun l => x.src64 a l) x.s fun _ g => g

/-- Push a return address in the lanes of a mask (R95). -/
def Group.pushCalls (g : Group) (m : LaneMask) (a : DWord) : Group :=
  { g with calls := g.calls.zipIdx.map fun e => if inMask m e.2 then a :: e.1 else e.1 }

/-- Pop the top entry in the lanes of a mask (R97). -/
def Group.popCalls (g : Group) (m : LaneMask) : Group :=
  { g with calls := g.calls.zipIdx.map fun e => if inMask m e.2 then e.1.drop 1 else e.1 }

/-- CALL (R95, R129, R149, R175). -/
def execCall (p : XferPred) (off : BitVec 21) (s : State) : Host.Outcome State Fault Refusal :=
  issue (.call p off) s fun x =>
    let t := x.taken p
    if (lanesOf t).any fun l => decide (40 ≤ (x.g.calls.getD l []).length) then .fault (trap .recordOverflow)
    else x.transfer (x.branchParts t (x.branchTarget off)) x.s fun m g => g.pushCalls (m &&& t) x.c.next

/-- A RET of these lanes pops below the depth checkpointed at VBEGIN (R362). -/
def Ctx.popsBelow (x : Ctx) (t : LaneMask) : Bool :=
  match x.g.region with
  | some r => x.g.unhardened x.p && (lanesOf t).any fun l => decide ((x.g.calls.getD l []).length ≤ r.depths.getD l 0)
  | none => false

/-- RET (R97, R130, R149, R176). -/
def execRet (p : XferPred) (s : State) : Host.Outcome State Fault Refusal :=
  issue (.ret p) s fun x =>
    let t := x.taken p
    if (lanesOf t).any fun l => (x.g.calls.getD l []).isEmpty then .fault (trap .illegalForm)
    else
      let s := if x.popsBelow t then x.s.harden x.g.id x.p.id 4 else x.s
      x.transfer (x.targetParts t fun l => (x.g.calls.getD l []).headD 0) s fun m g => g.popCalls (m &&& t)

/-- Every lane of a group's handler has exited with every lane of the instruction whose engine fault it handled: the fault is fatal (R268). -/
def State.exitedFault (s : State) (old new : Group) : State :=
  match old.handler, new.handler with
  | some h, none =>
    (h.flight.bind new.flight?).elim s fun f =>
      if new.allExited f.mask then (s.fatalFor new f.mask (old.trapOfRegs h)).modGroup new.id fun g => g.completeFlight f.id else s
  | _, _ => s

/-- EXIT (R97, R135): the taken lanes retire; the rest go on at the next header. -/
def execExit (p : XferPred) (s : State) : Host.Outcome State Fault Refusal :=
  issue (.exit p) s fun x =>
    let t := x.taken p
    let s := if t = 0 then x.s else x.s.harden x.g.id x.p.id 4
    match s.group? x.g.id with
    | none => .moved s
    | some g =>
      let h := if t = 0 then g else g.retireLanes x.p.id t
      .moved (((s.putGroup h).exitedFault g h).goHeader x.g.id x.p.id x.c.next)

/-- JOINAT (R98). -/
def execJoinat (off : BitVec 21) (s : State) : Host.Outcome State Fault Refusal :=
  issue (.joinat off) s fun x =>
    if !x.anyActive then .done x.s
    else .done (x.s.modSplit x.g.id x.p.id fun p => { p with join := some (x.branchTarget off) })

/-- YIELD (R99): the watchdog count is refilled and another split issues next. -/
def execYield (s : State) : Host.Outcome State Fault Refusal :=
  issue .yield s fun x =>
    let s := x.s.goHeader x.g.id x.p.id x.c.next
    if !x.anyActive then .moved s
    else .moved (s.modSplit x.g.id x.p.id fun p => { p with wdog := x.g.budget.toNat, headers := 0, yielded := true })

/-- TRAP (R100): it has had its effect, its pop included, when its fault is raised. -/
def execTrap (a : Operand) (s : State) : Host.Outcome State Fault Refusal :=
  issue (.trap a) s fun x =>
    if !x.anyActive then .done x.s
    else .raised { trap .softwareTrap with tval := x.src a x.firstLane, hdrAt := some x.c.next } x.s

end Sys2Proof.Machine
end

