-- ==== Sys2Proof/Machine/Fabric.lean ====
section
/-! DEFINITION. The Lency fabric: requests of other packages, end-to-end delivery, flits, keys and links (R405–R407, R426–R431). -/

namespace Sys2Proof.Machine

open Sys2Proof

/-! ### Requests from other packages (R405, R406) -/

def ImportEntry.covers (e : ImportEntry) (pkg ctx addr n : Nat) : Bool :=
  bit e.perm 7 && decide (e.base ≤ addr) && decide (addr + n ≤ e.base + e.size) && decide (e.srcLo ≤ pkg) &&
  decide (pkg ≤ e.srcHi) && (e.ctx = 0xFF || e.ctx = ctx)

/-- The entry that permits a request of `n` bytes: one valid entry covers it all (R406). -/
def State.permits (s : State) (p : FabricPacket) (n : Nat) (need : Need) : Option ImportEntry :=
  s.imports.find? fun e => e.covers p.spkg p.pkt.ctx p.pkt.addr n && (!need.r || bit e.perm 0) && (!need.w || bit e.perm 1)

/-- The byte at an address is this package's own, as seen from the rim die the request enters at (R405): its home. -/
def State.homeOf (s : State) (p : FabricPacket) : Option Nat :=
  match s.writePlace p.rim p.pkt.addr with
  | .cell _ home => some home
  | _ => none

/-- A permitted request: its import entry and its home die. -/
def State.granted? (s : State) (p : FabricPacket) (n : Nat) (need : Need) : Option (ImportEntry × Nat) :=
  match s.permits p n need, s.homeOf p with
  | some e, some h => some (e, h)
  | _, _ => none

/-- An answer to a request: TAG and ADDR echo it. -/
def State.reply (s : State) (p : FabricPacket) (m : MeshPacket) : State :=
  s.sendFabric p.spkg { m with src := p.pkt.dst, dst := p.pkt.src, tag := p.pkt.tag, addr := p.pkt.addr }

/-- A denied request is not performed, and its source is told (R406). -/
def State.deny (s : State) (p : FabricPacket) : State := s.reply p { type := 0xA, cls := 8, aux := 3, src := 0, dst := 0, addr := 0 }

/-- A tag check of a request fails (R221): a packet does not say whether its access compares tags, with which tag and over how many
bytes, so these are free (log 10). -/
def State.tagsFail (s : State) (p : FabricPacket) (n : Option Nat) : Bool :=
  let w := (Config.freeWord s.tick).toNat
  bit w 0 && (s.physKey p.rim p.pkt.addr).elim false fun k =>
    (granulesOf k (n.getD (1 + bits w 5 4))).any fun j => s.tagAt j ≠ BitVec.ofNat 4 (w / 2)

/-- AUX 1 marks a TAGSET or TAGGET (log 10). -/
def FabricPacket.forTag (p : FabricPacket) : Bool := p.pkt.aux = 1

/-- The line of a request, sent back. -/
def State.answerLine (s : State) (p : FabricPacket) : State :=
  match s.physKey p.rim (lineOf p.pkt.addr) with
  | some k => s.reply p { type := 7, cls := 8, len := 128, payload := s.bytesAt k 128, src := 0, dst := 0, addr := 0 }
  | none => s

/-- The tag of a granule, sent back. -/
def State.answerTag (s : State) (p : FabricPacket) : State :=
  match s.physKey p.rim p.pkt.addr with
  | some k => s.reply p { type := 7, cls := 8, len := 128, payload := bytesOf 128 (s.tagAt k).toNat, src := 0, dst := 0, addr := 0 }
  | none => s

/-- RD from another package. -/
def State.remoteRead (s : State) (p : FabricPacket) : State :=
  let q := { p with pkt := { p.pkt with addr := lineOf p.pkt.addr } }
  if p.forTag then (if (s.granted? p 1 { r := true }).isSome then s.answerTag p else s.deny p)
  else if (s.granted? q 128 { r := true }).isSome && !s.tagsFail p none then s.bump.answerLine p
  else s.bump.deny p

/-- The tag of a granule and of its copies is set. -/
def State.setTags (s : State) (p : FabricPacket) : State :=
  match s.writePlace p.rim p.pkt.addr with
  | .cell k _ => (k :: s.copyKeys p.pkt.addr).foldl (fun s k => s.writeTag k (BitVec.ofNat 4 (fieldAt p.pkt.payload 0 1))) s
  | _ => s

/-- WR from another package. -/
def State.remoteWrite (s : State) (p : FabricPacket) : State :=
  if (s.granted? p p.pkt.len { w := true }).isNone then s.deny p
  else if p.forTag then s.setTags p
  else if s.tagsFail p (some p.pkt.len) then s.bump.deny p
  else (s.bump.fixPhys p.rim p.pkt.addr p.pkt.len).writeCopies p.rim p.pkt.addr (p.pkt.payload.take p.pkt.len)

/-- Packets of one read-modify-write of another package. -/
def FabricPacket.withPart (p q : FabricPacket) : Bool :=
  p.spkg = q.spkg && p.pkt.src = q.pkt.src && p.pkt.tag = q.pkt.tag && p.pkt.addr = q.pkt.addr

/-- One read-modify-write of another package's lanes (R251): the line is sent back as it was before. -/
def State.performAtoms (s : State) (p : FabricPacket) (ps : List FabricPacket) : State :=
  match s.granted? p 4 { r := true, w := true }, AtomicOp.ofCode? (fieldAt p.pkt.payload 0 1), s.writePlace p.rim p.pkt.addr with
  | some _, some op, .cell k _ =>
    if s.tagsFail p (some 4) then s.bump.deny p
    else
      let s := (s.bump.fixPhys p.rim p.pkt.addr 4).answerLine p
      let vc (i : Nat) : Nat × Nat := (ps[i]?).elim (0, 0) fun q => (fieldAt q.pkt.payload 4 4, fieldAt q.pkt.payload 8 4)
      let s := (s.atomics op ((List.range ps.length).map fun i => (i, k)) vc).1
      s.writeKeys (k :: s.copyKeys p.pkt.addr) (s.bytesAt k 4)
  | _, _, _ => s.deny p

/-- ATOM from another package: byte 1 says how many more packets its read-modify-write has (R238, R251; log 53). -/
def State.remoteAtom (s : State) (p : FabricPacket) : State :=
  if fieldAt p.pkt.payload 1 1 ≠ 0 then { s with parts := s.parts ++ [p] }
  else { s with parts := s.parts.filter fun (q : FabricPacket) => !q.withPart p }.performAtoms p
    ((s.parts.filter fun (q : FabricPacket) => q.withPart p) ++ [p])

/-- A unit of a COLL from another package, and its notification (R422–R424). -/
def State.remoteColl (s : State) (p : FabricPacket) : State :=
  match s.granted? p p.pkt.len { w := true }, s.writePlace p.rim p.pkt.addr with
  | some (e, home), .cell k _ =>
    let s := s.combineUnit (p.pkt.type - 0x18) (k :: s.copyKeys p.pkt.addr) p.pkt.payload (p.pkt.len / 16)
    let n : Notice := { die := home, launch := none, ctx := if e.ctx = 0xFF then 0 else e.ctx,
                        word := noticeWord p.spkg p.pkt.src (p.pkt.tag * 16) }
    if bit p.pkt.aux 0 then { s with notices := s.notices ++ [n] } else s
  | _, _ => s.deny p

/-- TSTORE from another package arrives (R414, R418, R420), or is denied with 0x22, AUX 4 and its TAG. -/
def State.remoteTstore (s : State) (p : FabricPacket) : State :=
  let m := p.pkt
  let denied (s : State) : State := s.sendFabric p.spkg { type := 0x22, cls := 3, aux := 4, src := m.dst, dst := m.src, addr := m.addr, tag := m.tag }
  match s.granted? p 4 { w := true } with
  | none => denied s
  | some (_, home) =>
    if s.tagsFail p (some 4) then denied s.bump
    else
    let s := s.bump
    let w (k : Nat) : Word := BitVec.ofNat 32 (fieldAt m.payload (4 * k) 4)
    let h : HeldStore := { id := s.nextId, src := m.src, dst := home, group := 0, flight := 0, lane := 0, phys := m.addr, va := 0,
                           value := w 1, token := w 0, issue := bit m.aux 0, limit := (w 2).toNat, pkg := some p.spkg, tag := m.tag, since := s.ns }
    { s with held := s.held ++ [h], nextId := s.nextId + 1 }.arriveStore h

/-- A request of another package as an entry of the hold queue, behind the token stores of its line (R418). -/
def FabricPacket.behind (p : FabricPacket) (id now : Nat) : HeldStore :=
  { id, src := p.pkt.src, dst := p.pkt.dst, group := 0, flight := 0, lane := 0, phys := p.pkt.addr, va := 0, value := 0, token := 0,
    issue := false, limit := 0, pkg := some p.spkg, since := now, phase := .behind, request := some p }

/-- A write that must wait for the token stores of its package that its line holds (R240, R418). -/
def State.waitsLine (s : State) (p : FabricPacket) : Bool :=
  (p.pkt.type = 3 || p.pkt.type = 4 || p.pkt.isColl) && s.held.any fun h => sameLine h (p.behind 0 0) && h.there

/-! ### Answers of other packages (R407, R425) -/

/-- A destination gets no value: its word of a pushed entry is masked out (R407). -/
def Work.lose (w : Work) (ds : List Dest) : Work :=
  match w with
  | .results rs push bt =>
    let gone := maskOf (ds.filterMap fun d => match d with
      | .word k _ => some k
      | _ => none)
    .results rs (push.map fun e => (e.1, { e.2 with mask := e.2.mask &&& ~~~gone })) bt
  | w => w

/-- The accesses that have asked under a tag get no answer: the destinations stay unwritten. -/
def Flight.forget (f : Flight) (tag : Nat) : Flight :=
  let ds := ((f.late.filter fun r => r.asked = some tag).flatMap fun r => r.dests) ++
    (f.atoms.filter fun u => u.asked = some tag).flatMap fun u => u.items.flatMap fun i => i.2.2
  { f with late := f.late.filter fun r => r.asked ≠ some tag, atoms := f.atoms.filter fun u => u.asked ≠ some tag, work := f.work.lose ds }

/-- A packet carries a request. -/
def Ask.sentAs (a : Ask) (p : FabricPacket) : Bool :=
  p.dpkg = a.pkg && p.owner = some (a.group, a.flight) && p.pkt.tag % 2 ^ 16 = a.tag % 2 ^ 16 && p.pkt.addr = a.addr

/-- The request that a packet of another package answers: TAG and ADDR echo it. -/
def State.askOf? (s : State) (p : FabricPacket) : Option Ask :=
  s.asks.find? fun a => a.pkg = p.spkg && a.src = p.pkt.dst && a.tag % 2 ^ 16 = p.pkt.tag % 2 ^ 16 && a.addr = p.pkt.addr

def State.dropAsk (s : State) (a : Ask) : State := { s with asks := removeFirst s.asks a }

/-- A request is denied (R407, R425): nothing of it is written, and the issuing group is told; it waits for the packet no longer. -/
def State.askDenied (s : State) (a : Ask) (t : Trap) : State :=
  let s := s.dropAsk a
  { s with fabricOut := s.fabricOut.map fun p => if a.sentAs p then { p with owner := none } else p }.modGroup a.group fun g =>
    match g.flight? a.flight with
    | none => g
    | some f => match f.work with
      | .coll .. => g.modFlight a.flight fun f => f.deny 0 a.va
      | _ => (g.modFlight a.flight fun f => f.forget a.tag).addDenied a.flight f.mask f.path (fun _ => a.va) [(lowestLane a.lanes, t)]
          fun _ => a.index

/-- What a denial says: a tag check that failed there, for an access that compares tags, or a refusal (R221, R407). The packet does not tell
them apart (log 10). -/
def State.verdictOf (s : State) (a : Ask) : Trap := if a.tagged && Config.remoteVerdict s.tick a.addr = 2 then trap .tagMismatch else remoteDenial

/-- DATA or NACK of another package: the request that it answers is over. -/
def State.answered (s : State) (p : FabricPacket) : State :=
  match s.askOf? p with
  | none => s
  | some a =>
    if p.pkt.type = 7 then (if a.write then s else (s.dropAsk a).answer a.tag p.pkt.payload)
    else if p.pkt.aux = 3 then s.bump.askDenied a (s.verdictOf a)
    else s

/-- A packet of another package takes effect. -/
def State.performRequest (s : State) (p : FabricPacket) : State :=
  let m := p.pkt
  if m.type = 1 then s.remoteRead p
  else if m.type = 3 then s.remoteWrite p
  else if m.type = 4 then s.remoteAtom p
  else if m.type = 7 || m.type = 0xA then s.answered p
  else if 0x18 ≤ m.type && m.type ≤ 0x1B then s.remoteColl p
  else if m.type = 0x20 then s.remoteTstore p
  else if 0x21 ≤ m.type && m.type ≤ 0x23 then s.send { m with ctx := p.spkg + 1 }
  else if m.malformed then s.freezeMaster p.rim (.mesh 0)
  else s.deny p

/-! ### End-to-end delivery (R427) -/

/-- The acknowledgement of a packet. -/
def FabricPacket.ack (p : FabricPacket) : FabricAck := { pkg := p.spkg, lane := p.lane, eseq := p.eseq }

/-- Two packets with one sequence number of one stream. -/
def FabricPacket.same (p q : FabricPacket) : Bool := p.spkg = q.spkg && p.lane = q.lane && p.eseq = q.eseq

/-- A packet takes effect and is acknowledged, so that its source knows it performed (R226, R423). -/
def State.completeFabric (s : State) (p : FabricPacket) : State :=
  let s := s.performRequest p
  { s with eackOut := s.eackOut ++ [p.ack] }

/-- A packet is delivered; a write behind token stores of its line waits for them (R418). -/
def State.deliverFabric (s : State) (p : FabricPacket) : State :=
  if s.waitsLine p then { s with held := s.held ++ [p.behind s.nextId s.ns], nextId := s.nextId + 1 } else s.completeFabric p

/-- A write whose turn on its line has come is performed, and the line goes on (R418). -/
def State.performTurn (s : State) (h : HeldStore) (p : FabricPacket) : State :=
  ((s.dropHeld h.id).completeFabric p).releaseLine h s.held.length

/-- The packets of a stream that have waited for this one are delivered. `fuel` is the number that wait. -/
def State.drainStream (s : State) (spkg lane fuel : Nat) : State :=
  match fuel with
  | 0 => s
  | k + 1 =>
    let key := 8 * spkg + lane
    match s.fabricWait.find? fun p => p.spkg = spkg && p.lane = lane && p.eseq = (sread s.eseqIn key).toNat with
    | none => s
    | some p =>
      let s := { s with fabricWait := removeFirst s.fabricWait p, eseqIn := swrite s.eseqIn key (sread s.eseqIn key + 1) }
      (s.deliverFabric p).drainStream spkg lane k

/-- A packet arrives: it is delivered in ESEQ order; a duplicate is dropped, and acknowledged again when the first has taken effect. -/
def State.acceptFabric (s : State) (p : FabricPacket) : State :=
  let next := (sread s.eseqIn (8 * p.spkg + p.lane)).toNat
  let ahead := (p.eseq + 65536 - next) % 65536
  let waits := s.fabricWait.any p.same || s.held.any fun h => h.request.elim false p.same
  if decide (32768 ≤ ahead) && !waits then { s with eackOut := s.eackOut ++ [p.ack] }
  else if waits then s
  else { s with fabricWait := s.fabricWait ++ [p] }.drainStream p.spkg p.lane (s.fabricWait.length + 1)

/-- Packets that are acknowledged are kept no longer; a store's request is over with it. A package that denies a store says so first
(log 10). -/
def State.acknowledged (s : State) (sel : FabricPacket → Bool) : State :=
  { s with asks := s.asks.filter fun a => !(a.write && s.fabricOut.any fun p => sel p && a.sentAs p),
           fabricOut := s.fabricOut.filter fun p => !sel p }

/-- An acknowledgement arrives (R427). -/
def State.acknowledge (s : State) (a : FabricAck) : State :=
  s.acknowledged fun p => p.dpkg = a.pkg && p.lane = a.lane && p.eseq = a.eseq

/-! ### A package that is lost (R407, R425) -/

/-- No live plane carries a request that waits. -/
def State.lostAsk (s : State) (a : Ask) : Bool :=
  s.planes.isEmpty || s.fabricOut.any fun p => a.sentAs p && !p.pkt.isColl && (s.planesIn p.rims).isEmpty

/-- The packet of a request that is denied for want of a plane keeps its place in its stream, and asks for nothing but a line (log 10). -/
def State.quash (s : State) (a : Ask) : State :=
  { s with fabricOut := s.fabricOut.map fun (p : FabricPacket) =>
      if a.sentAs p then { p with pkt := { p.pkt with type := 1, cls := 0, aux := 0, len := 0, payload := [] } } else p }

/-- A token store's package is lost: the store is denied (R410, R425). -/
def State.storeLost (s : State) (h : HeldStore) : State :=
  let s := (s.dropHeld h.id).modGroup h.group fun g => (h.denied false g).laneDone h.flight
  if h.issue then s.countStore h.token true else s

/-- Packages that no live plane reaches deny what was asked of them (R407, R425). -/
def State.denyLost (s : State) : State :=
  let s := (s.asks.filter s.lostAsk).foldl (fun s a => (s.quash a).askDenied a remoteDenial) s
  if s.planes.isEmpty then (s.held.filter fun h => h.away.isSome).foldl State.storeLost s else s

/-! ### Sending (R426–R430) -/

/-- The plane of a packet (R427). -/
def State.planeFor (s : State) (p : FabricPacket) : Option Nat :=
  let request := p.pkt.type = 1 || p.pkt.type = 3 || p.pkt.type = 4
  let ps := if request then s.planesIn p.rims else s.planes
  ps[(p.dpkg * 8 + p.lane) % ps.length]?

/-- The bytes of a fabric packet (R387, R427). -/
def FabricPacket.bytes (p : FabricPacket) : List Byte :=
  let m := p.pkt
  bytesOf 1 m.type ++ bytesOf 1 m.cls ++ bytesOf 1 m.src ++ bytesOf 1 m.dst ++ bytesOf 2 m.tag ++ bytesOf 1 m.len ++
  bytesOf 1 m.aux ++ bytesOf 8 m.addr ++ bytesOf 2 p.spkg ++ bytesOf 2 p.dpkg ++ bytesOf 2 p.eseq ++ bytesOf 1 p.lane ++
  bytesOf 1 0 ++ m.payload.take m.len

/-- The bytes with zeros up to a length. -/
def padTo (n : Nat) (bs : List Byte) : List Byte := (bs ++ List.replicate n 0).take n

/-- Bytes 0–7 of a flit: the additional authenticated data (R428). -/
def Flit.head (f : Flit) : List Byte := bytesOf 1 f.type ++ bytesOf 1 f.flags ++ bytesOf 2 f.seq ++ bytesOf 2 f.ack ++ bytesOf 2 f.nak

/-- The CRC-32C that a flit should carry (R428). -/
def Flit.crcOf (f : Flit) : Nat := crc32c (f.head ++ f.body ++ bytesOf 16 f.tag.toNat)

def LinkKeys.key (k : LinkKeys) (slot : Nat) : Nat := if slot = 0 then k.key0.toNat else k.key1.toNat

/-- The initialisation vector: the salt, then the counter (R429). -/
def LinkKeys.iv (k : LinkKeys) (counter : Nat) : Nat := k.salt.toNat * 2 ^ 64 + counter % 2 ^ 64

/-- Send a flit on a link, under its slot and a fresh invocation (R428, R429). -/
def State.emitFlit (s : State) (n type seq nak : Nat) (plain : List Byte) : State :=
  let l := s.link n
  let key := l.keysOut.key l.slot
  let iv := l.keysOut.iv l.counter
  let body := (padTo 224 plain).zipIdx.map fun b => Config.gcmByte key iv b.2 b.1
  let f : Flit := { link := n, type, flags := l.slot, seq, ack := (s.lencyPort (n / 4)).nextRecv, nak, body, tag := 0, crc := 0 }
  let f := { f with tag := Config.gcmTag key iv (f.head ++ body) }
  let f := { f with crc := BitVec.ofNat 32 f.crcOf }
  { s with flitsOut := s.flitsOut ++ [f] }.modLink n fun l => { l with counter := l.counter + 1 }

/-- A link may send no flit before its KEYMARK, or before it is taken down (R430). -/
def Link.due (l : Link) : Bool := l.switchAt.elim false fun n => decide (n ≤ l.counter)
def Link.spent (l : Link) : Bool := !l.due && decide (2 ^ 40 ≤ l.counter + 1)

/-- A link event of the black box (R450). -/
def State.linkEvent (s : State) (n code : Nat) : State :=
  s.boxEvent (48 + n / 32) 8 0x40 (BitVec.ofNat 64 (n / 4 + 256 * code))

/-- The live link of a port that carries a sequence number (R426); one that is to be taken down carries no more (R430). -/
def State.stripe (s : State) (port seq : Nat) : Option Nat :=
  let ls := (s.liveLinks port).filter fun n => !(s.link n).spent
  ls[seq % ls.length]?

/-- The transmitter sends KEYMARK under the old slot; later flits use the new one, counted from 0. -/
def State.sendKeymark (s : State) (n : Nat) : State :=
  let port := n / 4
  let seq := (s.lencyPort port).nextSend
  let s := (s.emitFlit n 2 seq 0 []).modPort port fun p =>
    { p with nextSend := (p.nextSend + 1) % 65536, retry := p.retry ++ [{ seq, type := 2, body := [], link := n }] }
  (s.modLink n fun l => { l with slot := 1 - l.slot, counter := 0, switchAt := none }).linkEvent n 3

/-- A link that has reached its switch point sends KEYMARK before any other flit (R430). -/
def State.keyed (s : State) (n : Nat) : State := if (s.link n).due then s.sendKeymark n else s

/-- Send a new flit of a port; it is kept until acknowledged. `none` while its link waits for KEYMARK. -/
def State.newFlit (s : State) (port type : Nat) (plain : List Byte) : Option State :=
  let p := s.lencyPort port
  match s.stripe port p.nextSend with
  | none => none
  | some n =>
    if (s.link n).due then none
    else some ((s.emitFlit n type p.nextSend 0 plain).modPort port fun p =>
      { p with nextSend := (p.nextSend + 1) % 65536,
               retry := p.retry ++ [{ seq := p.nextSend, type, body := plain, link := n }] })

/-- A packet that this package sends next: the first one whose plane, as the live planes now stand, it has not been sent on. -/
def State.unsent? (s : State) : Option (FabricPacket × Nat) :=
  s.fabricOut.findSome? fun p => match s.planeFor p with
    | some n => if p.plane = some n then none else some (p, n)
    | none => none

/-- Send a packet on its plane in a DATA flit. -/
def State.transmit (s : State) : Option State :=
  match s.unsent? with
  | none => none
  | some (p, n) => (s.newFlit n 1 p.bytes).map fun s =>
      { s with fabricOut := s.fabricOut.map fun q => if q = p then { q with plane := some n } else q }

/-- A write of another package whose turn on its line has come. -/
def State.ready? (s : State) : Option (HeldStore × FabricPacket) :=
  s.held.findSome? fun h => if h.phase = .ready then h.request.map fun p => (h, p) else none

/-- FABRIC_PACKET (R406, R418, R427): acknowledgements first, then writes that a line held, then packets that have arrived, then
packets to send. -/
def execFabricPacket (s : State) : Host.Outcome State Fault Refusal :=
  match s.eackIn with
  | a :: t => .next ({ s with eackIn := t }.acknowledge a)
  | [] =>
    match s.ready?, s.pick s.fabricIn with
    | some e, _ => .next (s.performTurn e.1 e.2)
    | none, some p =>
      let s := { s with fabricIn := removeFirst s.fabricIn p }
      .next (if p.dpkg = s.pkgid then s.acceptFabric p else s)
    | none, none => .next (s.transmit.getD s)

/-! ### Receiving flits (R428, R429, R431) -/

/-- A Lency port as a master of its rim die (R373). -/
def portMaster (port : Nat) : Nat × Master := (48 + port / 8, .lency port)

/-- A flit that its port can take. -/
def State.flitReady (s : State) (f : Flit) : Bool := (s.link f.link).up && !s.frozen.contains (portMaster (f.link / 4))

/-- The flits of a type that have arrived, each the first of its link; a reserved TYPE is received as CTRL is. -/
def State.flitsOf (s : State) (type : Nat) : List Flit :=
  s.flitsIn.filter fun f => min f.type 3 = type && s.flitReady f && (s.flitsIn.find? fun g => g.link = f.link) = some f

/-- Ask for a flit again: an IDLE flit with a NAK (R428, R431). -/
def State.askAgain (s : State) (port seq : Nat) : State :=
  let p := s.lencyPort port
  match s.stripe port p.nextSend with
  | none => s
  | some n =>
    let s := s.keyed n
    (s.emitFlit n 0 (s.lencyPort port).nextSend (2 ^ 15 + seq % 2 ^ 15) []).modPort port fun p =>
      { p with nextSend := (p.nextSend + 1) % 65536, retry := p.retry ++ [{ seq := p.nextSend, type := 0, body := [], link := n }] }

/-- Send a kept flit again: same SEQ and payload, a fresh invocation, on a live link (R430, R431). A KEYMARK that moves to another link
goes as IDLE there, since that link's key does not change (log 75). -/
def State.resendFlit (s : State) (port : Nat) (k : KeptFlit) : State :=
  match s.stripe port k.seq with
  | none => s
  | some n =>
    let type := if k.type = 2 && k.link ≠ n then 0 else k.type
    ((s.keyed n).emitFlit n type k.seq 0 k.body).modPort port fun p =>
      { p with retry := p.retry.map fun e => if e.seq = k.seq then { e with type, link := n } else e }

/-- What a flit's ACKSEQ and NAK say: flits below are received, one is asked for again. -/
def State.heed (s : State) (f : Flit) : State :=
  let port := f.link / 4
  let s := s.modPort port fun p => { p with retry := p.retry.filter fun k => decide ((k.seq + 65536 - f.ack) % 65536 < 32768) }
  if !bit f.nak 15 then s
  else match (s.lencyPort port).retry.find? fun k => k.seq % 2 ^ 15 = f.nak % 2 ^ 15 with
    | some k => s.resendFlit port k
    | none => s

/-- The packets in a flit's plain payload: whole packets, then zeros (R428). The header has no place for the source context,
which is free (log 4). `fuel` is the most that fit. -/
def packetsIn (rim : Nat) (ctx : Nat) (bs : List Byte) (fuel : Nat) : List FabricPacket :=
  match fuel with
  | 0 => []
  | k + 1 =>
    let f (at_ n : Nat) : Nat := fieldAt bs at_ n
    if bs.length < 24 || f 0 1 = 0 then []
    else
      let m : MeshPacket := { type := f 0 1, cls := f 1 1, src := f 2 1, dst := f 3 1, tag := f 4 2, len := f 6 1, aux := f 7 1,
                              addr := f 8 8, payload := (bs.drop 24).take (f 6 1), ctx }
      { pkt := m, spkg := f 16 2, dpkg := f 18 2, eseq := f 20 2, lane := f 22 1 % 8, rim } ::
        packetsIn rim ctx (bs.drop (24 + f 6 1)) k

/-- A flit in its turn: a DATA flit's packets go on, a KEYMARK leaves the old slot idle (R428, R430). -/
def State.deliverFlit (s : State) (h : HeldFlit) : State :=
  if h.type = 1 then
    let c := s.freeWord
    { c.2 with fabricIn := c.2.fabricIn ++ packetsIn (48 + h.link / 32) (c.1.toNat % 64) h.body 9 }
  else if h.type = 2 then s.modLink h.link fun l => { l with slotIn := 1 - l.slotIn }
  else s

/-- Flits are delivered in sequence order. `fuel` is the number held. -/
def State.deliverFlits (s : State) (port fuel : Nat) : State :=
  match fuel with
  | 0 => s
  | k + 1 =>
    let p := s.lencyPort port
    match p.window.find? fun h => h.seq = p.nextRecv with
    | none => s
    | some h =>
      let s := s.modPort port fun p => { p with window := removeFirst p.window h, nextRecv := (p.nextRecv + 1) % 65536 }
      (s.deliverFlit h).deliverFlits port k

/-- A flit that authenticates joins its port's window. -/
def State.keepFlit (s : State) (f : Flit) (plain : List Byte) : State :=
  let port := f.link / 4
  let p := s.lencyPort port
  let known := p.window.any fun h => h.seq = f.seq
  let s := if known then s else
    s.modPort port fun p => { p with window := p.window ++ [{ seq := f.seq, type := f.type, body := plain, link := f.link, slot := f.flags % 2 }] }
  s.deliverFlits port (p.window.length + 1)

/-- A failed authentication: dropped, answered by NAK; the third in a row takes the link down (R431). -/
def State.authFailed (s : State) (f : Flit) : State :=
  let s := ((s.modLink f.link fun l => { l with fails := l.fails + 1 }).linkEvent f.link 4).askAgain (f.link / 4) f.seq
  if 3 ≤ (s.link f.link).fails then { s with agenda := s.agenda ++ [{ chosen := f.link, event := .linkDown }] } else s

/-- A flit arrives (R428): CRC, then the window of 1,024, then authentication. Every flit counts as an invocation of the slot it
names; the count starts again with the first flit under the other slot (R429, R430). A reserved TYPE freezes the port (R373). -/
def State.receive (s : State) (f : Flit) : State :=
  let port := f.link / 4
  let l := s.link f.link
  let slot := f.flags % 2
  let n := if slot = l.seenSlot then l.seen else 0
  let s := { s with flitsIn := removeFirst s.flitsIn f }.modLink f.link fun l => { l with seenSlot := slot, seen := n + 1 }
  if f.crcOf ≠ f.crc.toNat then s.askAgain port f.seq
  else if 1024 ≤ (f.seq + 65536 - (s.lencyPort port).nextRecv) % 65536 then s
  else
    let key := l.keysIn.key slot
    let iv := l.keysIn.iv n
    if Config.gcmTag key iv (f.head ++ f.body) ≠ f.tag then s.authFailed f
    else
      let plain := f.body.zipIdx.map fun b => Config.gcmByte key iv b.2 b.1
      let s := s.modLink f.link fun l => { l with fails := 0 }
      if 3 < f.type then s.freezeMaster (portMaster port).1 (portMaster port).2 else (s.heed f).keepFlit f plain

/-- FLIT_DATA (R428, R431). -/
def execFlitData (s : State) : Host.Outcome State Fault Refusal :=
  match s.pick (s.flitsOf 1) with
  | none => .next s
  | some f => .next (s.receive f)

/-- FLIT_IDLE (R428): acknowledgements and NAKs. -/
def execFlitIdle (s : State) : Host.Outcome State Fault Refusal :=
  match s.pick (s.flitsOf 0) with
  | none => .next s
  | some f => .next (s.receive f)

/-- FLIT_CTRL (R428): the spec gives its payload no meaning. -/
def execFlitCtrl (s : State) : Host.Outcome State Fault Refusal :=
  match s.pick (s.flitsOf 3) with
  | none => .next s
  | some f => .next (s.receive f)

/-! ### Keys and links (R430, R431) -/

/-- A link whose counter has reached its switch point. -/
def State.switching? (s : State) : Option Nat := ((List.range 128).find? fun n => (s.link n).up && (s.link n).due)

/-- KEYMARK (R430): one that has arrived is received, or one that is due is sent. -/
def execKeymark (s : State) : Host.Outcome State Fault Refusal :=
  match s.pick (s.flitsOf 2), s.switching? with
  | some f, _ => .next (s.receive f)
  | none, some n => .next (s.sendKeymark n)
  | none, none => .next s

/-- A link whose counter would reach 2^40 (R430). -/
def State.spentLink? (s : State) : Option Nat := (List.range 128).find? fun n => (s.link n).up && (s.link n).spent

/-- A link goes down (R431): its port's unacknowledged flits go out again on the links that survive; without any, the packets
of the plane move to other planes (R427), and the flits wait for a link. -/
def State.linkDown (s : State) (n : Nat) : State :=
  let port := n / 4
  let s := (s.modLink n fun l => { l with up := false, fails := 0 }).linkEvent n 1
  ((((s.lencyPort port).retry.filter fun k => k.link = n)).foldl (fun s k => s.resendFlit port k) s).denyLost

/-- LINK_DOWN (R430, R431): a link that has failed, else one whose counter is spent, else any. -/
def execLinkDown (s : State) : Host.Outcome State Fault Refusal :=
  let up := s.chosen < 128 && (s.link s.chosen).up
  match (if up && 3 ≤ (s.link s.chosen).fails then none else s.spentLink?) with
  | some n => .next (s.linkDown n)
  | none => if up then .next (s.linkDown s.chosen) else .next s

/-- A link returns to service; flits that found no live link go out on it. -/
def State.linkUp (s : State) (n : Nat) : State :=
  let port := n / 4
  let alone := (s.liveLinks port).isEmpty
  let s := (s.modLink n fun l => { l with up := true, fails := 0 }).linkEvent n 2
  if alone then (s.lencyPort port).retry.foldl (fun s k => s.resendFlit port k) s else s

/-! ### What other packages do -/

/-- A line of another package's memory: free (log 10). -/
def State.farLine (s : State) : List Byte :=
  (List.range 128).map fun i => BitVec.ofNat 8 ((Config.remoteWord s.tick 0 (i / 4)).toNat / 2 ^ (8 * (i % 4)))

/-- Another package answers a request that has gone out: it denies it, or takes it, with a line where the request waits for one; and it
acknowledges its packets. -/
def State.farAnswer (s : State) (a : Ask) : State :=
  let v := Config.remoteVerdict s.tick a.addr
  let t := if v = 1 then s.askDenied a remoteDenial
    else if v = 2 && a.tagged then s.askDenied a (trap .tagMismatch)
    else if a.write then s.dropAsk a
    else (s.dropAsk a).answer a.tag s.farLine
  { t with fabricOut := t.fabricOut.filter fun p => !(s.fabricOut.any fun q => a.sentAs q && q.dpkg = p.dpkg && q.lane = p.lane && q.eseq = p.eseq) }.bump

/-- Another package reports a token store: LANDED, DENIED, REFUSE, or what becomes of a store that it holds (R414–R418). -/
def State.farReport (s : State) (h : HeldStore) : State :=
  let n := (Config.freeWord s.tick).toNat
  let aux := (if h.issue then [3, 4] else [3, 4, 5, 1]).getD (n / 8 % (if h.issue then 3 else 5)) 0
  let aboutToken := aux = 3 || aux = 1
  s.bump.send { type := if aux = 0 then 0x23 else 0x22, cls := 3, aux, src := n / 64 % 52, dst := h.src, tag := (h.id + 1) % 2 ^ 16,
                addr := if aboutToken then h.token.toNat else h.phys, ctx := h.away.getD 0 + 1 }

/-- The home of a token of another package answers a WATCH of a die: RELEASE, FAIL or POLL (R415). -/
def State.farToken (s : State) (die : Nat) (t : Word) : State :=
  s.bump.send { type := 0x22, cls := 3, aux := (Config.freeWord s.tick).toNat % 3, src := tokDie t, dst := die, addr := t.toNat, ctx := tokPkg t + 1 }

/-- What other packages may do now: answer what has reached them, and acknowledge it. -/
def State.farDoings (s : State) : List State :=
  let out (sel : FabricPacket → Bool) : Bool := s.fabricOut.any fun p => sel p && p.plane.isNone
  let far (t : Word) : Bool := tokV t && tokPkg t ≠ s.pkgid && !out fun p => p.pkt.type = 0x21 && p.pkt.addr = t.toNat
  ((s.asks.filter fun a => !out a.sentAs).map s.farAnswer) ++
  ((s.held.filter fun h => h.phase = .away && !out fun p => p.pkt.type = 0x20 && p.pkt.tag = h.id + 1).map s.farReport) ++
  ((s.held.filter fun h => h.phase = .held && !h.issue && far h.token).map fun h => s.farToken h.dst h.token) ++
  ((s.waits.filter fun w => w.phase = .asked && far w.token).map fun w => s.farToken w.die w.token) ++
  ((s.fabricOut.filter fun p => p.plane.isSome && !s.asks.any fun a => a.sentAs p).map fun p =>
    s.acknowledged fun q => q.dpkg = p.dpkg && q.lane = p.lane && q.eseq = p.eseq)

/-- One of these things happens. -/
def State.farDoes (s : State) : State := (s.pick s.farDoings).getD s

/-- LINK_UP (R427): packets whose plane changes with it are sent again there. -/
def execLinkUp (s : State) : Host.Outcome State Fault Refusal :=
  if s.chosen < 128 && !(s.link s.chosen).up then .next (s.linkUp s.chosen) else .next s

end Sys2Proof.Machine
end

