-- ==== Sys2Proof/Machine/ControlSpace.lean ====
section
/-! DEFINITION. The control space: its writes and what refuses them (R182, R222, R388, R391, R392, R402, R406, R408, R430, R438,
R444), CTRL accesses, and the migration engine (R402, R403). -/

namespace Sys2Proof.Machine

open Sys2Proof

/-! ### Writes in general (R391, R438) -/

/-- The write of a kind that an event takes. -/
def State.takeWrite (s : State) (want : ControlWrite → Bool) : Option (ControlWrite × State) :=
  (s.pick (s.controlWrites.filter want)).map fun w => (w, { s with controlWrites := removeFirst s.controlWrites w })

/-- The answer to a CTRL access, which ends it: NACK with AUX 3, REFUSED, to a write that is refused, otherwise CTRL (R387, R391). -/
def State.answerWrite (s : State) (w : ControlWrite) (refused : Bool) : State :=
  match w.origin with
  | some (src, tag, addr) =>
    s.send { type := if refused then 0xA else 0x30, cls := 8, src := w.die % 52, dst := src, tag, aux := if refused then 3 else 0, addr }
  | none => s

/-- What the bytes of a register that a write leaves out hold: a queue's REFUSED has no ones in them (R182), and a staged item keeps
what was staged (R408). -/
def State.unwritten (s : State) (w : ControlWrite) : List Byte :=
  let bs := s.controlBytes w.table w.die w.index
  if w.table = 0 then bs.take 12 ++ List.replicate 4 0
  else if w.table = 6 && w.index = 1 then bytesOf 2 s.stagedId
  else if w.table = 6 && decide (2 ≤ w.index) then bytesOf 2 (sread s.stagedTab (w.index - 2)).toNat
  else bs

/-- The value that a write of some bytes of a register gives it. -/
def ControlWrite.whole (w : ControlWrite) (s : State) : ControlWrite :=
  match w.part with
  | none => w
  | some (off, n) =>
    let old := s.unwritten w
    { w with value := ofBytes (old.take off ++ (bytesOf n w.value).take (old.length - off) ++ old.drop (off + n)), part := none }

/-- A write takes effect (`none`: refused); one of a thread without SR_CTX.SYS has none (R438). -/
def State.effect (s : State) (w : ControlWrite) (f : ControlWrite → State → Option State) : State :=
  if !w.sys then s.answerWrite w false
  else match f (w.whole s) s with
    | some s' => s'.answerWrite w false
    | none => s.answerWrite w true

/-! ### CONTROL_REGISTER_WRITE (R182, R406, R408, R429, R430) -/

/-- A written queue entry (R182): SEQ and PENDING are read-only, REFUSED is cleared by the ones that a write of its bytes holds. -/
def Queue.written (q : Queue) (v : Nat) : Queue :=
  { q with ctx := bits v 0 6, ctl := bits v 8 4, depth := max 1 (min 4096 (bits v 16 16)),
           refused := q.refused &&& ~~~(BitVec.ofNat 32 (v / 2 ^ 96)) }

/-- A written import entry (R406). -/
def ImportEntry.ofNat (v : Nat) : ImportEntry :=
  { base := bits v 0 64, size := bits v 64 64, srcLo := bits v 128 16, srcHi := bits v 144 16, ctx := bits v 160 8, perm := bits v 168 8 }

/-- The import table with an entry replaced; it has 64. -/
def State.setImport (s : State) (k : Nat) (e : ImportEntry) : State :=
  { s with imports := setAt (s.imports ++ List.replicate (64 - s.imports.length) {}) k e }

/-- A written key register (R429, R441). -/
def LinkKeys.written (l : LinkKeys) (k v : Nat) : LinkKeys :=
  if k = 0 then { l with key0 := BitVec.ofNat 256 v }
  else if k = 1 then { l with key1 := BitVec.ofNat 256 v }
  else { l with salt := BitVec.ofNat 32 v }

/-- Staged PKGID and RINGTAB entries; RINGCTL has an event of its own (R408). -/
def State.stageRing (s : State) (k v : Nat) : State :=
  if k = 1 then { s with stagedId := v % 512 }
  else { s with stagedTab := swrite s.stagedTab (k - 2) (BitVec.ofNat 16 (v % 512 + 2 ^ 15 * bits v 15 1)) }

/-- The effect of a write to a table without an event of its own. -/
def State.writeRegister (s : State) (w : ControlWrite) : State :=
  if w.table = 0 then { s with queues := modAt s.queues w.index fun q => q.written w.value }
  else if w.table = 3 then s.setImport w.index (ImportEntry.ofNat w.value)
  else if w.table = 6 then s.stageRing w.index w.value
  else if w.table = 9 then s.modLink w.index fun l => { l with switchAt := some (min w.value (2 ^ 40 - 64)) }
  else if w.table = 10 then s.modLink (w.index / 8) fun l =>
    if bit w.index 2 then { l with keysIn := l.keysIn.written (w.index % 4) w.value }
    else { l with keysOut := l.keysOut.written (w.index % 4) w.value }
  else s

/-- The tables that CONTROL_REGISTER_WRITE serves. -/
def plainTable (w : ControlWrite) : Bool :=
  w.table = 0 || w.table = 3 || (w.table = 6 && w.index ≠ 0) || decide (9 ≤ w.table)

/-- CONTROL_REGISTER_WRITE (R438). -/
def execControlRegisterWrite (s : State) : Host.Outcome State Fault Refusal :=
  match s.takeWrite plainTable with
  | none => .next s
  | some (w, s) => .next (s.effect w fun w s => some (s.writeRegister w))

/-! ### RINGCTL_WRITE (R408) -/

/-- A write of RINGCTL commits the staged items and itself, or nothing. -/
def State.commitRing (s : State) (v : Nat) : Option State :=
  let p := bits v 0 10
  let pos := bits v 16 10
  let e := (sread s.stagedTab pos).toNat
  if p ≤ pos || 512 < p || !bit e 15 || bits e 0 9 ≠ s.stagedId then none
  else some { s with ringP := p, ringPos := pos, ringtab := s.stagedTab, pkgid := s.stagedId }

/-- RINGCTL_WRITE (R408). -/
def execRingctlWrite (s : State) : Host.Outcome State Fault Refusal :=
  match s.takeWrite fun w => w.table = 6 && w.index = 0 with
  | none => .next s
  | some (w, s) => .next (s.effect w fun w s => s.commitRing w.value)

/-! ### ROUTE_WRITE (R382, R383, R388) -/

/-- A route entry is written, or refused for a reserved value or a dead router (R388). -/
def State.writeRoute (s : State) (w : ControlWrite) : Option State :=
  if bits w.value 1 2 = 3 || bits w.value 3 2 = 3 || !((s.ident.routeDies w.die (w.index / 4) w.value).all s.ident.routerLive) then none
  else some (s.modDie w.die fun d => { d with routes := swrite d.routes w.index (BitVec.ofNat 8 (w.value % 32)) })

/-- ROUTE_WRITE (R388). -/
def execRouteWrite (s : State) : Host.Outcome State Fault Refusal :=
  match s.takeWrite fun w => w.table = 2 with
  | none => .next s
  | some (w, s) => .next (s.effect w fun w s => s.writeRoute w)

/-! ### REGION_WRITE (R392, R405) -/

/-- A written region entry. -/
def RegionEntry.ofNat (v : Nat) : RegionEntry :=
  { base := bits v 0 64, size := bits v 64 64, dieset := bits v 128 56, mode := bits v 184 2, stride := bits v 186 5,
    valid := bit v 191, dbase := bits v 192 48, target := bits v 240 8, pkgHi := bits v 248 8 }

/-- REGION_WRITE (R392): every die's table changes before the write completes. -/
def execRegionWrite (s : State) : Host.Outcome State Fault Refusal :=
  match s.takeWrite fun w => w.table = 1 with
  | none => .next s
  | some (w, s) => .next (s.effect w fun w s => some
      { s with regions := setAt (s.regions ++ List.replicate (64 - s.regions.length) {}) w.index (RegionEntry.ofNat w.value) })

/-! ### POOLBASE_WRITE and MIGBASE_WRITE (R222, R402) -/

/-- A die's pool is placed: POOL_LOW is posted when it is at or below LOW already (R222). -/
def State.placePool (s : State) (d base : Nat) : State :=
  let s := s.modDie d fun e => { e with poolbase := base, poolArmed := true }
  let p := s.framePool d
  if p.count ≤ p.low then (s.poolLow d).modDie d fun e => { e with poolArmed := false } else s

/-- POOLBASE_WRITE (R222). -/
def execPoolbaseWrite (s : State) : Host.Outcome State Fault Refusal :=
  match s.takeWrite fun w => w.table = 4 with
  | none => .next s
  | some (w, s) => .next (s.effect w fun w s => some (s.placePool w.die w.value))

/-- MIGBASE_WRITE (R402). -/
def execMigbaseWrite (s : State) : Host.Outcome State Fault Refusal :=
  match s.takeWrite fun w => w.table = 5 with
  | none => .next s
  | some (w, s) => .next (s.effect w fun w s => some (s.modDie w.die fun d => { d with migbase := w.value }))

/-! ### SELECT_WRITE and STEP_ENTRY_WRITE (R444, R445) -/

def State.island (s : State) (i : Nat) : Island := s.islands.getD i {}

def State.modIsland (s : State) (i : Nat) (f : Island → Island) : State := { s with islands := modAt s.islands i f }

/-- A SELECT write is stored during a fallback, and otherwise names the step in force. -/
def Island.selected (i : Island) (v : Nat) : Island :=
  if i.lost || i.fallback then { i with stored := some (v % 16) } else { i with select := v % 16 }

/-- SELECT_WRITE (R444, R445). -/
def execSelectWrite (s : State) : Host.Outcome State Fault Refusal :=
  match s.takeWrite fun w => w.table = 7 with
  | none => .next s
  | some (w, s) => .next (s.effect w fun w s => some (s.modIsland w.index fun i => i.selected w.value))

def stepFreq (e : Nat) : Nat := bits e 12 12

/-- A step entry is written unless it names a FREQ out of range or breaks the order of its neighbours (R444). -/
def State.writeStep (s : State) (w : ControlWrite) : Option State :=
  let i := s.island (w.index / 16)
  let k := w.index % 16
  let f := stepFreq w.value
  if f < 600 || 1900 < f || (k ≠ 0 && decide (f < stepFreq (i.step (k - 1)))) || (k ≠ 15 && decide (stepFreq (i.step (k + 1)) < f))
  then none
  else some (s.modIsland (w.index / 16) fun i => { i with steps := swrite i.steps k (BitVec.ofNat 32 (w.value % 2 ^ 24)) })

/-- STEP_ENTRY_WRITE (R444). -/
def execStepEntryWrite (s : State) : Host.Outcome State Fault Refusal :=
  match s.takeWrite fun w => w.table = 8 with
  | none => .next s
  | some (w, s) => .next (s.effect w fun w s => s.writeStep w)

/-! ### CTRL (R387, R438) -/

/-- CTRL: an access of a host core reaches the die that holds the register. One without a payload is a read, answered with the
register's bytes; one with a payload is a write, answered when it takes effect; an answer ends its access. -/
def execCtrl (s : State) : Host.Outcome State Fault Refusal :=
  match s.takePacket (s.packetsOf 0x30) with
  | none => .next s
  | some (p, s) =>
    if bit p.cls 3 then .next s
    else if p.len = 0 then
      .next (s.send { type := 0x30, cls := 8, src := p.dst, dst := p.src, tag := p.tag, addr := p.addr, len := 4,
                      payload := bytesOf 4 (s.controlRead p.addr 4) })
    else
      let w : ControlWrite := { table := Config.controlTable p.addr, die := p.dst, index := Config.controlIndex p.addr,
                                value := ofBytes (p.payload.take p.len), sys := true,
                                part := some (Config.controlOffset p.addr, p.len), origin := some (p.src, p.tag, p.addr) }
      .next { s with controlWrites := s.controlWrites ++ [w] }

/-! ### The migration engine (R402, R403) -/

/-- A rim die's command ring (R222, R402). -/
def State.commandRing (s : State) (rim : Nat) : FramePool :=
  let b := (s.die rim).migbase
  { ring := s.physRead rim b 8, cap := s.physRead rim (b + 8) 4, head := s.physRead rim (b + 12) 4,
    tail := s.physRead rim (b + 16) 4, low := 0 }

/-- A rim die whose migration engine takes a command: at most 16 run at once. -/
def State.migrating? (s : State) : Option Nat :=
  [48, 49, 50, 51].find? fun r => (s.die r).migbase ≠ 0 && (s.commandRing r).count ≠ 0 &&
    decide ((s.migrations.filter fun m => m.rim = r).length < 16) && !s.frozen.contains (r, Master.migration)

/-- The command's first test of the leaf (R402). -/
def leafRefused (e : Nat) : Bool := !bit e 0 || !bit e 1 || bit e 11 || bit e 7

/-- A leaf with W := 0. -/
def clearW (e : Nat) : Nat := if bit e 3 then e - 8 else e

/-- An uncorrectable error in the ring's header, its entry, the command or the leaf that the engine reads (R351). -/
def State.commandPoisoned (s : State) (r : Nat) : Bool :=
  let p := s.commandRing r
  let entry := p.ring + 8 * (p.head % p.cap)
  let cmd := s.physRead r entry 8
  s.physPoisoned r (s.die r).migbase 24 || s.physPoisoned r entry 8 || s.physPoisoned r cmd 32 || s.physPoisoned r (s.physRead r cmd 8) 8

/-- MIGRATION_COMMAND (R402): the leaf is checked and loses W; an uncorrectable error on the way freezes the engine (R351, R373). -/
def execMigrationCommand (s : State) : Host.Outcome State Fault Refusal :=
  match s.migrating? with
  | none => .next s
  | some r =>
    if s.commandPoisoned r then .next (s.freezeMaster r Master.migration) else
    let p := s.commandRing r
    let cmd := s.physRead r (p.ring + 8 * (p.head % p.cap)) 8
    let s := s.physWrite r ((s.die r).migbase + 12) 4 ((p.head + 1) % p.cap)
    let pte := s.physRead r cmd 8
    let e := s.physRead r pte 8
    if leafRefused e then .next (s.physWrite r (cmd + 18) 1 2)
    else
      let ctx := s.physRead r (cmd + 16) 1
      let m : Migration := { rim := r, cmd, pte, dest := s.physRead r (cmd + 8) 8, ctx, tier := s.physRead r (cmd + 17) 1 % 2,
                             old := BitVec.ofNat 64 e, start := s.ns, lease := (s.context (ctx % 64)).lease.toNat }
      .next { s.physWrite r pte 8 (clearW e) with migrations := s.migrations ++ [m] }

/-- A command whose wait of L + 2 µs is over. -/
def State.copying? (s : State) : Option Migration :=
  s.migrations.find? fun m => decide (m.start + 1000 * m.lease + 2000 ≤ s.ns) &&
    !s.frozen.contains (m.rim, Master.migration)

/-- The entries of a store in a range, moved by a distance. -/
def movedEntries {w : Nat} (st : Store w) (lo n to_ : Nat) : Store w :=
  (st.filter fun e => decide (lo ≤ e.1) && decide (e.1 < lo + n)).map fun e => (e.1 - lo + to_, e.2)

/-- A store with a range of keys replaced by a copy of another range. -/
def copyRange {w : Nat} (st : Store w) (from_ to_ n : Nat) : Store w :=
  (movedEntries st from_ n to_).foldl (fun st e => swrite st e.1 e.2) (sclear st to_ n)

/-- Copy 4 KiB and its tags between keys; no L1 or L2 keeps what they replace. -/
def State.copyPiece (s : State) (from_ to_ : Nat) : State :=
  let s := (s.fixOver to_ 4096).dropLines fun e => overlap (e.line * 128) 128 to_ 4096
  { s with mem := copyRange s.mem from_ to_ 4096, tags := copyRange s.tags (from_ / 32) (to_ / 32) 128,
           poison := s.poison.filter fun p => !(to_ ≤ p && p < to_ + 4096),
           l2 := s.l2.filter fun e => e.bytes.isEmpty || !overlap e.key 128 to_ 4096 }

/-- The keys of the eight pieces of a frame, which a region's stride keeps whole. -/
def State.pieceKeys (s : State) (die frame : Nat) : List (Option Nat) := (List.range 8).map fun k => s.physKey die (frame + 4096 * k)

/-- Copy a frame of 32 KiB and its tags (R402). -/
def State.copyFrame (s : State) (die old new : Nat) : State :=
  ((s.pieceKeys die old).zip (s.pieceKeys die new)).foldl (fun s e => match e with
    | (some a, some b) => s.copyPiece a b
    | _ => s) s

/-- A leaf without A and D. -/
def sansAD (e : Nat) : Nat := e - bits e 12 2 * 2 ^ 12

/-- The new leaf: FRAME and TIER replaced, A and D as now read. -/
def Migration.newLeaf (m : Migration) (now : Nat) : Nat :=
  let e := m.old.toNat
  let e := sansAD e - bits e 15 37 * 2 ^ 15 - bits e 10 1 * 2 ^ 10
  e + bits now 12 2 * 2 ^ 12 + m.tier * 2 ^ 10 + m.dest / 2 ^ 15 * 2 ^ 15

/-- The end of a command (R402). -/
def State.endMigration (s : State) (m : Migration) : State :=
  let old := bits m.old.toNat 15 37 * 2 ^ 15
  let s := { s with migrations := removeFirst s.migrations m }
  let s := s.copyFrame m.rim old m.dest
  let now := s.physRead m.rim m.pte 8
  if sansAD now ≠ sansAD (clearW m.old.toNat) then s.physWrite m.rim (m.cmd + 18) 1 3
  else ((s.physWrite m.rim m.pte 8 (m.newLeaf now)).physWrite m.rim (m.cmd + 24) 8 old).physWrite m.rim (m.cmd + 18) 1 1

/-- An uncorrectable error in the leaf or the old frame of a command (R351). -/
def State.copyPoisoned (s : State) (m : Migration) : Bool :=
  s.physPoisoned m.rim m.pte 8 ||
  (s.pieceKeys m.rim (bits m.old.toNat 15 37 * 2 ^ 15)).any fun k => k.elim false fun k => s.poisoned k 4096

/-- MIGRATION_COPY (R402, R403): an uncorrectable error in what it reads freezes the engine (R351, R373). -/
def execMigrationCopy (s : State) : Host.Outcome State Fault Refusal :=
  match s.copying? with
  | none => .next s
  | some m => .next (if s.copyPoisoned m then s.freezeMaster m.rim Master.migration else s.endMigration m)

end Sys2Proof.Machine
end

