-- ==== Sys2Proof/Machine/Integer.lean ====
section
/-! DEFINITION. Moves, integer arithmetic, compare, logic, shifts, bit fields and predicate logic (R82–R90). -/

namespace Sys2Proof.Machine

open Sys2Proof

/-! ### The results, as numbers -/

/-- The operations of R83. -/
inductive IntOp where | add | sub | mul | mulh | mad | min | max
  deriving DecidableEq, Repr

/-- The exact result of R83 before its one reduction. -/
def intExact (op : IntOp) (w : Nat) (x y z : Int) : Int :=
  match op with
  | .add => x + y
  | .sub => x - y
  | .mul => x * y
  | .mulh => Int.fdiv (x * y) (2 ^ w : Nat)
  | .mad => x * y + z
  | .min => min x y
  | .max => max x y

def aSigned : AType → Bool
  | .i32 | .i64 | .i32sat => true
  | _ => false
def iSigned : IType → Bool
  | .i32 | .i64 => true
  | _ => false

def clamp (lo hi t : Int) : Int := max lo (min hi t)

/-- The clamp of a .SAT type (R83). -/
def satOf (t : AType) (x : Int) : Int :=
  match t with
  | .i32sat => clamp (-(2 ^ 31)) (2 ^ 31 - 1) x
  | .n32sat => clamp 0 (2 ^ 32 - 1) x
  | _ => x

/-- Quotient and remainder of R71. -/
def divide (w : Nat) (x y : Int) : Int := if y = 0 then (2 ^ w : Nat) - 1 else Int.tdiv x y
def remainder (x y : Int) : Int := if y = 0 then x else Int.tmod x y

/-- A relation of R38. -/
def relHolds (r : Rel) (x y : Int) : Bool :=
  match r with
  | .eq => x = y
  | .ne => x ≠ y
  | .lt => x < y
  | .le => x ≤ y

/-- The logic and shift operations of R87. -/
inductive LogOp where | and | or | xor | andn | shl | shr | sar | rotl
  deriving DecidableEq, Repr

def logic (op : LogOp) (w a b : Nat) : Nat :=
  let c := b % w
  match op with
  | .and => a &&& b
  | .or => a ||| b
  | .xor => a ^^^ b
  | .andn => a &&& (2 ^ w - 1 - b % 2 ^ w)
  | .shl => a * 2 ^ c % 2 ^ w
  | .shr => a / 2 ^ c
  | .sar => wrap w (Int.fdiv (signed w a) (2 ^ c : Nat))
  | .rotl => rotl w a c

/-- BFE and BFI (R88): pos, and the effective length. -/
def fieldPos (b : Nat) : Nat := bits b 0 5
def fieldLen (b : Nat) : Nat := min (bits b 8 6) (32 - fieldPos b)

def bfeOf (sg : Sgn) (a b : Nat) : Nat :=
  let n := fieldLen b
  let f := a / 2 ^ fieldPos b % 2 ^ n
  match sg with
  | .uns => f
  | .sgn => if n = 0 then 0 else wrap 32 (signed n f)

def bfiOf (d a b : Nat) : Nat :=
  let msk := (2 ^ fieldLen b - 1) * 2 ^ fieldPos b
  (d &&& (2 ^ 32 - 1 - msk)) ||| (a * 2 ^ fieldPos b &&& msk)

/-- The BITOP operations (R89). -/
def clzOf (w a : Nat) : Nat := if a = 0 then w else w - 1 - Nat.log2 a
def ctzOf (a : Nat) : Nat := ((List.range 32).find? fun k => bit a k).getD 32
def brevOf (a : Nat) : Nat := ((List.range 32).map fun i => if bit a (31 - i) then 2 ^ i else 0).sum
def bswapOf (a : Nat) : Nat := ((List.range 4).map fun i => bits a (8 * (3 - i)) 8 * 2 ^ (8 * i)).sum

/-- PERM's byte i (R89). -/
def permByte (a b i : Nat) : Nat :=
  let s := bits b (4 * i) 4
  let y := bits a (8 * (s % 4)) 8
  if bit s 3 then 0 else if bit s 2 then (if bit y 7 then 0xFF else 0) else y

def permOf (a b : Nat) : Nat := ((List.range 4).map fun i => permByte a b i * 2 ^ (8 * i)).sum

/-- IDP4 (R84). -/
def idp4Of (g : Idp4Sign) (d a b : Nat) : Nat :=
  let sa := g = .i8i8 || g = .i8n8
  let sb := g = .i8i8 || g = .n8i8
  let byteOf (sg : Bool) (n i : Nat) : Int := if sg then signed 8 (bits n (8 * i) 8) else (bits n (8 * i) 8 : Int)
  wrap 32 ((d : Int) + ((List.range 4).map fun i => byteOf sa a i * byteOf sb b i).sum)

def plopEval (o : PlopOp) (a b : Bool) : Bool :=
  match o with
  | .and => a && b
  | .or => a || b
  | .xor => a != b
  | .andn => a && !b
  | .orn => a || !b
  | .not => !a
  | .copy => a

/-! ### The shapes of the entries -/

/-- A short instruction with one destination of a width. -/
def Ctx.alu (x : Ctx) (w64 : Bool) (d : Operand) (f : Nat → Nat) : Res :=
  x.write (x.out d fun l => wordsOf w64 (f l))

/-- An integer instruction of R83 with a type of codes 0–5. -/
def Ctx.arith (x : Ctx) (op : IntOp) (t : AType) (d a b : Operand) : Res :=
  let w := if t.is64 then 64 else 32
  x.alu t.is64 d fun l =>
    wrap w (satOf t (intExact op w (x.int t.is64 (aSigned t) a l) (x.int t.is64 (aSigned t) b l) (x.int t.is64 (aSigned t) d l)))

/-- The same with codes 0–3. -/
def Ctx.arith4 (x : Ctx) (op : IntOp) (t : IType) (d a b : Operand) : Res :=
  let w := if t.is64 then 64 else 32
  x.alu t.is64 d fun l =>
    wrap w (intExact op w (x.int t.is64 (iSigned t) a l) (x.int t.is64 (iSigned t) b l) 0)

/-- IDIV and IREM are long-latency with no path (R83). -/
def Ctx.division (x : Ctx) (t : IType) (d : Operand) (f : Nat → Nat) : Res :=
  x.later x.s (x.out d fun l => wordsOf t.is64 (f l))

def Ctx.logical (x : Ctx) (op : LogOp) (w : Wide) (d a b : Operand) : Res :=
  x.alu w.is64 d fun l => logic op (if w.is64 then 64 else 32) (x.val w.is64 a l) (x.val w.is64 b l)

def Ctx.bitop (x : Ctx) (f : Nat → Nat) (d a : Operand) : Res := x.alu false d fun l => f (x.val false a l)

/-! ### The instructions -/

/-- NOP (R82). -/
def execNop (s : State) : Host.Outcome State Fault Refusal := issue .nop s fun x => .done x.s

/-- MOV (R82). -/
def execMov (w : Wide) (d a : Operand) (s : State) : Host.Outcome State Fault Refusal :=
  issue (.mov w d a) s fun x => x.alu w.is64 d fun l => x.val w.is64 a l

/-- SEL (R82): on the scalar pipe the predicate is the lowest lane's. -/
def execSel (p : PredSel) (d a b : Operand) (s : State) : Host.Outcome State Fault Refusal :=
  issue (.sel p d a b) s fun x => x.alu false d fun l => x.val false (if x.g.pred p.p.val l != p.inv then a else b) l

/-- IADD (R83). -/
def execIadd (t : AType) (d a b : Operand) (s : State) : Host.Outcome State Fault Refusal :=
  issue (.iadd t d a b) s fun x => x.arith .add t d a b

/-- ISUB (R83). -/
def execIsub (t : AType) (d a b : Operand) (s : State) : Host.Outcome State Fault Refusal :=
  issue (.isub t d a b) s fun x => x.arith .sub t d a b

/-- IMUL (R83). -/
def execImul (t : IType) (d a b : Operand) (s : State) : Host.Outcome State Fault Refusal :=
  issue (.imul t d a b) s fun x => x.arith4 .mul t d a b

/-- IMULH (R83). -/
def execImulh (t : IType) (d a b : Operand) (s : State) : Host.Outcome State Fault Refusal :=
  issue (.imulh t d a b) s fun x => x.arith4 .mulh t d a b

/-- IMAD (R83). -/
def execImad (t : AType) (d a b : Operand) (s : State) : Host.Outcome State Fault Refusal :=
  issue (.imad t d a b) s fun x => x.arith .mad t d a b

/-- IDIV (R71, R83). -/
def execIdiv (t : IType) (d a b : Operand) (s : State) : Host.Outcome State Fault Refusal :=
  issue (.idiv t d a b) s fun x =>
    let w := if t.is64 then 64 else 32
    x.division t d fun l => wrap w (divide w (x.int t.is64 (iSigned t) a l) (x.int t.is64 (iSigned t) b l))

/-- IREM (R71, R83). -/
def execIrem (t : IType) (d a b : Operand) (s : State) : Host.Outcome State Fault Refusal :=
  issue (.irem t d a b) s fun x =>
    let w := if t.is64 then 64 else 32
    x.division t d fun l => wrap w (remainder (x.int t.is64 (iSigned t) a l) (x.int t.is64 (iSigned t) b l))

/-- IMIN (R83). -/
def execImin (t : IType) (d a b : Operand) (s : State) : Host.Outcome State Fault Refusal :=
  issue (.imin t d a b) s fun x => x.arith4 .min t d a b

/-- IMAX (R83). -/
def execImax (t : IType) (d a b : Operand) (s : State) : Host.Outcome State Fault Refusal :=
  issue (.imax t d a b) s fun x => x.arith4 .max t d a b

/-- ICMP (R85). -/
def execIcmp (c : ICond) (pd : PredReg) (a b : Operand) (s : State) : Host.Outcome State Fault Refusal :=
  issue (.icmp c pd a b) s fun x =>
    x.write (x.predOut pd.val fun l => relHolds c.rel (x.int c.w64 (!c.uns) a l) (x.int c.w64 (!c.uns) b l))

/-- LEA (R86). -/
def execLea (k : Shift) (d a b : Operand) (s : State) : Host.Outcome State Fault Refusal :=
  issue (.lea k d a b) s fun x =>
    x.alu true d fun l => ((x.src64 a l).toNat + (sext64 (x.src b l)).toNat * 2 ^ k.val) % 2 ^ 64

/-- AND (R87). -/
def execLand (w : Wide) (d a b : Operand) (s : State) : Host.Outcome State Fault Refusal :=
  issue (.land w d a b) s fun x => x.logical .and w d a b

/-- OR (R87). -/
def execLor (w : Wide) (d a b : Operand) (s : State) : Host.Outcome State Fault Refusal :=
  issue (.lor w d a b) s fun x => x.logical .or w d a b

/-- XOR (R87). -/
def execLxor (w : Wide) (d a b : Operand) (s : State) : Host.Outcome State Fault Refusal :=
  issue (.lxor w d a b) s fun x => x.logical .xor w d a b

/-- ANDN (R87). -/
def execLandn (w : Wide) (d a b : Operand) (s : State) : Host.Outcome State Fault Refusal :=
  issue (.landn w d a b) s fun x => x.logical .andn w d a b

/-- SHL (R87). -/
def execShl (w : Wide) (d a b : Operand) (s : State) : Host.Outcome State Fault Refusal :=
  issue (.shl w d a b) s fun x => x.logical .shl w d a b

/-- SHR (R87). -/
def execShr (w : Wide) (d a b : Operand) (s : State) : Host.Outcome State Fault Refusal :=
  issue (.shr w d a b) s fun x => x.logical .shr w d a b

/-- SAR (R87). -/
def execSar (w : Wide) (d a b : Operand) (s : State) : Host.Outcome State Fault Refusal :=
  issue (.sar w d a b) s fun x => x.logical .sar w d a b

/-- ROTL (R87). -/
def execRotl (w : Wide) (d a b : Operand) (s : State) : Host.Outcome State Fault Refusal :=
  issue (.rotl w d a b) s fun x => x.logical .rotl w d a b

/-- BFE (R88). -/
def execBfe (sg : Sgn) (d a b : Operand) (s : State) : Host.Outcome State Fault Refusal :=
  issue (.bfe sg d a b) s fun x => x.alu false d fun l => bfeOf sg (x.val false a l) (x.val false b l)

/-- BFI (R88). -/
def execBfi (d a b : Operand) (s : State) : Host.Outcome State Fault Refusal :=
  issue (.bfi d a b) s fun x => x.alu false d fun l => bfiOf (x.val false d l) (x.val false a l) (x.val false b l)

/-- POPC (R89). -/
def execPopc (d a : Operand) (s : State) : Host.Outcome State Fault Refusal :=
  issue (.popc d a) s fun x => x.bitop (popcount 32) d a

/-- CLZ (R89). -/
def execClz (d a : Operand) (s : State) : Host.Outcome State Fault Refusal :=
  issue (.clz d a) s fun x => x.bitop (clzOf 32) d a

/-- CTZ (R89). -/
def execCtz (d a : Operand) (s : State) : Host.Outcome State Fault Refusal :=
  issue (.ctz d a) s fun x => x.bitop ctzOf d a

/-- BREV (R89). -/
def execBrev (d a : Operand) (s : State) : Host.Outcome State Fault Refusal :=
  issue (.brev d a) s fun x => x.bitop brevOf d a

/-- BSWAP (R89). -/
def execBswap (d a : Operand) (s : State) : Host.Outcome State Fault Refusal :=
  issue (.bswap d a) s fun x => x.bitop bswapOf d a

/-- PERM (R89). -/
def execPerm (d a b : Operand) (s : State) : Host.Outcome State Fault Refusal :=
  issue (.perm d a b) s fun x => x.alu false d fun l => permOf (x.val false a l) (x.val false b l)

/-- PLOP (R90). -/
def execPlop (o : PlopOp) (pd pa pb : PredReg) (s : State) : Host.Outcome State Fault Refusal :=
  issue (.plop o pd pa pb) s fun x => x.write (x.predOut pd.val fun l => plopEval o (x.g.pred pa.val l) (x.g.pred pb.val l))

/-- IDP4 (R84). -/
def execIdp4 (g : Idp4Sign) (d a b : Operand) (s : State) : Host.Outcome State Fault Refusal :=
  issue (.idp4 g d a b) s fun x => x.alu false d fun l => idp4Of g (x.val false d l) (x.val false a l) (x.val false b l)

end Sys2Proof.Machine
end

