-- ==== Sys2Proof/Machine/March.lean ====
section
/-! DEFINITION. Marched visibility (R344–R347). -/

namespace Sys2Proof.Machine

open Sys2Proof

/-- A march descriptor (R344). -/
structure MarchDesc where
  bytes : List Byte

def MarchDesc.f (d : MarchDesc) (off n : Nat) : Nat := fieldAt d.bytes off n
def MarchDesc.grid (d : MarchDesc) : Nat := d.f 0 8
def MarchDesc.hash (d : MarchDesc) : Nat := d.f 8 8
def MarchDesc.origin (d : MarchDesc) (k : Nat) : Nat := d.f (16 + 4 * k) 4
def MarchDesc.cell (d : MarchDesc) : Nat := d.f 28 4
def MarchDesc.dt (d : MarchDesc) : Nat := d.f 32 4
def MarchDesc.maxSteps (d : MarchDesc) : Nat := d.f 36 4
def MarchDesc.first (d : MarchDesc) : Nat := d.f 40 4
def MarchDesc.count (d : MarchDesc) : Nat := d.f 44 4
def MarchDesc.ring (d : MarchDesc) : Nat := d.f 48 4
def MarchDesc.nbuf (d : MarchDesc) : Nat := d.f 52 1
def MarchDesc.levels (d : MarchDesc) : Nat := d.f 53 1
def MarchDesc.log2t (d : MarchDesc) : Nat := d.f 54 1
/-- Resolution of a level. -/
def MarchDesc.res (d : MarchDesc) (l : Nat) : Nat := d.f 56 2 + l * d.f 58 2

/-- Finite and above 0. -/
def positive (c : Nat) : Bool :=
  match fixOf c with
  | some n => decide (0 < n)
  | none => false

/-- The byte index of the first field that breaks R344. -/
def MarchDesc.bad (d : MarchDesc) : Option Nat :=
  if d.grid % 128 ≠ 0 then some 0
  else if d.hash % 128 ≠ 0 then some 8
  else if !positive d.cell then some 28
  else if !positive d.dt then some 32
  else if d.maxSteps = 0 || 65536 < d.maxSteps then some 36
  else if 2 ^ 24 < d.count then some 44
  else if d.ring % 16 ≠ 0 then some 48
  else if d.nbuf < 2 || 16 < d.nbuf then some 52
  else if d.levels = 0 || 16 < d.levels then some 53
  else if d.log2t < 4 || 20 < d.log2t then some 54
  else if d.f 55 1 ≠ 0 then some 55
  else if d.f 56 2 = 0 || 1023 < d.f 56 2 then some 56
  else if 1023 < d.res (d.levels - 1) then some 58
  else if d.f 60 4 ≠ 0 then some 60
  else none

/-- MARCH (R345). -/
def execMarch (a : Operand) (s : State) : Host.Outcome State Fault Refusal :=
  issue (.march a) s fun x =>
    let addr := x.addrOf a
    if !x.anyActive then .done x.s
    else if (x.g.portOf .msample).isNone then .fault (queueFault .queueUnbound 0)
    else if addr % 64 ≠ 0 then .fault (onceTrap .align (some addr))
    else match x.s.clu x.g addr 0 64 with
      | none => .fault (onceTrap .cluBounds none)
      | some k =>
        let d : MarchDesc := ⟨x.s.bytesAt k 64⟩
        if (x.s.clu x.g d.ring 0 (d.nbuf * 2304)).isNone then .fault (onceTrap .cluBounds none)
        else match d.bad with
          | some n => .fault { trap .formatBlock with tval := BitVec.ofNat 32 n }
          | none =>
            let s := x.s.harden x.g.id x.p.id 3
            x.counted { s with nextId := s.nextId + 1 } (.march d.bytes 0 s.nextId d.first 0 x.g.rpool)

/-! ### Samples (R346) -/

/-- One sample: slot, t and the point. -/
structure Sample where
  slot : Nat
  t : Nat
  p : List Nat

/-- t of step k: round_rne(tmin + k × DT). -/
def stepTime (r : RayRec) (d : MarchDesc) (k : Nat) : Nat :=
  (fp32.sum .rne false [.val (fp32.decode r.tmin), mulVal (.fin false k 0) (fp32.decode d.dt)]).1

/-- The point at t, each component rounded once. -/
def pointAt (r : RayRec) (t : Nat) : List Nat :=
  (r.origin.zip r.dir).map fun e =>
    (fp32.sum .rne false [.val (fp32.decode e.1), mulVal (fp32.decode t) (fp32.decode e.2)]).1

/-- The displacement of a point from the grid's origin along an axis, in units of 2^−149. -/
def MarchDesc.disp (d : MarchDesc) (p : List Nat) (k : Nat) : Option Int :=
  match fixOf (p.getD k 0), fixOf (d.origin k) with
  | some x, some o => some (x - o)
  | _, _ => none

/-- The cell of a point, when it lies in the grid; a point or origin that is no number lies in no cell. -/
def MarchDesc.cellOf (d : MarchDesc) (p : List Nat) : Option (List Nat) :=
  match fixOf d.cell with
  | none => none
  | some c =>
    [0, 1, 2].mapM fun k => (d.disp p k).bind fun x =>
      let n := Int.fdiv x c
      if 0 ≤ n && n ≤ 127 then some n.toNat else none

/-- The occupancy bit of a cell. -/
def occupied (s : State) (g : Group) (d : MarchDesc) (c : List Nat) : Except Stop (State × Bool) :=
  let n := c.getD 0 0 + 128 * c.getD 1 0 + 16384 * c.getD 2 0
  match readNum s g (d.grid + n / 8) 1 with
  | .error e => .error e
  | .ok (s, b) => .ok (s, bit b (n % 8))

/-- The next sample of a ray from step k on. `fuel` is the number of steps left. -/
def nextStep (s : State) (g : Group) (d : MarchDesc) (r : RayRec) (slot k fuel : Nat) : Except Stop (State × Option (Nat × Sample)) :=
  match fuel with
  | 0 => .ok (s, none)
  | n + 1 =>
    let t := stepTime r d k
    if fp32.less r.tmax t then .ok (s, none)
    else
      let p := pointAt r t
      match d.cellOf p with
      | none => nextStep s g d r slot (k + 1) n
      | some c =>
        match occupied s g d c with
        | .error e => .error e
        | .ok (s, true) => .ok (s, some (k, ⟨slot, t, p⟩))
        | .ok (s, false) => nextStep s g d r slot (k + 1) n

/-- The next sample from a slot and step on: where it stands, and the sample. `fuel` is the number of slots left. -/
def nextSample (s : State) (g : Group) (d : MarchDesc) (pool : DWord) (slot k fuel : Nat) :
    Except Stop (State × Option (Nat × Nat × Sample)) :=
  match fuel with
  | 0 => .ok (s, none)
  | n + 1 =>
    match readPool s g pool with
    | .error e => .error e
    | .ok (s, p) =>
      if p.cap ≤ slot then
        match dropLane s g pool p with
        | .error e => .error e
        | .ok s => nextSample s g d pool (slot + 1) 0 n
      else match readRay s g pool slot with
        | .error e => .error e
        | .ok (s, r) =>
          if r.degenerate then nextSample s g d pool (slot + 1) 0 n
          else match nextStep s g d r slot k (d.maxSteps - k) with
            | .error e => .error e
            | .ok (s, some (k', x)) => .ok (s, some (slot, k', x))
            | .ok (s, none) => nextSample s g d pool (slot + 1) 0 n

/-- Slots of the MARCH from one on. -/
def MarchDesc.slotsLeft (d : MarchDesc) (slot : Nat) : Nat := d.first + d.count - slot

/-- Up to `n` samples, and where the next one stands, if there is one. -/
def takeSamples (s : State) (g : Group) (d : MarchDesc) (pool : DWord) (slot k n : Nat) :
    Except Stop (State × List Sample × Option (Nat × Nat)) :=
  match nextSample s g d pool slot k (d.slotsLeft slot) with
  | .error e => .error e
  | .ok (s, none) => .ok (s, [], none)
  | .ok (s, some (slot', k', x)) =>
    match n with
    | 0 => .ok (s, [], some (slot', k'))
    | m + 1 =>
      match takeSamples s g d pool slot' (k' + 1) m with
      | .error e => .error e
      | .ok (s, xs, e) => .ok (s, x :: xs, e)

/-! ### Features (R346) -/

/-- A corner along one axis: its coordinate and weight over 128 × CELL. -/
def axisCorners (x c res : Nat) : List (Nat × Nat) :=
  let q := x * res
  [(q / (128 * c), 128 * c - q % (128 * c)), (q / (128 * c) + 1, q % (128 * c))]

/-- The eight corners of a sample at a level: coordinates and weight over (128 × CELL)³. -/
def MarchDesc.corners (d : MarchDesc) (p : List Nat) (l : Nat) : List ((Nat × Nat × Nat) × Nat) :=
  let c := ((fixOf d.cell).getD 1).toNat
  let ax (k : Nat) : List (Nat × Nat) := axisCorners ((d.disp p k).getD 0).toNat c (d.res l)
  (ax 2).flatMap fun z => (ax 1).flatMap fun y => (ax 0).map fun x => ((x.1, y.1, z.1), x.2 * y.2 * z.2)

/-- The entry words of the corners of a level. -/
def cornerWords (s : State) (g : Group) (d : MarchDesc) (l : Nat) (cs : List ((Nat × Nat × Nat) × Nat)) :
    Except Stop (State × List (Nat × Nat)) :=
  match cs with
  | [] => .ok (s, [])
  | (c, w) :: t =>
    let h := hashOf c.1 c.2.1 c.2.2 % 2 ^ d.log2t
    match readNum s g (d.hash + l * 4 * 2 ^ d.log2t + 4 * h) 4 with
    | .error e => .error e
    | .ok (s, v) =>
      match cornerWords s g d l t with
      | .error e => .error e
      | .ok (s, ws) => .ok (s, (w, v) :: ws)

/-- A value is −0. -/
def FVal.isNegZero : FVal → Bool
  | .fin true 0 _ => true
  | _ => false

/-- A corner's addend is −0: a weighted −0, or a negative entry of weight 0 (R60). An infinite or NaN entry of weight 0 counts as a zero of
its sign (log 76). -/
def negCorner (e : Nat × Nat) (j : Nat) : Bool :=
  if e.1 = 0 then bit e.2 (16 * j + 15) else (bf16.decode (bits e.2 (16 * j) 16)).isNegZero

/-- A feature: the exact weighted sum, rounded once to BF16; a sum of negative zeros alone is −0 (R60). -/
def featureOf (d : MarchDesc) (ws : List (Nat × Nat)) (j : Nat) : Nat :=
  let vs := (ws.filter fun e => e.1 ≠ 0).map fun e => (e.1, bf16.decode (bits e.2 (16 * j) 16))
  let infs := vs.filter fun e => match e.2 with
    | .inf _ => true
    | _ => false
  if vs.any (fun e => e.2.isNan) || (infs.any (fun e => e.2 = .inf true) && infs.any fun e => e.2 = .inf false) then 0x7FC0
  else match infs with
    | (_, .inf n) :: _ => bf16.signed n bf16.infCode
    | _ =>
      let t := (vs.map fun e => (e.1 : Int) * finUnits (-133) e.2).sum
      let den := (128 * ((fixOf d.cell).getD 1).toNat) ^ 3
      if t = 0 then (if ws.all fun e => negCorner e j then 0x8000 else 0) else (bf16.round .rne (t < 0) t.natAbs (den * 2 ^ 133)).1

/-- The 64 bytes of a sample's row. -/
def sampleRow (s : State) (g : Group) (d : MarchDesc) (p : List Nat) (levels : List Nat) : Except Stop (State × List Byte) :=
  match levels with
  | [] => .ok (s, [])
  | l :: t =>
    match cornerWords s g d l (d.corners p l) with
    | .error e => .error e
    | .ok (s, ws) =>
      match sampleRow s g d p t with
      | .error e => .error e
      | .ok (s, bs) => .ok (s, bytesOf 2 (featureOf d ws 0) ++ bytesOf 2 (featureOf d ws 1) ++ bs)

/-- The rows of a batch. -/
def sampleRows (s : State) (g : Group) (d : MarchDesc) (xs : List Sample) : Except Stop (State × List (List Byte)) :=
  match xs with
  | [] => .ok (s, [])
  | x :: t =>
    match sampleRow s g d x.p (List.range d.levels) with
    | .error e => .error e
    | .ok (s, bs) =>
      match sampleRows s g d t with
      | .error e => .error e
      | .ok (s, rs) => .ok (s, (bs ++ List.replicate (64 - bs.length) 0) :: rs)

/-- The 2,304 bytes of a batch (R347). -/
def batchBytes (xs : List Sample) (rows : List (List Byte)) : List Byte :=
  ((List.range 32).flatMap fun i => rows.getD i (List.replicate 64 0)) ++
  ((List.range 32).flatMap fun i => match xs[i]? with
    | some x => bytesOf 4 x.slot ++ bytesOf 4 x.t
    | none => bytesOf 4 0xFFFFFFFF ++ bytesOf 4 0)

/-! ### MARCH_BATCH (R345, R347) -/

/-- A running MARCH. -/
structure March where
  g : Group
  f : Flight
  d : MarchDesc
  popped : Nat
  order : Nat
  slot : Nat
  step : Nat
  pool : DWord

/-- The MARCHes of live groups. -/
def State.marches (s : State) : List March :=
  s.groups.flatMap fun g =>
    if !s.engineLive g .ray then []
    else g.flights.filterMap fun f => match f.work with
      | .march desc popped order slot step pool => if f.done then none else some ⟨g, f, ⟨desc⟩, popped, order, slot, step, pool⟩
      | _ => none

/-- Of each marching unit, the MARCH accepted first (R345). -/
def State.marchHeads (s : State) : List March :=
  let ms := s.marches
  ms.filter fun m => !m.f.stopped && ms.all fun n =>
    n.g.die ≠ m.g.die || n.g.core / 4 ≠ m.g.core / 4 || decide (m.order ≤ n.order)

/-- The ring has room for the next batch (R347). -/
def March.room (m : March) : Bool :=
  let k := m.f.progress
  m.g.empty || decide (k + 2 ≤ m.d.nbuf + m.popped)

/-- The entry of a batch. -/
def March.entry (m : March) (count : Nat) (last : Bool) : Entry :=
  let w := m.f.progress % m.d.nbuf + 16 * count + 2 ^ 31 * last.toNat
  { words := List.replicate 32 (BitVec.ofNat 32 w), mask := 1, note := m.f.id + 1 }

/-- A batch cannot be formed: an engine fault (R345), or, where another package denies an access, the end of the MARCH, which is not
retried (R407). -/
def State.marchStop (s : State) (m : March) (t : Trap) : State :=
  if t.denied then s.unitDenied m.g m.f t true else s.stopFlight m.g m.f t

/-- MARCH_BATCH (R347). -/
def execMarchBatch (s : State) : Host.Outcome State Fault Refusal :=
  match s.pick (s.marchHeads.filter March.room) with
  | none => .next s
  | some m =>
    match takeSamples s m.g m.d m.pool m.slot m.step 32 with
    | .error none => .next s
    | .error (some t) => .next (s.marchStop m t)
    | .ok (s', xs, more) =>
      match sampleRows s' m.g m.d xs with
      | .error none => .next s
      | .error (some t) => .next (s.marchStop m t)
      | .ok (s', rows) =>
        match m.g.enginePush .msample m.f.id (m.entry xs.length more.isNone) with
        | none => .next s
        | some _ =>
          let s' := s'.cluWrite m.g m.f m.d.ring (2304 * (m.f.progress % m.d.nbuf)) (batchBytes xs rows)
          let s' := s'.modGroup m.g.id fun g =>
            let g := g.modFlight m.f.id fun (f : Flight) => { f with work := match f.work with
              | .march desc popped order _ _ pool => .march desc popped order ((more.map fun e => e.1).getD 0) ((more.map fun e => e.2).getD 0) pool
              | w => w }
            (g.enginePush .msample m.f.id (m.entry xs.length more.isNone)).getD g
          .next (s'.unitDone m.g m.f more.isNone)

end Sys2Proof.Machine
end

