-- ==== Sys2Proof/Machine/Shake.lean ====
section
/-! DEFINITION. SHAKE256, as FIPS 202 gives it, with which boot measures its images (R441). -/

namespace Sys2Proof.Machine

open Sys2Proof

/-- The 25 lanes of the permutation's state; lane (x, y) stands at x + 5y. -/
abbrev Lanes := List (BitVec 64)

def Lanes.at (a : Lanes) (x y : Nat) : BitVec 64 := a.getD (x % 5 + 5 * (y % 5)) 0

/-- A state given lane by lane. -/
def Lanes.of (f : Nat → Nat → BitVec 64) : Lanes := (List.range 25).map fun i => f (i % 5) (i / 5)

/-- The rotation of each lane. -/
def rhoOffsets : List Nat := [0, 1, 62, 28, 27, 36, 44, 6, 55, 20, 3, 10, 43, 25, 39, 41, 45, 15, 21, 8, 18, 2, 61, 56, 14]

/-- The constants of the 24 rounds. -/
def roundConstants : List (BitVec 64) :=
  [0x0000000000000001, 0x0000000000008082, 0x800000000000808A, 0x8000000080008000, 0x000000000000808B, 0x0000000080000001,
   0x8000000080008081, 0x8000000000008009, 0x000000000000008A, 0x0000000000000088, 0x0000000080008009, 0x000000008000000A] ++
  [0x000000008000808B, 0x800000000000008B, 0x8000000000008089, 0x8000000000008003, 0x8000000000008002, 0x8000000000000080,
   0x000000000000800A, 0x800000008000000A, 0x8000000080008081, 0x8000000000008080, 0x0000000080000001, 0x8000000080008008]

/-- One round: theta, rho and pi, chi, iota. -/
def keccakRound (a : Lanes) (rc : BitVec 64) : Lanes :=
  let c := (List.range 5).map fun x => (List.range 5).foldl (fun v y => v ^^^ a.at x y) 0
  let d := (List.range 5).map fun x => c.getD ((x + 4) % 5) 0 ^^^ (c.getD ((x + 1) % 5) 0).rotateLeft 1
  let t := Lanes.of fun x y => a.at x y ^^^ d.getD x 0
  let b := Lanes.of fun x y => (t.at (x + 3 * y) x).rotateLeft (rhoOffsets.getD ((x + 3 * y) % 5 + 5 * x) 0)
  let e := Lanes.of fun x y => b.at x y ^^^ (~~~(b.at (x + 1) y) &&& b.at (x + 2) y)
  e.set 0 (e.at 0 0 ^^^ rc)

def keccakF (a : Lanes) : Lanes := roundConstants.foldl keccakRound a

/-- The rate of SHAKE256, in bytes. -/
def shakeRate : Nat := 136

/-- One block of the padded input is absorbed. -/
def absorb (a : Lanes) (block : List Byte) : Lanes :=
  keccakF (Lanes.of fun x y => a.at x y ^^^ (if x + 5 * y < 17 then BitVec.ofNat 64 (fieldAt block (8 * (x + 5 * y)) 8) else 0))

/-- The input with its suffix and padding: whole blocks. -/
def shakePad (bs : List Byte) : List Byte :=
  let n := shakeRate - 1 - bs.length % shakeRate
  if n = 0 then bs ++ [0x9F] else bs ++ [0x1F] ++ List.replicate (n - 1) 0 ++ [0x80]

/-- The blocks of an input, absorbed in turn. `fuel` bounds their number. -/
def absorbAll (a : Lanes) (bs : List Byte) (fuel : Nat) : Lanes :=
  match fuel with
  | 0 => a
  | k + 1 => if bs.isEmpty then a else absorbAll (absorb a (bs.take shakeRate)) (bs.drop shakeRate) k

/-- SHAKE256 with 512 bits of output. -/
def shake256 (bs : List Byte) : List Byte :=
  let p := shakePad bs
  ((absorbAll (List.replicate 25 0) p p.length).flatMap fun l => bytesOf 8 l.toNat).take 64

end Sys2Proof.Machine
end

