-- ==== Sys2Proof/Machine/Mgmt.lean ====
section
/-! DEFINITION. The control units, resets, the management port, clocks, power and patrol scrub (R375, R439–R450). -/

namespace Sys2Proof.Machine

open Sys2Proof

/-! ### HEARTBEAT and STANDBY_TAKEOVER (R439) -/

/-- HEARTBEAT (R439): rim die 0's control unit, unless it is frozen. -/
def execHeartbeat (s : State) : Host.Outcome State Fault Refusal :=
  if s.frozen.contains (48, .control) then .next s else .next { s with heartbeat := s.ns }

/-- Rim die 0's control unit is frozen, or has missed its heartbeat for 100 µs. -/
def State.standbyDue (s : State) : Bool :=
  s.active = 48 && (s.frozen.contains (48, .control) || decide (s.heartbeat + 100000 ≤ s.ns))

/-- The graphs being walked end FAULTED. -/
def State.endGraphs (s : State) : Except Stop State :=
  let ls := s.graphs.filterMap fun g => s.launch? g.launch
  (State.closeLaunches s 4 ls).map fun s => ls.foldl (fun s l => s.finishLaunch l.id 4) { s with graphs := [] }

/-- The standby's FREEZE record and black-box event, whose data the spec does not give (log 4). -/
def State.reportTakeover (s : State) : State :=
  let s := s.writeRecord 0 { freezeRecord 48 .control 0xFF with writer := some 50 }
  let lo := s.freeWord
  let hi := lo.2.freeWord
  hi.2.boxEvent 50 2 0x40 (join64 lo.1 hi.1)

/-- STANDBY_TAKEOVER (R439): tables and accepted launches carry over; children still waiting are accepted by the standby. While a
completion word waits at the walker (R403) the takeover waits. -/
def execStandbyTakeover (s : State) : Host.Outcome State Fault Refusal :=
  if !s.standbyDue then .next s
  else match { s with active := 50 }.endGraphs with
    | .ok s' => .next s'.reportTakeover
    | .error e => .next (s.hwFail e fun _ => s)

/-! ### COLD_RESET (R374, R383, R388, R395, R440, R441) -/

/-- Every rim die has a live router beside it; otherwise boot stops (R383). -/
def Identity.rimsReached (p : Identity) : Bool := [48, 49, 50, 51].all fun d => (attached d).any p.routerLive

/-- The images that an attempt verifies, in their order, before one fails (R441). -/
def imagesVerified (n : Nat) : Nat := ([0, 1, 2].takeWhile fun k => Config.imageVerifies n k).length

/-- M after the first images: M(k) := SHAKE256(M(k − 1) ‖ SHAKE256(image k)), from M0 of 64 zero bytes (R441). -/
def measurement (m : Nat) : List Byte :=
  match m with
  | 0 => List.replicate 64 0
  | k + 1 => shake256 (measurement k ++ shake256 ((List.range (Config.imageLength k)).map (Config.imageByte k)))

/-- The identity record passes its own checks (R440). -/
def Identity.sound (p : Identity) : Bool := p.count = popcount 48 p.live && (p.live &&& p.pass) = 0

/-- One rim die's boot: its images, the identity record, its self-test and the reach of the rim dies (R383, R440, R441). -/
def Identity.boots (p : Identity) (n : Nat) : Bool := imagesVerified n = 3 && p.sound && Config.selfTest n && p.rimsReached

/-- The error that boot leaves at the management port when it stops at the identity record or at a rim die that it cannot reach (R383, R440):
a message of STATUS 3 that answers no request, since the spec gives it no format (log 12). -/
def bootError : MgmtMessage := { op := 0, status := 3, seq := 0 }

/-- Boot's route: the first of the 18 legal ones that passes live routers only (R388; log 12). -/
def Identity.bootRoute (p : Identity) (src dst : Nat) : Nat :=
  (((List.range 32).filter fun e => bits e 1 2 ≠ 3 && bits e 3 2 ≠ 3).find? fun e => (p.routeDies src dst e).all p.routerLive).getD 0

/-- A die's route table at boot: entries other than 0. -/
def Identity.bootRoutes (p : Identity) (src : Nat) : Store 8 :=
  (List.range 52).foldl (fun st dst =>
    let e := BitVec.ofNat 8 (p.bootRoute src dst)
    (List.range 4).foldl (fun st c => swrite st (4 * dst + c) e) st) []

/-- Boot's per-die heaps: one for each live render die. -/
def Identity.bootRegions (p : Identity) : List RegionEntry :=
  Machine.bootRegions.zipIdx.map fun e => if p.dieLive e.2 then e.1 else {}

/-- The machine after boot: rim die 2 repeats the sequence when rim die 0 fails; the part and what waits outside stay. A boot that
stops leaves the management port alone answering (log 12). -/
def State.coldBoot (s : State) : State :=
  let n := s.bootCount.toNat
  let first := s.ident.boots (2 * n)
  let booted := first || s.ident.boots (2 * n + 1)
  { State.reset with
    ident := s.ident, regions := s.ident.bootRegions,
    dies := (List.range 52).map fun d => { routes := s.ident.bootRoutes d },
    bootCount := s.bootCount + 1, booted, measured := if booted then 3 else imagesVerified (2 * n + 1),
    active := if first then 48 else 50, tick := s.tick + 1, agenda := s.agenda, mgmtIn := s.mgmtIn,
    mgmtOut := if s.ident.sound && s.ident.rimsReached then s.mgmtOut else s.mgmtOut ++ [bootError] }

/-- COLD_RESET (R441). -/
def execColdReset (s : State) : Host.Outcome State Fault Refusal := .next s.coldBoot

/-! ### WARM_RESET (R374, R441, R450) -/

/-- A die's own state after a warm reset: its route table is built again (R441), and its black box is kept (R374). -/
def Die.warm (d : Die) (now : Nat) (routes : Store 8) : Die := { box := d.box, reset := now, routes }

/-- What a die held is gone: its groups, translations, cached lines, mappings and frozen masters (R373). -/
def State.clearDie (s : State) (d : Nat) : State :=
  let gone := (s.groups.filter fun (g : Group) => g.die = d).map fun g => g.id
  { s with groups := s.groups.filter fun g => g.die ≠ d,
           workgroups := s.workgroups.filter fun w => w.die ≠ d || w.saved,
           tlb := s.tlb.filter fun t => t.die ≠ d,
           walks := s.walks.filter fun e => e.die ≠ d,
           l2 := s.l2.filter fun e => e.die ≠ d,
           asks := s.asks.filter fun a => a.src ≠ d,
           waits := s.waits.filter fun w => w.die ≠ d,
           l1 := s.l1.filter fun e => e.die ≠ d,
           mapping := s.mapping.filter fun j => j.die ≠ d,
           traces := s.traces.filter fun n => !gone.contains n.group,
           replicas := s.replicas.filter fun e => e.2 ≠ d,
           acks := s.acks.filter fun a => a.die ≠ d,
           held := s.held.filter fun h => !(gone.contains h.group && h.pkg.isNone),
           migrations := s.migrations.filter fun m => m.rim ≠ d,
           frozen := s.frozen.filter fun f => f.1 ≠ d }

/-- WARM_RESET (R441): `chosen` holds the die, and 64 times the cause: 1 management, 2 freeze recovery, 3 thermal (R450). -/
def execWarmReset (s : State) : Host.Outcome State Fault Refusal :=
  let d := s.chosen % 64
  if 52 ≤ d then .next s
  else .next (((s.clearDie d).modDie d fun e => e.warm s.cycle (s.ident.bootRoutes d)).boxEvent d 10 0x40 (BitVec.ofNat 64 (s.chosen / 64 % 256)))

/-! ### The management port (R375, R442, R449, R450) -/

/-- The requests of an OP. -/
def State.mgmtRequests (s : State) (op : Nat) : List MgmtMessage := s.mgmtIn.filter fun m => m.op = op

/-- A reply, in responses of at most 1,400 bytes that carry the request's SEQ. `fuel` bounds their number. -/
def replies (m : MgmtMessage) (status : Nat) (bs : List Byte) (fuel : Nat) : List MgmtMessage :=
  match fuel with
  | 0 => []
  | k + 1 =>
    { m with status, len := min bs.length 1400, payload := bs.take 1400 } :: (if bs.length ≤ 1400 then [] else replies m status (bs.drop 1400) k)

def State.respond (s : State) (m : MgmtMessage) (status : Nat) (bs : List Byte) : State :=
  { s with mgmtIn := removeFirst s.mgmtIn m, mgmtOut := s.mgmtOut ++ replies m status bs (bs.length / 1400 + 1) }

/-- A request whose LEN is not its payload's, at most 1,400 (R449). -/
def MgmtMessage.bad (m : MgmtMessage) : Bool := m.len ≠ m.payload.length || decide (1400 < m.len)

/-- A reset that the port has accepted is still to come: it is busy (log 12). -/
def State.resetting (s : State) : Bool := s.agenda.any fun h => h.event = .warmReset || h.event = .coldReset

/-- Serve one request of an OP, unless it is bad or the port is busy (R449). -/
def State.serve (s : State) (op : Nat) (f : MgmtMessage → State) : Host.Outcome State Fault Refusal :=
  match s.pick (s.mgmtRequests op) with
  | none => .next s
  | some m => .next (if m.bad then s.respond m 1 [] else if s.resetting then s.respond m 2 [] else f m)

def MgmtMessage.die (m : MgmtMessage) : Nat := bits m.arg.toNat 0 8
def MgmtMessage.index (m : MgmtMessage) : Nat := m.arg.toNat / 256

/-- IDENTITY (R440, R449). -/
def execMgmtIdentity (s : State) : Host.Outcome State Fault Refusal :=
  s.serve 1 fun m => s.respond m 0 ((List.range 29920).map (identityByte s.ident))

/-- The nonce of an ATTEST: 32 bytes at the physical address that ARG gives above the die's number (R442, R449; log 12). -/
def State.nonce (s : State) (m : MgmtMessage) : List Byte :=
  (List.range 32).map fun i => BitVec.ofNat 8 (s.physRead m.die (m.index + i) 1)

/-- The report of R442. -/
def State.report (s : State) (m : MgmtMessage) : List Byte :=
  s.nonce m ++ measurement s.measured ++ bytesOf 8 Config.serial.toNat ++ bytesOf 8 s.ns ++
  bytesOf 8 s.bootCount.toNat ++ List.replicate 136 0

/-- ATTEST (R442): the report, then its signature. -/
def execMgmtAttest (s : State) : Host.Outcome State Fault Refusal :=
  s.serve 2 fun m =>
    if 52 ≤ m.die then s.respond m 1 []
    else
    let r := s.report m
    s.respond m 0 (r ++ (List.range 29792).map (Config.signatureByte (ofBytes r)))

/-- TELEMETRY's bytes: for each island temperature, power and SELECT; for each die its error counts (R449). The readings are
free. -/
def State.telemetry (s : State) : List Byte :=
  (s.islands.zipIdx.flatMap fun e =>
    bytesOf 2 (Config.telemetryWord s.tick (2 * e.2)).toNat ++ bytesOf 2 (Config.telemetryWord s.tick (2 * e.2 + 1)).toNat ++
    bytesOf 1 e.1.select) ++
  s.dies.flatMap fun d => bytesOf 4 d.corrected ++ bytesOf 4 d.uncorrected

/-- TELEMETRY (R449). -/
def execMgmtTelemetry (s : State) : Host.Outcome State Fault Refusal := s.serve 3 fun m => s.bump.respond m 0 s.telemetry

/-- The 16 bytes of a black-box event (R374). -/
def BoxEvent.bytes (e : BoxEvent) : List Byte :=
  bytesOf 6 e.time ++ bytesOf 1 e.kind ++ bytesOf 1 e.source ++ bytesOf 8 e.data.toNat

/-- BLACKBOX (R450): 64 events from an index, oldest first; the ring stays. -/
def execMgmtBlackbox (s : State) : Host.Outcome State Fault Refusal :=
  s.serve 4 fun m =>
    if 52 ≤ m.die then s.respond m 1 []
    else s.respond m 0 ((((s.die m.die).box.drop m.index).take 64).flatMap BoxEvent.bytes)

/-- HALT (R449): as HALTALL. -/
def execMgmtHalt (s : State) : Host.Outcome State Fault Refusal :=
  s.serve 5 fun m => if s.halted then s.respond m 0 [] else s.halt.respond m 0 []

/-- A split's timers stood still during a halt (R375). -/
def Split.shift (p : Split) (d : Nat) : Split :=
  { p with holdSince := p.holdSince + d, parkedAt := p.parkedAt + d, waited := p.waited + d }

/-- What is left of an engine's time for a unit goes on from where it stood (R373, R375). -/
def Flight.shift (f : Flight) (d : Nat) : Flight := { f with unitAt := f.unitAt + d }

/-- The package leaves a halt: watchdog counts, token hold timers and rechecks go on from where they stood (R375). -/
def State.leaveHalt (s : State) : State :=
  let d := s.cycle - s.haltedAt
  { s with halted := false,
           groups := s.groups.map fun (g : Group) => 
             { g with splits := g.splits.map fun p => p.shift d, flights := g.flights.map fun f => f.shift d,
                      rays := g.rays.map fun r => { r with unitAt := r.unitAt + d } },
           held := s.held.map fun (h : HeldStore) => { h with since := h.since + d } }

/-- RESUME (R375, R449); refused when nothing is halted. -/
def execMgmtResume (s : State) : Host.Outcome State Fault Refusal :=
  s.serve 6 fun m => if s.halted then s.leaveHalt.respond m 0 [] else s.respond m 3 []

/-- SAVEREAD (R449): a die's save areas, while halted. -/
def execMgmtSaveread (s : State) : Host.Outcome State Fault Refusal :=
  s.serve 7 fun m =>
    if !s.halted then s.respond m 3 []
    else if 52 ≤ m.die then s.respond m 1 []
    else
      let all := (s.saves.filter fun a => a.die = m.die).flatMap fun a => a.bytes
      s.respond m 0 ((all.drop m.index).take 1400)

/-- WARMRESET (R449, R450). -/
def execMgmtWarmreset (s : State) : Host.Outcome State Fault Refusal :=
  s.serve 8 fun m =>
    if 52 ≤ m.die then s.respond m 1 []
    else
      let s := s.respond m 0 []
      { s with agenda := s.agenda ++ [{ chosen := m.die + 64, event := .warmReset }] }

/-- COLDRESET (R449). -/
def execMgmtColdreset (s : State) : Host.Outcome State Fault Refusal :=
  s.serve 9 fun m =>
    let s := s.respond m 0 []
    { s with agenda := s.agenda ++ [{ event := .coldReset }] }

/-- A request whose OP is none of R449's is a bad request. -/
def State.dropUnknown (s : State) : State :=
  match s.mgmtIn.find? fun m => decide (m.op = 0) || decide (9 < m.op) with
  | some m => s.respond m 1 []
  | none => s

/-! ### Clocks (R444–R446) -/

/-- The die of an island, and its index there (R444). -/
def islandPlace (i : Nat) : Nat × Nat := if i < 576 then (i / 12, i % 12) else (48 + (i - 576) / 16, (i - 576) % 16)

/-- The step an island runs at: 0 during a fallback. -/
def Island.running (i : Island) : Nat := if i.fallback then 0 else i.select

/-- A clock event of the black box (R450). -/
def State.clockEvent (s : State) (i old new : Nat) (fallback : Bool) : State :=
  s.boxEvent (islandPlace i).1 9 0x40 (BitVec.ofNat 64 (i + 2 ^ 16 * old + 2 ^ 20 * new + 2 ^ 24 * fallback.toNat))

/-- The CLK_REF record of an island (R445). Its cause code is open (log 4). -/
def State.clockRecord (s : State) (i : Nat) : State :=
  let f := s.freeWord
  f.2.writeRecord 0 { kind := 6, trap := trap .illegalOp, openCode := some (BitVec.ofNat 6 f.1.toNat), ctx := 0xFF, master := 4,
                      die := (islandPlace i).1, slot := (islandPlace i).2 }

/-- CLOCK_REF_LOSS (R445), of the island in `chosen`. -/
def execClockRefLoss (s : State) : Host.Outcome State Fault Refusal :=
  let i := s.chosen
  if 640 ≤ i || (s.island i).lost then .next s
  else
    let old := (s.island i).running
    let s := s.modIsland i fun e => { e with lost := true, fallback := true }
    .next ((s.clockRecord i).clockEvent i old 0 true)

/-- CLOCK_REF_RETURN (R445). -/
def execClockRefReturn (s : State) : Host.Outcome State Fault Refusal :=
  .next (s.modIsland s.chosen fun e => { e with lost := false })

/-- FALLBACK_CLEAR (R445): once the reference has returned, stored SELECT writes take effect. -/
def execFallbackClear (s : State) : Host.Outcome State Fault Refusal :=
  let i := s.chosen
  let e := s.island i
  if 640 ≤ i || e.lost || !e.fallback then .next s
  else
    let new := e.stored.getD e.select
    .next ((s.modIsland i fun e => { e with fallback := false, select := new, stored := none }).clockEvent i 0 new false)

/-- DROOP_STRETCH (R446): only latency changes, and stretched cycles count once. -/
def execDroopStretch (s : State) : Host.Outcome State Fault Refusal := .next { s with ns := s.ns + 1 }

/-! ### Power (R447) -/

/-- Firmware selects a step below the one an island runs at, or is to run at: during a fallback the write is stored (R445, R447). -/
def Island.lower (i : Island) (n : Nat) : Island :=
  let now := i.stored.getD i.select
  if now = 0 then i else if i.fallback then { i with stored := some (n % now) } else { i with select := n % now }

/-- At 95 °C firmware lowers a die's steps; by how much is free (log 4). -/
def State.lowerSteps (s : State) (d : Nat) : State :=
  let f := s.freeWord
  { f.2 with islands := f.2.islands.zipIdx.map fun e => if (islandPlace e.2).1 = d then e.1.lower f.1.toNat else e.1 }

/-- THERMAL_TRIP (R447): `chosen` holds the die, plus 64 at 110 °C: then package power is removed and a KIND 10 event
recorded. -/
def execThermalTrip (s : State) : Host.Outcome State Fault Refusal :=
  let d := s.chosen % 64
  if s.chosen < 64 then .next (s.lowerSteps d)
  else .next ({ s with powered := false }.boxEvent d 10 0x40 3)

/-! ### PATROL_SCRUB (R351, R443) -/

/-- A scrubbed line: kind 0 sound, 1 a corrected error, 2 an uncorrectable one, at a physical address of a die. -/
def State.scrub (s : State) (d kind pa : Nat) : State :=
  if kind = 1 then (s.modDie d fun e => { e with corrected := e.corrected + 1 }).boxEvent d 6 0x45 (BitVec.ofNat 64 pa)
  else if kind = 2 then
    match s.physKey d pa with
    | none => s
    | some k =>
      let p := k / 32 * 32
      let s := (s.modDie d fun e => { e with uncorrected := e.uncorrected + 1 }).boxEvent d 7 0x45 (BitVec.ofNat 64 pa)
      if s.poison.contains p then s else { s with poison := s.poison ++ [p] }
  else s

/-- PATROL_SCRUB (R443): what the scrub meets is in `chosen`: the die, 64 times the kind, 256 times the physical address. -/
def execPatrolScrub (s : State) : Host.Outcome State Fault Refusal :=
  .next (s.scrub (s.chosen % 64) (s.chosen / 64 % 4) (s.chosen / 256))

end Sys2Proof.Machine
end

