-- ==== Sys2Proof/Machine/Texture.lean ====
section
/-! DEFINITION. Texture sampling (R324, R325). -/

namespace Sys2Proof.Machine

open Sys2Proof

/-! ### The descriptor (R324) -/

/-- A texture descriptor. -/
structure TexDesc where
  bytes : List Byte

def TexDesc.base (t : TexDesc) : Nat := fieldAt t.bytes 0 8
def TexDesc.fmt (t : TexDesc) : Nat := bits (fieldAt t.bytes 12 1) 0 2
def TexDesc.bilinear (t : TexDesc) : Bool := bit (fieldAt t.bytes 12 1) 4
def TexDesc.blend (t : TexDesc) : Bool := bit (fieldAt t.bytes 12 1) 5
def TexDesc.levels (t : TexDesc) : Nat := bits (fieldAt t.bytes 13 1) 0 4 + 1
def TexDesc.clampU (t : TexDesc) : Bool := bits (fieldAt t.bytes 13 1) 4 2 = 1
def TexDesc.clampV (t : TexDesc) : Bool := bits (fieldAt t.bytes 13 1) 6 2 = 1
def TexDesc.lod (t : TexDesc) : Nat := fieldAt t.bytes 16 4
def TexDesc.bias (t : TexDesc) : Nat := fieldAt t.bytes 20 4
def TexDesc.width (t : TexDesc) (k : Nat) : Nat := max 1 ((fieldAt t.bytes 8 2 + 1) / 2 ^ k)
def TexDesc.height (t : TexDesc) (k : Nat) : Nat := max 1 ((fieldAt t.bytes 10 2 + 1) / 2 ^ k)
def TexDesc.texel (t : TexDesc) : Nat := if t.fmt = 1 then 8 else 4

/-- Address of level k. -/
def TexDesc.levelBase (t : TexDesc) (k : Nat) : Nat :=
  t.base + ((List.range k).map fun i => roundUp (t.width i * t.height i * t.texel) 128).sum

/-- The byte index of the first field that breaks R324. -/
def TexDesc.bad (t : TexDesc) : Option Nat :=
  let f := fieldAt t.bytes 12 1
  let v := fieldAt t.bytes 13 1
  if t.base % 128 ≠ 0 then some 0
  else if 16383 < fieldAt t.bytes 8 2 then some 8
  else if 16383 < fieldAt t.bytes 10 2 then some 10
  else if bits f 0 2 = 3 || bits f 2 2 ≠ 0 || bits f 6 2 ≠ 0 then some 12
  else if 1 < bits v 4 2 || 1 < bits v 6 2 then some 13
  else if fieldAt t.bytes 14 2 ≠ 0 then some 14
  else if fieldAt t.bytes 24 8 ≠ 0 then some 24
  else none

/-! ### The level (R325) -/

/-- Which form samples. -/
inductive TexForm where | texs | texl | texf
  deriving DecidableEq

/-- The difference of two coordinates: exact in units of 2^−149, infinite, or none when it has no value. -/
inductive Delta where
  | fin (d : Int)
  | inf
  | none

def deltaOf (a b : Word) : Delta :=
  match fp32.decode a.toNat, fp32.decode b.toNat with
  | .nan _, _ => .none
  | _, .nan _ => .none
  | .inf s, .inf t => if s = t then .none else .inf
  | .inf _, _ => .inf
  | _, .inf _ => .inf
  | x, y => .fin (finUnits (-149) x - finUnits (-149) y)

/-- (Δu W)² + (Δv H)² in units of 2^−298. -/
def squareSum (u v : Delta) (w h : Nat) : Delta :=
  match u, v with
  | .none, _ => .none
  | _, .none => .none
  | .inf, _ => .inf
  | _, .inf => .inf
  | .fin a, .fin b => .fin (a * w * (a * w) + b * h * (b * h))

/-- r2, the larger of the two sums rounded once: an FP32 code. -/
def r2Of (x y : Delta) : Option Nat :=
  match x, y with
  | .none, _ => none
  | _, .none => none
  | .inf, _ => some 0x7F800000
  | _, .inf => some 0x7F800000
  | .fin a, .fin b => some (fp32.roundFin .rne false (max a b).toNat (-298)).1

/-- λ of TEXS from r2: an FP32 code (R325). -/
def lambdaOf (r2 bias : Nat) : Nat :=
  if r2 = 0 then 0
  else
    let h := match fp32.decode (flog2Of (BitVec.ofNat 32 r2)).1 with
      | .fin n m e => .fin n m (e - 1)
      | v => v
    (fp32.sum .rne false [.val h, .val (fp32.decode bias)]).1

/-- A lane's coordinate as a quad-mate sees it: a mate outside the split stands in with the lane's own (R325). -/
def Ctx.quad (x : Ctx) (a : Operand) (l m k : Nat) : Word := x.nth a k (if inMask x.p.mask m then m else l)

/-- λ of a lane as an exact number of 2^−149 units, clamped to the levels; none when it has no value. -/
def Ctx.lambda (x : Ctx) (f : TexForm) (t : TexDesc) (a : Operand) (l : Nat) : Option Nat :=
  let code : Option Nat := match f with
    | .texs =>
      let q := l / 4 * 4
      let d (m k : Nat) : Delta := deltaOf (x.quad a l (q + m) k) (x.quad a l q k)
      let sum (m : Nat) : Delta := squareSum (d m 0) (d m 1) (t.width 0) (t.height 0)
      (r2Of (sum 1) (sum 2)).map fun r => lambdaOf r t.bias
    | _ => some t.lod
  let top := (t.levels - 1) * 2 ^ 149
  code.bind fun c => match fp32.decode c with
    | .nan _ => none
    | .inf n => some (if n then 0 else top)
    | v => some (min top (finUnits (-149) v).toNat)

/-- Levels with their weights in 256ths. -/
def levelsOf (f : TexForm) (t : TexDesc) (lam : Nat) : List (Nat × Nat) :=
  let one := 2 ^ 149
  match f with
  | .texf => [(lam / one, 256)]
  | _ =>
    if t.blend then
      let w := (roundInt .rne false (lam % one * 256) one).1
      ([(lam / one, 256 - w), (lam / one + 1, w)]).filter fun e => e.2 ≠ 0
    else [((lam + one / 2) / one, 256)]

/-! ### Texels (R325) -/

/-- A wrapped index. -/
def wrapIndex (clamp : Bool) (i : Int) (n : Nat) : Nat :=
  if clamp then (min (max i 0) ((n : Int) - 1)).toNat else (Int.emod i n).toNat

/-- A coordinate scaled to a level: round_rne(c × n − half), in units of 2^−149; none when it overflows. -/
def scaled (c : Word) (n : Nat) (half : Bool) : Option Int :=
  let v := fp32.decode c.toNat
  let k : FVal := .fin false n 0
  let r := fp32.sum .rne false ([mulVal v k] ++ if half then [.val (.fin true 1 (-1))] else [])
  match fp32.decode r.1 with
  | .fin n m e => some (finUnits (-149) (.fin n m e))
  | _ => none

/-- The one index, or two indices with weights in 256ths, along an axis. -/
def axis (bilinear : Bool) (c : Word) (n : Nat) : Option (List (Int × Nat)) :=
  (scaled c n bilinear).map fun x =>
    let one : Int := ((2 ^ 149 : Nat) : Int)
    let i := Int.fdiv x one
    if !bilinear then [(i, 256)]
    else
      let w := (roundInt .rne false ((Int.fmod x one).toNat * 256) (2 ^ 149)).1
      if w = 256 then [(i + 1, 256)] else ([(i, 256 - w), (i + 1, w)]).filter fun e => e.2 ≠ 0

/-- One texel a lane reads: address and weight in units of 2^−24. -/
structure Texel where
  lane : Nat
  addr : DWord
  weight : Nat

def TexDesc.addrOf (t : TexDesc) (k i j : Nat) : DWord :=
  BitVec.ofNat 64 (t.levelBase k + (j * t.width k + i) * t.texel)

/-- The texels of a lane in one level, with the level's weight. -/
def levelTexels (f : TexForm) (t : TexDesc) (l : Nat) (u v : Word) (k wk : Nat) : Option (List Texel) :=
  let w := t.width k
  let h := t.height k
  match f with
  | .texf => some [⟨l, t.addrOf k (wrapIndex t.clampU u.toNat w) (wrapIndex t.clampV v.toNat h), 2 ^ 24⟩]
  | _ =>
    match axis t.bilinear u w, axis t.bilinear v h with
    | some xs, some ys =>
      some (ys.flatMap fun y => xs.map fun x =>
        (⟨l, t.addrOf k (wrapIndex t.clampU x.1 w) (wrapIndex t.clampV y.1 h), x.2 * y.2 * wk⟩ : Texel))
    | _, _ => none

/-- The texels of a lane with nonzero weight; none when R325 leaves them open. -/
def texelsOf (f : TexForm) (t : TexDesc) (lam : Nat) (l : Nat) (u v : Word) : Option (List Texel) :=
  ((levelsOf f t lam).mapM fun (k : Nat × Nat) => levelTexels f t l u v k.1 k.2).map List.flatten

/-- Channel c of a texel's bytes, for the float formats. -/
def floatChannel (fmt n c : Nat) : FVal :=
  if fmt = 1 then fp16.decode (bits n (16 * c) 16)
  else if c = 0 then fp32.decode n
  else if c = 3 then .fin false 1 0
  else .fin false 0 0

def scaleVal (w : Nat) (v : FVal) : FVal :=
  match v with
  | .fin n m e => .fin n (m * w) (e - 24)
  | v => v

/-- One channel of a lane: the exact weighted value, rounded once. -/
def channelOf (fmt : Nat) (ts : List (Nat × Nat)) (c : Nat) : Word :=
  BitVec.ofNat 32
    (if fmt = 0 then
      let n := (ts.map fun e => e.1 * bits e.2 (8 * c) 8).sum
      if n = 0 then 0 else (fp32.round .rne false n (255 * 2 ^ 24)).1
    else (fp32.sum .rne false (ts.map fun e => .val (scaleVal e.1 (floatChannel fmt e.2 c)))).1)

/-- Coordinates that R325 answers with +0. -/
def badCoord (w : Word) : Bool :=
  match fp32.decode w.toNat with
  | .fin .. => false
  | _ => true

/-- The words on which a TEXS or TEXL whose level or coordinates have no value depends: the coordinates of the lane and of its quad. -/
def Ctx.quadWords (x : Ctx) (a : Operand) (l : Nat) : List Word :=
  [x.nth a 0 l, x.nth a 1 l] ++ (List.range 4).flatMap fun m => (List.range 2).map fun k => x.quad a l (l / 4 * 4 + m) k

/-- The texels of a lane, or that its result is +0, or open. -/
inductive LaneTex where
  | zero
  | open_
  | texels (ts : List Texel)

def Ctx.laneTex (x : Ctx) (f : TexForm) (t : TexDesc) (a : Operand) (l : Nat) : LaneTex :=
  let u := x.nth a 0 l
  let v := x.nth a 1 l
  if f ≠ .texf && (badCoord u || badCoord v) then .zero
  else match (x.lambda f t a l).bind fun lam => texelsOf f t lam l u v with
    | some ts => .texels ts
    | none => .open_

/-- A TEX whose texels have been granted (R325). -/
def Ctx.sampled (x : Ctx) (s : State) (t : TexDesc) (d a : Operand) (lt : Nat → LaneTex) (gs : List (Texel × Grant)) : Res :=
  let by' := gs.map fun e => (e.1.lane, e.2)
  x.inOrder (s.harden x.g.id x.p.id 3) (grantCells by' t.texel) true fun s g =>
  let rs := s.requests by' fun _ => BitVec.ofNat 64 t.base
  let denied := x.activeLanes.filterMap fun l => (deniedLanes s (rs.filter fun r => r.lane = l)).head?
  let lanes := x.activeLanes.filter fun l => !(denied.any fun e => e.1 = l)
  let val (l : Nat) : List Word :=
    match lt l with
    | .zero => List.replicate 4 0
    | .open_ => (List.range 4).map fun k => Config.texWord (x.quadWords a l) t.bytes k
    | .texels _ =>
      let ts := (gs.filter fun e => e.1.lane = l).map fun e => (e.1.weight, s.readGrant g x.p x.i.path l e.2 t.texel)
      (List.range 4).map (channelOf t.fmt ts)
  let bad := s.poisonOf by' t.texel
  let s' := by'.foldl (fun s e => if e.2.tagged then s.noteLine x.g e.2 else s) (s.fetchLines x.g.die false by')
  let s' := (s'.sendRequests x.g (granted rs denied) 1 0 (fun _ => []) (some (x.g.id, s.nextFlight x.g.id))).bump
  let o := x.outOn lanes d val
  .done (s'.modGroup x.g.id fun g =>
    let fid := g.nextFlight
    let g := (x.attached g).addFlight
      { x.flight x.c.flag (.results o.ds none none) with fault := bad }
    if denied.isEmpty then g else g.addDenied fid x.issueMask x.i.path (fun _ => BitVec.ofNat 64 t.base) denied)

/-- The three forms (R325). -/
def Ctx.tex (x : Ctx) (f : TexForm) (d a b : Operand) : Res :=
  let addr := (x.src b x.firstLane).toNat
  let all (c : Cause) : Trap := { trap c with tval := x.active, byLanes := true }
  if !x.anyActive then x.later x.s {}
  else if x.g.isHost then .fault (all .cluBounds)
  else if addr % 32 ≠ 0 then .fault { all .align with taddr := some (BitVec.ofNat 64 addr) }
  else match x.s.clusterReach x.g addr 32 with
    | .key k =>
      let t : TexDesc := ⟨x.s.bytesAt k 32⟩
      match t.bad with
      | some n => .fault { trap .formatBlock with tval := BitVec.ofNat 32 n }
      | none =>
        let lt := x.laneTex f t a
        let items := x.activeLanes.flatMap fun l => match lt l with
          | .texels ts => ts
          | _ => []
        match eachItem x.s items (fun i => i.lane) (fun i => i.addr) false fun s i =>
            access s x.g.agent i.addr.toNat t.texel 1 { r := true } with
        | .error e => stopRes e
        | .ok (s, gs) => x.sampled s t d a lt gs
    | _ => .fault (all .cluBounds)

/-- TEXS (R325). -/
def execTexs (d a b : Operand) (s : State) : Host.Outcome State Fault Refusal := issue (.texs d a b) s fun x => x.tex .texs d a b

/-- TEXL (R325). -/
def execTexl (d a b : Operand) (s : State) : Host.Outcome State Fault Refusal := issue (.texl d a b) s fun x => x.tex .texl d a b

/-- TEXF (R325). -/
def execTexf (d a b : Operand) (s : State) : Host.Outcome State Fault Refusal := issue (.texf d a b) s fun x => x.tex .texf d a b

end Sys2Proof.Machine
end

