-- ==== Sys2Proof/Machine/Schedule.lean ====
section
/-! DEFINITION. Which split issues next (R99, R142, R143, R191), deferred starts (R140) and the watchdog (R144, R145). -/

namespace Sys2Proof.Machine

open Sys2Proof

/-! ### Splits that may issue -/

/-- A held split whose word is tried again; a barrier, a rendezvous and TNEXT release their splits themselves. -/
def Split.polls (p : Split) : Bool :=
  match p.hold with
  | .bar _ | .cbar _ | .regroup _ | .tnext => false
  | .waitmem => p.recheck
  | _ => true

/-- The split may be given an issue opportunity. -/
def State.runnable (s : State) (g : Group) (p : Split) : Bool :=
  s.live g && !s.coreFrozen g && !p.dead && !p.escalated && p.pend.isNone && p.polls && !(s.stoppingGroup g && p.stopped)

/-- The words whose own effect may hold their split, and what it comes to; another word acts once nothing before its effect holds it. -/
def tryWord (i : Instr) (s : State) : Option (Host.Outcome State Fault Refusal) :=
  match i with
  | .ld w d a b => some (execLd w d a b s)
  | .st w d a b => some (execSt w d a b s)
  | .ldl w d a b => some (execLdl w d a b s)
  | .stl w d a b => some (execStl w d a b s)
  | .lds w d a b => some (execLds w d a b s)
  | .sts w d a b => some (execSts w d a b s)
  | .ldc w d a b => some (execLdc w d a b s)
  | .stc w d a b => some (execStc w d a b s)
  | .ldd w d a b => some (execLdd w d a b s)
  | .std w d a b => some (execStd w d a b s)
  | .ldb w d k b => some (execLdb w d k b s)
  | .stb w d k b => some (execStb w d k b s)
  | .atoms o d a b => some (execAtoms o d a b s)
  | .atomg o d a b => some (execAtomg o d a b s)
  | .redg o d a => some (execRedg o d a s)
  | .atomc o d a b => some (execAtomc o d a b s)
  | .waitp pp b => some (execWaitp pp b s)
  | .btset k a b => some (execBtset k a b s)
  | .tagset d a => some (execTagset d a s)
  | .tagget d a => some (execTagget d a s)
  | .mmaAcc mc t a b => some (execMmaAcc mc t a b s)
  | .mmaSet mc t a b => some (execMmaSet mc t a b s)
  | .mclr t => some (execMclr t s)
  | .mload t a => some (execMload t a s)
  | .mstat d t => some (execMstat d t s)
  | .mdrain t a => some (execMdrain t a s)
  | .mdrainMrow t a => some (execMdrainMrow t a s)
  | .mtrq a b => some (execMtrq a b s)
  | .qunbind d => some (execQunbind d s)
  | .qdrain d => some (execQdrain d s)
  | .gath a b => some (execGath a b s)
  | .scat d a b => some (execScat d a b s)
  | .emitv d a => some (execEmitv d a s)
  | .emitp a b => some (execEmitp a b s)
  | .emitend => some (execEmitend s)
  | .launchG a b => some (execLaunchG a b s)
  | .launchL a b => some (execLaunchL a b s)
  | .phaseend o a => some (execPhaseend o a s)
  | .texs d a b => some (execTexs d a b s)
  | .texl d a b => some (execTexl d a b s)
  | .texf d a b => some (execTexf d a b s)
  | .trace a => some (execTrace a s)
  | .resume a b => some (execResume a b s)
  | .commit a b => some (execCommit a b s)
  | .rpalloc d => some (execRpalloc d s)
  | .rpfree a => some (execRpfree a s)
  | .march a => some (execMarch a s)
  | .hgfetch d a b => some (execHgfetch d a b s)
  | .stxt d a b => some (execStxt d a b s)
  | .stxw d a b => some (execStxw d a b s)
  | .tkwait a => some (execTkwait a s)
  | .tdone => some (execTdone s)
  | .vbegin fr n => some (execVbegin fr n s)
  | .rft => some (execRft s)
  | .mappg a b => some (execMappg a b s)
  | _ => none

/-- After a try of its word a split is held at it. -/
def stillHeld (g : Group) (p : Split) (r : Option (Host.Outcome State Fault Refusal)) : Bool :=
  match r with
  | some (.next t) => ((t.group? g.id).bind fun h => h.split? p.id).elim false fun q => q.hold ≠ .none
  | _ => false

/-- The state in which a split's word is tried, with nothing left open. -/
def State.trial (s : State) (g : Group) (p : Split) : State :=
  { s with cur := some (g.id, p.id), loose := {} }

/-- The header at a split's PC can issue: no busy flag of its WAIT and no rejoin's order holds it. A header that cannot be read, or is
none, can issue its fault, and so can an engine fault (R143, R268). -/
def State.headerReady (s : State) (g : Group) (p : Split) : Bool :=
  (g.engineFaultFor p).isSome ||
  match fetchWord s g.agent p.pc.toNat with
  | .error none => false
  | .error (some _) => true
  | .ok (_, w) =>
    match decodeHeader w with
    | some h => !stillHeld g p (some (execClauseHeader h (s.trial g p)))
    | none => true

/-- No port, path, count, order or unit holds the word at which a split stands (R143): before the first try of it what stands before its
own effect says so, and after a try another one that changes nothing. -/
def State.wordReady (s : State) (g : Group) (p : Split) (c : Clause) : Bool :=
  match decode (c.words.getD c.idx 0) with
  | .ok i => match preIssue i s g p c with
    | .hold _ => false
    | _ => p.hold = .none || !stillHeld g p (tryWord i (s.trial g p))
  | _ => true

/-- The split's next word can issue: its WAIT flags are clear and nothing holds it (R143). -/
def State.ready (s : State) (g : Group) (p : Split) : Bool :=
  s.runnable g p &&
  match p.hold, p.clause with
  | .waitmem, _ => p.recheck
  | _, none => p.resume.isSome || s.headerReady g p
  | _, some c => s.wordReady g p c

/-- Group age, then the creation order of the group's splits (R187, R191). -/
def State.ageKey (s : State) (g : Group) (p : Split) : Nat :=
  s.groupAge g * 2 ^ 64 + p.id

def State.splitsWhere (s : State) (f : Group → Split → Bool) : List (Group × Split) :=
  s.groups.flatMap fun g => (g.splits.filter (f g)).map fun p => (g, p)

/-- After a YIELD a split waits until every other ready split of its core has had an opportunity (R99). -/
def State.mayResume (s : State) (g : Group) (p : Split) : Bool :=
  !p.yielded || (s.splitsWhere fun h q => s.ready h q && h.die = g.die && h.core = g.core && h.isHost = g.isHost &&
    !(h.id = g.id && q.id = p.id)).all fun e => decide (p.lastIssue < e.2.lastIssue)

/-- The datapath a group runs on (R127): die, host or render core, core, parity of its index; a host core orders its threads as one
(R191). -/
def Group.datapath (g : Group) : Nat × Bool × Nat × Nat := (g.die, g.isHost, g.core, if g.isHost then 0 else g.grpx % 2)

/-- The split is the one that issued last on its datapath. -/
def State.isLast (s : State) (e : Group × Split) : Bool := s.lasts.contains (e.1.id, e.2.id)

/-- The datapath of a group by its number. -/
def State.datapathOf (s : State) (gid : Nat) : Option (Nat × Bool × Nat × Nat) := (s.group? gid).map Group.datapath

/-- The split has the next issue opportunity; the one that had the last one starts to wait. -/
def State.grant (s : State) (gid pid : Nat) : State :=
  let s := match s.cur with
    | some (a, b) => s.modSplit a b fun p => { p with waited := s.cycle }
    | none => s
  { s.modSplit gid pid (fun p => { p with waited := s.cycle, lastIssue := s.cycle, yielded := false }) with
    cur := some (gid, pid), granted := true,
    lasts := (gid, pid) :: s.lasts.filter fun e => s.datapathOf e.1 ≠ s.datapathOf gid }

/-- Another split than the last of its datapath is selected: its headers count from here (R143). -/
def State.select (s : State) (gid pid : Nat) : State := (s.grant gid pid).modSplit gid pid fun p => { p with headers := 0 }

/-- The held split to try next on a datapath: the first after the one that issued last, in rotation. -/
def State.nextHeld (s : State) (es : List (Group × Split)) : Option (Group × Split) :=
  match es.find? s.isLast with
  | none => es.head?
  | some a =>
    match es.find? fun e => decide (a.1.id < e.1.id) || (e.1.id = a.1.id && decide (a.2.id < e.2.id)) with
    | some e => some e
    | none => es.head?

/-- The split a datapath issues next: the one that issued last when it is ready, otherwise the oldest ready one (R191); a
held split is tried when none is ready. A split that has yielded waits for its core's others (R99). -/
def State.chooseSplit (s : State) (es : List (Group × Split)) : Option (Group × Split) :=
  let es := es.filter fun e => s.mayResume e.1 e.2
  let ready := es.filter fun e => s.ready e.1 e.2
  match ready.find? s.isLast with
  | some e => some e
  | none => match (sortBy (fun e => s.ageKey e.1 e.2) ready).head? with
    | some e => some e
    | none => s.nextHeld es

/-- The wait of every split that is not ready starts anew, and that of a new split begins (R143, R191). -/
def State.noteWaits (s : State) : State :=
  { s with groups := s.groups.map fun (g : Group) => { g with splits := g.splits.map fun (p : Split) =>
      if p.waited = 0 || !(s.ready g p) then { p with waited := s.cycle } else p } }

/-- ISSUE_SELECT (R142, R191) on a datapath that `chosen` picks. -/
def execIssueSelect (s : State) : Host.Outcome State Fault Refusal :=
  let s := s.noteWaits
  let all := s.splitsWhere s.runnable
  match s.pick (all.map fun e => e.1.datapath).eraseDups with
  | none => .next { s with cur := none }
  | some d =>
    match s.chooseSplit (all.filter fun e => e.1.datapath = d) with
    | none => .next { s with cur := none }
    | some e => .next (if s.isLast e then s.grant e.1.id e.2.id else s.select e.1.id e.2.id)

/-- Another ready split of the group of the issuing split (R143). -/
def State.rival? (s : State) : Option (Group × Split × Split) :=
  match s.cur with
  | none => none
  | some (gid, pid) =>
    match s.group? gid with
    | none => none
    | some g => match g.split? pid, g.splits.find? fun q => q.id ≠ pid && s.ready g q with
      | some p, some q => if p.clause.isNone && decide (256 ≤ p.headers) then some (g, p, q) else none
      | _, _ => none

/-- HEADER_YIELD (R143): after 256 consecutive headers the split yields to another ready split of its group. -/
def execHeaderYield (s : State) : Host.Outcome State Fault Refusal :=
  match s.rival? with
  | none => .next s
  | some (g, p, q) => .next ((s.modSplit g.id p.id fun p => { p with headers := 0 }).select g.id q.id)

/-- Splits that have waited 1,024 cycles while ready (R191). -/
def State.starving (s : State) : List (Group × Split) :=
  s.splitsWhere fun g p => s.ready g p && p.waited ≠ 0 && s.cur ≠ some (g.id, p.id) && decide (p.waited + 1024 ≤ s.cycle)

/-- ISSUE_STARVATION (R143, R191). -/
def execIssueStarvation (s : State) : Host.Outcome State Fault Refusal :=
  match (sortBy (fun e => e.2.waited) s.starving).head? with
  | none => .next s
  | some e => .next (s.select e.1.id e.2.id)

/-! ### DEFERRED_SPLIT_START (R140) -/

/-- A deferred split whose running side is done and for which a live entry is free: of several, the first group's first record,
which is the model's choice (log 51). -/
def State.deferredReady? (s : State) : Option (Group × Deferred) :=
  s.groups.findSome? fun g =>
    if s.live g && decide (g.splits.length < 8) && decide (0 < s.tableFree g) then g.startable?.map fun d => (g, d) else none

/-- DEFERRED_SPLIT_START (R139, R140). -/
def execDeferredSplitStart (s : State) : Host.Outcome State Fault Refusal :=
  match s.deferredReady? with
  | none => .next s
  | some (g, d) => .next (s.putGroup (g.startDeferred d))

/-! ### The watchdog (R144, R145) -/

/-- The issuing split stands at a header with its count used up. -/
def State.spent? (s : State) : Option (Group × Split) :=
  match s.headerIssuer with
  | some (g, p) =>
    if p.reissue.isNone && g.budget ≠ 0 && p.wdog = 0 && (g.engineFaultFor p).isNone && p.pend.isNone then some (g, p) else none
  | none => none

/-- WATCHDOG_BUDGET (R144). -/
def execWatchdogBudget (s : State) : Host.Outcome State Fault Refusal :=
  match s.spent? with
  | none => .next s
  | some (g, p) => .next (s.raise g.id p.id (trap .watchdog))

/-- A bound in cycles from SR_QLIMIT; 63 disables the check (R148). -/
def queueLimit (g : Group) : Option Nat := if g.qlimit = 63 then none else some (2 ^ g.qlimit.toNat)

/-- Splits held at a port, a drain or a full queue beyond the limit (R145, R170, R265, R285). -/
def State.overdue (s : State) : List (Group × Split) :=
  s.splitsWhere fun g p =>
    (p.hold = .port || p.hold = .drain || p.hold = .queue) && p.pend.isNone && !p.escalated && s.live g &&
    (queueLimit g).elim false fun n => decide (p.holdSince + n < s.cycle)

/-- WATCHDOG_QUEUE (R145). -/
def execWatchdogQueue (s : State) : Host.Outcome State Fault Refusal :=
  match s.overdue with
  | [] => .next s
  | e :: _ => if s.halted then .next s else .next (s.raise e.1.id e.2.id { trap .watchdog with tval := 1 })

end Sys2Proof.Machine
end

