-- ==== Sys2Proof/Machine/Walker.lean ====
section
/-! DEFINITION. The task-graph walker (R192, R193). -/

namespace Sys2Proof.Machine

open Sys2Proof

/-- A node of a task graph as its 32 bytes (R192). -/
abbrev NodeBytes := List Byte

def nodeType (b : NodeBytes) : Nat := fieldAt b 0 1
def nodeFlags (b : NodeBytes) : Nat := fieldAt b 1 1
def nodeCap (b : NodeBytes) : Nat := fieldAt b 2 2
def nodeNext (b : NodeBytes) : Nat := fieldAt b 4 2
def nodeAlt (b : NodeBytes) : Nat := fieldAt b 6 2
def nodeLaunch (b : NodeBytes) : Nat := fieldAt b 8 8
def nodeSlot (b : NodeBytes) : Nat := fieldAt b 16 8
def nodeArg (b : NodeBytes) : Nat := fieldAt b 24 4
def nodeJoin (b : NodeBytes) : Nat := fieldAt b 28 2

/-- A field of a node differs from what R192 gives for its kind. -/
def badNode (b : NodeBytes) : Bool :=
  let only (m : Nat) : Bool := (List.range 8).all fun k => bit m k || !bit (nodeFlags b) k
  let k := nodeType b
  decide (4 < k) || fieldAt b 30 2 ≠ 0 ||
  !(only (if k = 1 then 2 else if k = 2 then 1 else if k = 3 then 0x81 else 0)) ||
  (if k = 3 then nodeCap b = 0 else nodeCap b ≠ 0) ||
  (k = 1 && !bit (nodeFlags b) 1 && nodeAlt b ≠ 0xFFFF) || (k = 4 && nodeAlt b ≠ 0xFFFF) ||
  (k = 0 && (nodeNext b ≠ 0 || nodeAlt b ≠ 0)) ||
  (k ≠ 1 && nodeLaunch b ≠ 0) ||
  (if k = 2 || k = 3 then nodeSlot b % 4 ≠ 0 else nodeSlot b ≠ 0) ||
  ((k = 0 || k = 2) && nodeArg b ≠ 0) ||
  (if k = 4 then nodeJoin b = 0 || decide (8 < nodeJoin b) else nodeJoin b ≠ 0)

/-- The launch of a graph's record. -/
def State.graphLaunch (s : State) (g : Graph) : Launch :=
  (s.launch? g.launch).getD { id := g.launch, ctx := 0, record := {}, addr := 0, arg := 0, seq := 0, age := 0 }

/-- The address of a cursor's node. -/
def State.nodeAddr (s : State) (g : Graph) (c : Cursor) : Nat := (s.graphLaunch g).record.entry.toNat + 32 * c.node

/-- Fetch a cursor's node (R452). -/
def State.fetchNode (s : State) (g : Graph) (c : Cursor) : Except Stop (State × NodeBytes) :=
  hwRead s (s.graphLaunch g).ctx s.active (s.nodeAddr g c) 32

/-- The kind of event that a cursor's node makes: one that cannot be fetched, or that no kind fits, ends like END. -/
def State.cursorKind (s : State) (g : Graph) (c : Cursor) : Option Nat :=
  match s.fetchNode g c with
  | .ok (_, b) => some (if 4 < nodeType b then 0 else nodeType b)
  | .error (some _) => some 0
  | .error none => none

/-- The cursors that stand at a node of a kind. -/
def State.cursorsAt (s : State) (kind : Nat) : List (Graph × Cursor) :=
  s.graphs.flatMap fun g => (g.cursors.filter fun c => c.launch.isNone && !c.waiting && s.cursorKind g c = some kind).map fun c => (g, c)

def State.modCursor (s : State) (g : Graph) (c : Cursor) (f : Cursor → Cursor) : State :=
  { s with graphs := s.graphs.map fun (h : Graph) =>
      if h.id = g.id then { h with cursors := h.cursors.map fun (k : Cursor) => if k.id = c.id then f k else k } else h }

/-- A graph ends with a status, and its record's completion word is written (R183, R193). -/
def State.closeGraph (s : State) (g : Graph) (status : Nat) : Except Stop State :=
  let l := s.graphLaunch g
  (s.complete l.ctx s.active l.record.completion l.seq 0 status).map fun s' =>
    let awaited := g.cursors.filterMap fun c => c.launch
    let s' := { s' with graphs := s'.graphs.filter fun h => h.id ≠ g.id }
    ({ s' with launches := s'.launches.filter fun e => !(awaited.contains e.id && (match e.state with
        | .finished _ => true
        | _ => false)) }).finishLaunch l.id status

/-- A graph ends now, or its completion word waits at the walker (R403), or the walker freezes (R351). -/
def State.endGraph (s : State) (g : Graph) (status : Nat) : State :=
  match s.closeGraph g status with
  | .ok s' => s'
  | .error e => s.hwFail e fun _ => s

/-- A cursor ends; with the last one the graph completes (R193). -/
def State.endCursor (s : State) (g : Graph) (c : Cursor) : Except Stop State :=
  if g.cursors.all fun k => k.id = c.id then s.closeGraph g 1
  else .ok { s with graphs := s.graphs.map fun (h : Graph) =>
    if h.id = g.id then { h with cursors := h.cursors.filter fun k => k.id ≠ c.id } else h }

/-- What a node's action comes to: the next state; or it waits at the walker (R403), freezes it (R351), or ends the graph FAULTED,
with what it did before that in the state. -/
abbrev NodeResult := Except (State × Stop) State

/-- An access of a node's action, on the state before it. -/
def nodeAccess {α : Type} (s : State) (r : Except Stop α) : Except (State × Stop) α :=
  match r with
  | .ok a => .ok a
  | .error e => .error (s, e)

/-- Run the node of the cursor that the event takes. An action that waits is done again as a whole. -/
def State.atNode (s : State) (kind : Nat) (f : State → Graph → Cursor → NodeBytes → NodeResult) : State :=
  match s.pick (s.cursorsAt kind) with
  | none => s
  | some (g, c) =>
    match s.fetchNode g c with
    | .error e => s.hwFail e fun _ => s.endGraph g 4
    | .ok (s', b) =>
      if badNode b then s'.endGraph g 4
      else match f s' g c b with
        | .ok s'' => s''
        | .error (t, e) => s.hwFail e fun _ => t.endGraph g 4

/-- A fork starts a cursor at ALT (R193). -/
def State.fork (s : State) (g : Graph) (b : NodeBytes) : State :=
  { s with graphs := s.graphs.map fun (h : Graph) =>
      if h.id = g.id then { h with cursors := h.cursors ++ [{ id := h.nextCursor, node := nodeAlt b }], nextCursor := h.nextCursor + 1 }
      else h }

/-- The launch of a KERNEL node, as LAUNCH.G from a host core; the cursor waits for it (R193). -/
def State.launchNode (s : State) (g : Graph) (c : Cursor) (b : NodeBytes) : NodeResult :=
  let ctx := (s.graphLaunch g).ctx
  if nodeLaunch b % 128 ≠ 0 then .error (s, some (trap .align))
  else match hwReadAll s ctx s.active (nodeLaunch b) 2 with
    | .error e => .error (s, e)
    | .ok (s, bytes) =>
      if !s.queueRoom (fieldAt bytes 26 1) 1 then .ok s
      else
        let child : Child := { ctx, addr := BitVec.ofNat 64 (nodeLaunch b), arg := BitVec.ofNat 32 (nodeArg b), host := true,
                               fromDie := none, bytes, graph := some (g.id, c.id) }
        let s := s.modCursor g c fun c => { c with node := nodeNext b, waiting := true, forked := false }
        .ok { s with children := s.children ++ [child] }

/-- GRAPH_NODE_KERNEL (R193): a fork starts its cursor first, once, whether or not the queue has room for the launch. -/
def execGraphNodeKernel (s : State) : Host.Outcome State Fault Refusal :=
  .next (s.atNode 1 fun s g c b =>
    if bit (nodeFlags b) 1 && !c.forked then
      if 8 ≤ g.cursors.length then .error (s, some (trap .recordOverflow))
      else .ok ((s.modCursor g c fun c => { c with forked := true }).fork g b)
    else s.launchNode g c b)

/-- Cursors whose launch has completed, with its status: the launch's own end, whether or not its record has a completion word (R193;
log 71). -/
def State.doneCursors (s : State) : List (Graph × Cursor × Nat) :=
  s.graphs.flatMap fun g => g.cursors.filterMap fun c => (c.launch.bind s.launch?).bind fun l =>
    match l.state with
    | .finished st => some (g, c, st)
    | _ => none

/-- GRAPH_KERNEL_DONE (R193). -/
def execGraphKernelDone (s : State) : Host.Outcome State Fault Refusal :=
  match s.pick s.doneCursors with
  | none => .next s
  | some (g, c, st) =>
    if st ≠ 1 then .next (s.endGraph g st)
    else
      let s' := s.modCursor g c fun c => { c with launch := none }
      .next { s' with launches := s'.launches.filter fun l => some l.id ≠ c.launch }

/-- Read a phase slot, and clear it when the node says so. -/
def State.takeSlot (s : State) (g : Graph) (b : NodeBytes) : Except (State × Stop) (State × Nat) :=
  let ctx := (s.graphLaunch g).ctx
  match hwRead s ctx s.active (nodeSlot b) 4 with
  | .error e => .error (s, e)
  | .ok (s, bs) =>
    if bit (nodeFlags b) 0 then
      (nodeAccess s (hwWrite s ctx s.active (nodeSlot b) (bytesOf 4 0))).map fun s => (s, ofBytes bs)
    else .ok (s, ofBytes bs)

/-- GRAPH_NODE_COND (R193). -/
def execGraphNodeCond (s : State) : Host.Outcome State Fault Refusal :=
  .next (s.atNode 2 fun s g c b => (s.takeSlot g b).map fun r =>
    r.1.modCursor g c fun c => { c with node := if r.2 ≠ 0 then nodeNext b else nodeAlt b })

/-- Write a word or a byte of a node. -/
def State.putNode (s : State) (g : Graph) (c : Cursor) (off n v : Nat) : NodeResult :=
  nodeAccess s (hwWrite s (s.graphLaunch g).ctx s.active (s.nodeAddr g c + off) (bytesOf n v))

/-- GRAPH_NODE_WHILE (R193). -/
def execGraphNodeWhile (s : State) : Host.Outcome State Fault Refusal :=
  .next (s.atNode 3 fun s g c b => (s.takeSlot g b).bind fun r =>
    if r.2 ≠ 0 && decide (nodeArg b < nodeCap b) then
      (r.1.putNode g c 24 4 (nodeArg b + 1)).map fun s => s.modCursor g c fun c => { c with node := nodeNext b }
    else
      let flags := if r.2 ≠ 0 && !bit (nodeFlags b) 7 then nodeFlags b + 128 else nodeFlags b
      (r.1.putNode g c 1 1 flags).bind fun s => (s.putNode g c 24 4 0).map fun s =>
        s.modCursor g c fun c => { c with node := nodeAlt b })

/-- GRAPH_NODE_JOIN (R193). -/
def execGraphNodeJoin (s : State) : Host.Outcome State Fault Refusal :=
  .next (s.atNode 4 fun s g c b =>
    let n := (nodeArg b + 1) % 2 ^ 32
    (s.putNode g c 24 4 (if n = nodeJoin b then 0 else n)).bind fun s =>
      if n = nodeJoin b then .ok (s.modCursor g c fun c => { c with node := nodeNext b }) else nodeAccess s (s.endCursor g c))

/-- GRAPH_NODE_END (R193). -/
def execGraphNodeEnd (s : State) : Host.Outcome State Fault Refusal :=
  .next (s.atNode 0 fun s g c _ => nodeAccess s (s.endCursor g c))

end Sys2Proof.Machine
end

