-- ==== Sys2Proof/Machine/Dispatch.lean ====
section
/-! DEFINITION. One arm per constructor of Instr: each instruction's meaning. -/

namespace Sys2Proof.Machine

/-- One step of one instruction or event. -/
def exec (i : Instr) (s : State) : Host.Outcome State Fault Refusal :=
  match i with
  | .clauseHeader h => Sys2Proof.Machine.execClauseHeader h s
  | .longLatencyComplete g f => Sys2Proof.Machine.execLongLatencyComplete g f s
  | .pathCompletion g p => Sys2Proof.Machine.execPathCompletion g p s
  | .watchdogMemwait g p => Sys2Proof.Machine.execWatchdogMemwait g p s
  | .waitmemWake g p => Sys2Proof.Machine.execWaitmemWake g p s
  | .waitmemRecheck g p => Sys2Proof.Machine.execWaitmemRecheck g p s
  | .mov w d a => Sys2Proof.Machine.execMov w d a s
  | .sel p d a b => Sys2Proof.Machine.execSel p d a b s
  | .iadd t d a b => Sys2Proof.Machine.execIadd t d a b s
  | .isub t d a b => Sys2Proof.Machine.execIsub t d a b s
  | .imul t d a b => Sys2Proof.Machine.execImul t d a b s
  | .imulh t d a b => Sys2Proof.Machine.execImulh t d a b s
  | .imad t d a b => Sys2Proof.Machine.execImad t d a b s
  | .idiv t d a b => Sys2Proof.Machine.execIdiv t d a b s
  | .irem t d a b => Sys2Proof.Machine.execIrem t d a b s
  | .imin t d a b => Sys2Proof.Machine.execImin t d a b s
  | .imax t d a b => Sys2Proof.Machine.execImax t d a b s
  | .icmp c pd a b => Sys2Proof.Machine.execIcmp c pd a b s
  | .lea k d a b => Sys2Proof.Machine.execLea k d a b s
  | .land w d a b => Sys2Proof.Machine.execLand w d a b s
  | .lor w d a b => Sys2Proof.Machine.execLor w d a b s
  | .lxor w d a b => Sys2Proof.Machine.execLxor w d a b s
  | .landn w d a b => Sys2Proof.Machine.execLandn w d a b s
  | .shl w d a b => Sys2Proof.Machine.execShl w d a b s
  | .shr w d a b => Sys2Proof.Machine.execShr w d a b s
  | .sar w d a b => Sys2Proof.Machine.execSar w d a b s
  | .rotl w d a b => Sys2Proof.Machine.execRotl w d a b s
  | .bfe sg d a b => Sys2Proof.Machine.execBfe sg d a b s
  | .bfi d a b => Sys2Proof.Machine.execBfi d a b s
  | .popc d a => Sys2Proof.Machine.execPopc d a s
  | .clz d a => Sys2Proof.Machine.execClz d a s
  | .ctz d a => Sys2Proof.Machine.execCtz d a s
  | .brev d a => Sys2Proof.Machine.execBrev d a s
  | .bswap d a => Sys2Proof.Machine.execBswap d a s
  | .perm d a b => Sys2Proof.Machine.execPerm d a b s
  | .plop o pd pa pb => Sys2Proof.Machine.execPlop o pd pa pb s
  | .idp4 g d a b => Sys2Proof.Machine.execIdp4 g d a b s
  | .window a => Sys2Proof.Machine.execWindow a s
  | .rdcntCycle d => Sys2Proof.Machine.execRdcntCycle d s
  | .rdcntTime d => Sys2Proof.Machine.execRdcntTime d s
  | .rdcntClauses d => Sys2Proof.Machine.execRdcntClauses d s
  | .rdcntPath d a => Sys2Proof.Machine.execRdcntPath d a s
  | .br p off => Sys2Proof.Machine.execBr p off s
  | .jmpr p a => Sys2Proof.Machine.execJmpr p a s
  | .call p off => Sys2Proof.Machine.execCall p off s
  | .ret p => Sys2Proof.Machine.execRet p s
  | .exit p => Sys2Proof.Machine.execExit p s
  | .joinat off => Sys2Proof.Machine.execJoinat off s
  | .trap a => Sys2Proof.Machine.execTrap a s
  | .ld w d a b => Sys2Proof.Machine.execLd w d a b s
  | .st w d a b => Sys2Proof.Machine.execSt w d a b s
  | .ldl w d a b => Sys2Proof.Machine.execLdl w d a b s
  | .stl w d a b => Sys2Proof.Machine.execStl w d a b s
  | .lds w d a b => Sys2Proof.Machine.execLds w d a b s
  | .sts w d a b => Sys2Proof.Machine.execSts w d a b s
  | .ldc w d a b => Sys2Proof.Machine.execLdc w d a b s
  | .stc w d a b => Sys2Proof.Machine.execStc w d a b s
  | .ldd w d a b => Sys2Proof.Machine.execLdd w d a b s
  | .std w d a b => Sys2Proof.Machine.execStd w d a b s
  | .ldb w d k b => Sys2Proof.Machine.execLdb w d k b s
  | .stb w d k b => Sys2Proof.Machine.execStb w d k b s
  | .atoms o d a b => Sys2Proof.Machine.execAtoms o d a b s
  | .atomg o d a b => Sys2Proof.Machine.execAtomg o d a b s
  | .redg o d a => Sys2Proof.Machine.execRedg o d a s
  | .atomc o d a b => Sys2Proof.Machine.execAtomc o d a b s
  | .fence sc k => Sys2Proof.Machine.execFence sc k s
  | .pfence pp pq => Sys2Proof.Machine.execPfence pp pq s
  | .waitp pp b => Sys2Proof.Machine.execWaitp pp b s
  | .waitmem sc a b => Sys2Proof.Machine.execWaitmem sc a b s
  | .btset k a b => Sys2Proof.Machine.execBtset k a b s
  | .tagset d a => Sys2Proof.Machine.execTagset d a s
  | .tagget d a => Sys2Proof.Machine.execTagget d a s
  | .tagptr d a b => Sys2Proof.Machine.execTagptr d a b s
  | .pref lv a b => Sys2Proof.Machine.execPref lv a b s
  | .fadd r d a b => Sys2Proof.Machine.execFadd r d a b s
  | .fsub r d a b => Sys2Proof.Machine.execFsub r d a b s
  | .fmul r d a b => Sys2Proof.Machine.execFmul r d a b s
  | .ffma r d a b => Sys2Proof.Machine.execFfma r d a b s
  | .fmin nm d a b => Sys2Proof.Machine.execFmin nm d a b s
  | .fmax nm d a b => Sys2Proof.Machine.execFmax nm d a b s
  | .fcmp c pd a b => Sys2Proof.Machine.execFcmp c pd a b s
  | .fclass d a => Sys2Proof.Machine.execFclass d a s
  | .fabs d a => Sys2Proof.Machine.execFabs d a s
  | .fneg d a => Sys2Proof.Machine.execFneg d a s
  | .frcp d a => Sys2Proof.Machine.execFrcp d a s
  | .frsq d a => Sys2Proof.Machine.execFrsq d a s
  | .fsqrt d a => Sys2Proof.Machine.execFsqrt d a s
  | .fexp2 d a => Sys2Proof.Machine.execFexp2 d a s
  | .flog2 d a => Sys2Proof.Machine.execFlog2 d a s
  | .fsin d a => Sys2Proof.Machine.execFsin d a s
  | .fcos d a => Sys2Proof.Machine.execFcos d a s
  | .ftanh d a => Sys2Proof.Machine.execFtanh d a s
  | .ffrac d a => Sys2Proof.Machine.execFfrac d a s
  | .fdiv r d a b => Sys2Proof.Machine.execFdiv r d a b s
  | .fround r d a => Sys2Proof.Machine.execFround r d a s
  | .hadd2 f d a b => Sys2Proof.Machine.execHadd2 f d a b s
  | .hmul2 f d a b => Sys2Proof.Machine.execHmul2 f d a b s
  | .hfma2 f d a b => Sys2Proof.Machine.execHfma2 f d a b s
  | .hmin2 f d a b => Sys2Proof.Machine.execHmin2 f d a b s
  | .hmax2 f d a b => Sys2Proof.Machine.execHmax2 f d a b s
  | .fdp2 f d a b => Sys2Proof.Machine.execFdp2 f d a b s
  | .cvtf r d a fm => Sys2Proof.Machine.execCvtf r d a fm s
  | .f2i c d a => Sys2Proof.Machine.execF2i c d a s
  | .i2f c d a => Sys2Proof.Machine.execI2f c d a s
  | .pack2 pm d a b => Sys2Proof.Machine.execPack2 pm d a b s
  | .qcvt r d a f => Sys2Proof.Machine.execQcvt r d a f s
  | .dqcvt e d a f => Sys2Proof.Machine.execDqcvt e d a f s
  | .mmaAcc mc t a b => Sys2Proof.Machine.execMmaAcc mc t a b s
  | .mmaSet mc t a b => Sys2Proof.Machine.execMmaSet mc t a b s
  | .mfmt a => Sys2Proof.Machine.execMfmt a s
  | .mclr t => Sys2Proof.Machine.execMclr t s
  | .mload t a => Sys2Proof.Machine.execMload t a s
  | .mseed a => Sys2Proof.Machine.execMseed a s
  | .mstat d t => Sys2Proof.Machine.execMstat d t s
  | .mdrain t a => Sys2Proof.Machine.execMdrain t a s
  | .mdrainMrow t a => Sys2Proof.Machine.execMdrainMrow t a s
  | .mtrq a b => Sys2Proof.Machine.execMtrq a b s
  | .qbind d ep => Sys2Proof.Machine.execQbind d ep s
  | .qunbind d => Sys2Proof.Machine.execQunbind d s
  | .qcount d a => Sys2Proof.Machine.execQcount d a s
  | .qdrain d => Sys2Proof.Machine.execQdrain d s
  | .cpyl a => Sys2Proof.Machine.execCpyl a s
  | .cpyt a => Sys2Proof.Machine.execCpyt a s
  | .cpym a => Sys2Proof.Machine.execCpym a s
  | .gath a b => Sys2Proof.Machine.execGath a b s
  | .scat d a b => Sys2Proof.Machine.execScat d a b s
  | .emitv d a => Sys2Proof.Machine.execEmitv d a s
  | .emitp a b => Sys2Proof.Machine.execEmitp a b s
  | .tload d a => Sys2Proof.Machine.execTload d a s
  | .tstore d a => Sys2Proof.Machine.execTstore d a s
  | .voteAll pd pa => Sys2Proof.Machine.execVoteAll pd pa s
  | .voteAny pd pa => Sys2Proof.Machine.execVoteAny pd pa s
  | .voteBallot d pa => Sys2Proof.Machine.execVoteBallot d pa s
  | .shfl sm d a b => Sys2Proof.Machine.execShfl sm d a b s
  | .scan sm d a => Sys2Proof.Machine.execScan sm d a s
  | .lred o d a => Sys2Proof.Machine.execLred o d a s
  | .bcast d a b => Sys2Proof.Machine.execBcast d a b s
  | .splitqLive d => Sys2Proof.Machine.execSplitqLive d s
  | .splitqLowest d => Sys2Proof.Machine.execSplitqLowest d s
  | .splitqCount d => Sys2Proof.Machine.execSplitqCount d s
  | .regroup id d fr n => Sys2Proof.Machine.execRegroup id d fr n s
  | .bar id => Sys2Proof.Machine.execBar id s
  | .cbar id => Sys2Proof.Machine.execCbar id s
  | .launchG a b => Sys2Proof.Machine.execLaunchG a b s
  | .launchL a b => Sys2Proof.Machine.execLaunchL a b s
  | .phaseend o a => Sys2Proof.Machine.execPhaseend o a s
  | .lvl lv d => Sys2Proof.Machine.execLvl lv d s
  | .lvlExt lv d => Sys2Proof.Machine.execLvlExt lv d s
  | .placeCl d a => Sys2Proof.Machine.execPlaceCl d a s
  | .placeDie d a => Sys2Proof.Machine.execPlaceDie d a s
  | .placeRect d a => Sys2Proof.Machine.execPlaceRect d a s
  | .placeFab d a => Sys2Proof.Machine.execPlaceFab d a s
  | .texs d a b => Sys2Proof.Machine.execTexs d a b s
  | .texl d a b => Sys2Proof.Machine.execTexl d a b s
  | .texf d a b => Sys2Proof.Machine.execTexf d a b s
  | .trace a => Sys2Proof.Machine.execTrace a s
  | .resume a b => Sys2Proof.Machine.execResume a b s
  | .commit a b => Sys2Proof.Machine.execCommit a b s
  | .rpalloc d => Sys2Proof.Machine.execRpalloc d s
  | .rpfree a => Sys2Proof.Machine.execRpfree a s
  | .march a => Sys2Proof.Machine.execMarch a s
  | .hgfetch d a b => Sys2Proof.Machine.execHgfetch d a b s
  | .stxt d a b => Sys2Proof.Machine.execStxt d a b s
  | .stxw d a b => Sys2Proof.Machine.execStxw d a b s
  | .tkwait a => Sys2Proof.Machine.execTkwait a s
  | .tkstat d a => Sys2Proof.Machine.execTkstat d a s
  | .coll o a b => Sys2Proof.Machine.execColl o a b s
  | .collPkg o a b => Sys2Proof.Machine.execCollPkg o a b s
  | .vbegin fr n => Sys2Proof.Machine.execVbegin fr n s
  | .srd d r => Sys2Proof.Machine.execSrd d r s
  | .swr d r => Sys2Proof.Machine.execSwr d r s
  | .mappg a b => Sys2Proof.Machine.execMappg a b s
  | .bkpt code => Sys2Proof.Machine.execBkpt code s
  | .pidx d => Sys2Proof.Machine.execPidx d s
  | .reservedOpcode w => Sys2Proof.Machine.execReservedOpcode w s
  | .deferredSplitStart => Sys2Proof.Machine.execDeferredSplitStart s
  | .watchdogBudget => Sys2Proof.Machine.execWatchdogBudget s
  | .watchdogQueue => Sys2Proof.Machine.execWatchdogQueue s
  | .headerYield => Sys2Proof.Machine.execHeaderYield s
  | .issueStarvation => Sys2Proof.Machine.execIssueStarvation s
  | .issueSelect => Sys2Proof.Machine.execIssueSelect s
  | .barRelease => Sys2Proof.Machine.execBarRelease s
  | .cbarRelease => Sys2Proof.Machine.execCbarRelease s
  | .regroupComplete => Sys2Proof.Machine.execRegroupComplete s
  | .groupEnd => Sys2Proof.Machine.execGroupEnd s
  | .completionWrite => Sys2Proof.Machine.execCompletionWrite s
  | .childAccept => Sys2Proof.Machine.execChildAccept s
  | .workgroupResident => Sys2Proof.Machine.execWorkgroupResident s
  | .scratchDrain => Sys2Proof.Machine.execScratchDrain s
  | .preempt => Sys2Proof.Machine.execPreempt s
  | .restore => Sys2Proof.Machine.execRestore s
  | .graphNodeKernel => Sys2Proof.Machine.execGraphNodeKernel s
  | .graphKernelDone => Sys2Proof.Machine.execGraphKernelDone s
  | .graphNodeCond => Sys2Proof.Machine.execGraphNodeCond s
  | .graphNodeWhile => Sys2Proof.Machine.execGraphNodeWhile s
  | .graphNodeJoin => Sys2Proof.Machine.execGraphNodeJoin s
  | .graphNodeEnd => Sys2Proof.Machine.execGraphNodeEnd s
  | .leaseExpiry => Sys2Proof.Machine.execLeaseExpiry s
  | .poolbaseWrite => Sys2Proof.Machine.execPoolbaseWrite s
  | .cpycmdCommand => Sys2Proof.Machine.execCpycmdCommand s
  | .copyUnit => Sys2Proof.Machine.execCopyUnit s
  | .engineFault => Sys2Proof.Machine.execEngineFault s
  | .gatherPush => Sys2Proof.Machine.execGatherPush s
  | .matrixExecute => Sys2Proof.Machine.execMatrixExecute s
  | .mdrainRow => Sys2Proof.Machine.execMdrainRow s
  | .sortSend => Sys2Proof.Machine.execSortSend s
  | .squareStart => Sys2Proof.Machine.execSquareStart s
  | .batchDispatch => Sys2Proof.Machine.execBatchDispatch s
  | .tnextRelease => Sys2Proof.Machine.execTnextRelease s
  | .tdoneWriteout => Sys2Proof.Machine.execTdoneWriteout s
  | .raySuspend => Sys2Proof.Machine.execRaySuspend s
  | .rayDone => Sys2Proof.Machine.execRayDone s
  | .rayFault => Sys2Proof.Machine.execRayFault s
  | .rayAbandon => Sys2Proof.Machine.execRayAbandon s
  | .rayBatchPush => Sys2Proof.Machine.execRayBatchPush s
  | .marchBatch => Sys2Proof.Machine.execMarchBatch s
  | .handlerEntry => Sys2Proof.Machine.execHandlerEntry s
  | .fatalFault => Sys2Proof.Machine.execFatalFault s
  | .ticketResume => Sys2Proof.Machine.execTicketResume s
  | .ticketKill => Sys2Proof.Machine.execTicketKill s
  | .ticketEndContext => Sys2Proof.Machine.execTicketEndContext s
  | .freeze => Sys2Proof.Machine.execFreeze s
  | .rd => Sys2Proof.Machine.execRd s
  | .rdo => Sys2Proof.Machine.execRdo s
  | .wr => Sys2Proof.Machine.execWr s
  | .atom => Sys2Proof.Machine.execAtom s
  | .inv => Sys2Proof.Machine.execInv s
  | .ack => Sys2Proof.Machine.execAck s
  | .data => Sys2Proof.Machine.execData s
  | .fwd => Sys2Proof.Machine.execFwd s
  | .wb => Sys2Proof.Machine.execWb s
  | .nack => Sys2Proof.Machine.execNack s
  | .nackResend => Sys2Proof.Machine.execNackResend s
  | .ctrl => Sys2Proof.Machine.execCtrl s
  | .controlRegisterWrite => Sys2Proof.Machine.execControlRegisterWrite s
  | .routeWrite => Sys2Proof.Machine.execRouteWrite s
  | .regionWrite => Sys2Proof.Machine.execRegionWrite s
  | .ringctlWrite => Sys2Proof.Machine.execRingctlWrite s
  | .prim => Sys2Proof.Machine.execPrim s
  | .close => Sys2Proof.Machine.execClose s
  | .directoryMerge => Sys2Proof.Machine.execDirectoryMerge s
  | .migrationCommand => Sys2Proof.Machine.execMigrationCommand s
  | .migrationCopy => Sys2Proof.Machine.execMigrationCopy s
  | .migbaseWrite => Sys2Proof.Machine.execMigbaseWrite s
  | .tstorePacket => Sys2Proof.Machine.execTstorePacket s
  | .watch => Sys2Proof.Machine.execWatch s
  | .release => Sys2Proof.Machine.execRelease s
  | .fail => Sys2Proof.Machine.execFail s
  | .poll => Sys2Proof.Machine.execPoll s
  | .watchRepoll => Sys2Proof.Machine.execWatchRepoll s
  | .landed => Sys2Proof.Machine.execLanded s
  | .denied => Sys2Proof.Machine.execDenied s
  | .expired => Sys2Proof.Machine.execExpired s
  | .refuse => Sys2Proof.Machine.execRefuse s
  | .refuseResend => Sys2Proof.Machine.execRefuseResend s
  | .tokenHoldExpiry => Sys2Proof.Machine.execTokenHoldExpiry s
  | .tokenRetire => Sys2Proof.Machine.execTokenRetire s
  | .collTransfer => Sys2Proof.Machine.execCollTransfer s
  | .fabricPacket => Sys2Proof.Machine.execFabricPacket s
  | .flitData => Sys2Proof.Machine.execFlitData s
  | .flitIdle => Sys2Proof.Machine.execFlitIdle s
  | .flitCtrl => Sys2Proof.Machine.execFlitCtrl s
  | .keymark => Sys2Proof.Machine.execKeymark s
  | .linkDown => Sys2Proof.Machine.execLinkDown s
  | .heartbeat => Sys2Proof.Machine.execHeartbeat s
  | .standbyTakeover => Sys2Proof.Machine.execStandbyTakeover s
  | .coldReset => Sys2Proof.Machine.execColdReset s
  | .warmReset => Sys2Proof.Machine.execWarmReset s
  | .mgmtIdentity => Sys2Proof.Machine.execMgmtIdentity s
  | .mgmtAttest => Sys2Proof.Machine.execMgmtAttest s
  | .mgmtTelemetry => Sys2Proof.Machine.execMgmtTelemetry s
  | .mgmtBlackbox => Sys2Proof.Machine.execMgmtBlackbox s
  | .mgmtHalt => Sys2Proof.Machine.execMgmtHalt s
  | .mgmtResume => Sys2Proof.Machine.execMgmtResume s
  | .mgmtSaveread => Sys2Proof.Machine.execMgmtSaveread s
  | .mgmtWarmreset => Sys2Proof.Machine.execMgmtWarmreset s
  | .mgmtColdreset => Sys2Proof.Machine.execMgmtColdreset s
  | .selectWrite => Sys2Proof.Machine.execSelectWrite s
  | .stepEntryWrite => Sys2Proof.Machine.execStepEntryWrite s
  | .clockRefLoss => Sys2Proof.Machine.execClockRefLoss s
  | .fallbackClear => Sys2Proof.Machine.execFallbackClear s
  | .droopStretch => Sys2Proof.Machine.execDroopStretch s
  | .thermalTrip => Sys2Proof.Machine.execThermalTrip s
  | .patrolScrub => Sys2Proof.Machine.execPatrolScrub s
  | .nop => Sys2Proof.Machine.execNop s
  | .yield => Sys2Proof.Machine.execYield s
  | .emitend => Sys2Proof.Machine.execEmitend s
  | .tnext => Sys2Proof.Machine.execTnext s
  | .tdone => Sys2Proof.Machine.execTdone s
  | .vend => Sys2Proof.Machine.execVend s
  | .rft => Sys2Proof.Machine.execRft s
  | .kill => Sys2Proof.Machine.execKill s
  | .haltall => Sys2Proof.Machine.execHaltall s
  | .tkwaitHoldExpiry => Sys2Proof.Machine.execTkwaitHoldExpiry s
  | .clockRefReturn => Sys2Proof.Machine.execClockRefReturn s
  | .linkUp => Sys2Proof.Machine.execLinkUp s

end Sys2Proof.Machine
end

