-- ==== Sys2Proof/Machine/Scheduler.lean ====
section
/-! DEFINITION. What happens next: the split that issues, or an event of the machine's other agents (R11, R25, R191, R356,
R375, R439). The order among agents is free (log 16). -/

namespace Sys2Proof.Machine

open Sys2Proof

/-! ### The events that may happen -/

/-- Completions: results are written, paths drain, and packets and stores on their way arrive. They go on during a halt
(R375). -/
def completions (s : State) : List Instr :=
  ((s.groups.filter s.live).flatMap fun g =>
    (g.flights.map fun f => Instr.longLatencyComplete g.id f.id) ++ (List.range 11).map fun p => Instr.pathCompletion g.id p) ++
  [.rd, .rdo, .wr, .atom, .inv, .ack, .data, .fwd, .wb, .nack, .nackResend, .ctrl, .watch, .release, .fail, .poll, .landed,
   .denied, .expired, .refuse, .refuseResend, .tstorePacket, .prim, .close, .fabricPacket, .flitIdle, .flitData, .flitCtrl,
   .keymark, .linkDown, .directoryMerge]

/-- The management port's requests (R449). -/
def serviceOps : List Instr :=
  [.mgmtIdentity, .mgmtAttest, .mgmtTelemetry, .mgmtBlackbox, .mgmtHalt, .mgmtResume, .mgmtSaveread, .mgmtWarmreset,
   .mgmtColdreset]

/-- What a parked split of a WAITMEM may do: a wake is polled; its recheck and its limit fall due (R256). -/
def parkedEvents (s : State) : List Instr :=
  (s.splitsWhere fun _ p => p.hold = .waitmem && p.pend.isNone).flatMap fun e =>
    .waitmemWake e.1.id e.2.id ::
    (if e.2.parkedAt + 4000 ≤ s.ns then [.waitmemRecheck e.1.id e.2.id] else []) ++
    (if (queueLimit e.1).elim false fun n => decide (e.2.holdSince + n < s.cycle) then [.watchdogMemwait e.1.id e.2.id] else [])

/-- Events of the control unit that is active; none while it is frozen (R373, R439). -/
def controlEvents (s : State) : List Instr :=
  if s.frozen.contains (s.active, .control) then []
  else [.childAccept, .completionWrite, .graphNodeKernel, .graphKernelDone, .graphNodeCond, .graphNodeWhile, .graphNodeJoin,
        .graphNodeEnd]

/-- A ray batch is full, or its first slot entered 256 cycles ago (R338). -/
def State.batchDue (s : State) : Bool :=
  s.batches.any fun e => decide (32 ≤ e.2.2.slots.length) || decide (e.2.2.since + 256 ≤ s.cycle)

/-- Events of splits, distributors, engines and timers; a halt suspends them (R375). -/
def agentEvents (s : State) : List Instr :=
  [.deferredSplitStart, .watchdogQueue, .barRelease, .cbarRelease, .regroupComplete, .groupEnd, .workgroupResident, .preempt,
   .restore, .poolbaseWrite, .cpycmdCommand, .copyUnit, .engineFault, .gatherPush, .matrixExecute, .mdrainRow, .sortSend,
   .squareStart, .batchDispatch, .tnextRelease, .tdoneWriteout, .raySuspend, .rayDone, .rayFault, .rayAbandon, .marchBatch,
   .handlerEntry, .controlRegisterWrite, .routeWrite, .regionWrite, .ringctlWrite, .migrationCommand, .migrationCopy,
   .migbaseWrite, .watchRepoll, .tokenHoldExpiry, .tokenRetire, .collTransfer, .selectWrite, .stepEntryWrite,
   .tkwaitHoldExpiry] ++
  (if s.batchDue then [.rayBatchPush] else []) ++ controlEvents s ++ parkedEvents s

/-- A lease of something cached has ended (R219). -/
def State.leaseOver (s : State) : Bool := s.leaseEnds.any fun e => decide (e ≤ s.ns)

/-- The heartbeat is due (R439). -/
def State.heartbeatDue (s : State) : Bool :=
  s.active = 48 && decide (s.heartbeat + 10000 ≤ s.ns) && !s.frozen.contains (48, .control)

/-- Events that no other event comes before: fatal faults, ended leases, the heartbeat, a takeover. -/
def State.urgent? (s : State) : Option Instr :=
  if !s.fatals.isEmpty then some .fatalFault
  else if s.leaseOver then some .leaseExpiry
  else if s.standbyDue then some .standbyTakeover
  else if s.heartbeatDue then some .heartbeat
  else none

/-! ### Violations found by ports (R373, R387, R428) -/

/-- A malformed packet freezes the mesh port it reaches. -/
def State.malformedPort (s : State) : Option (Nat × Master) :=
  (s.packets.find? fun p => p.malformed && !s.frozen.contains (s.portReached p)).map s.portReached

/-- A result port of a group has no room for an engine's entry. -/
def Group.noRoom (g : Group) (code : EnginePort) : Bool := (g.portOf code).elim false g.portFull && !g.empty

/-- An instruction's work is in units and does not wait for room: in a port or ring, or at a refusing owner or a hold queue (R373;
log 47). -/
def State.timed (s : State) (g : Group) (f : Flight) : Bool :=
  match f.work with
  | .copy _ | .mstat .. | .coll .. | .writeout | .tstore _ | .tload .. => true
  | .matrix j => j.kind ≠ 5 || !g.noRoom .mrow
  | .mrow _ => !g.noRoom .mrow
  | .gather .. => !g.noRoom .gather
  | .march .. => !g.noRoom .msample && (s.marches.any fun m => m.g.id = g.id && m.f.id = f.id && m.room)
  | .sort _ => !(s.packets.any fun p => p.refused && s.sorts.any fun q => q.id = p.tag && q.group = g.id && q.flight = f.id)
  | .results .. | .performed | .tokens _ => false

/-- An instruction whose engine has completed no unit of it for 2^26 cycles, while no fault of it waits for its delivery. -/
def State.idleLong (s : State) (g : Group) (f : Flight) : Bool :=
  !f.done && !f.stopped && decide (f.unitAt + 2 ^ 26 ≤ s.cycle) && s.timed g f

/-- A ray that has not gone on for 2^26 cycles. -/
def Group.idleRay (g : Group) (now : Nat) : Bool := g.rays.any fun r => !r.abandoned && decide (r.unitAt + 2 ^ 26 ≤ now)

/-- Another instruction of a group's engine has had a unit completed in the last 2^26 cycles. -/
def State.engineMoves (s : State) (g : Group) (q : Path) : Bool :=
  s.groups.any fun h => h.die = g.die && h.core = g.core && h.flights.any fun f =>
    (f.path = some q && decide (f.issued < f.unitAt) && decide (s.cycle < f.unitAt + 2 ^ 26)) ||
    (q = .ray && h.rays.any fun r => decide (s.cycle < r.unitAt + 2 ^ 26))

/-- An engine that holds work and completes no unit for 2^26 cycles (R373). -/
def State.stuckEngine (s : State) : Option (Nat × Master) :=
  let stuck (g : Group) (q : Path) : Option (Nat × Master) :=
    if s.engineLive g q && !s.stoppingGroup g && !s.engineMoves g q then some (g.die, .engine g.core (Path.code q)) else none
  s.groups.findSome? fun g =>
    (g.flights.findSome? fun f => f.path.bind fun q => if s.idleLong g f then stuck g q else none).or
      (if g.idleRay s.cycle then stuck g .ray else none)

/-- The master that freezes next. -/
def State.violation? (s : State) : Option (Nat × Master) := s.malformedPort.or s.stuckEngine

/-! ### Issue (R11, R25, R191, R356) -/

/-- The clause that a return from the handler resumes: LEFT + 1 words at SR_TPC under SR_TSTATE (R356). -/
def resumedClause (p : Split) (t : DWord × DWord) (ws : List Word) : Clause :=
  let v := t.1.toNat
  { at_ := t.2, base := p.pc, words := ws, idx := 0, active := BitVec.ofNat 32 v &&& p.mask, setx := bits v 32 4,
    sety := bits v 36 4, att := bit v 40, only := false }

/-- Fetch the words of a resumption; a fault is precise where the split stands, SR_TSTATE unchanged (R356). -/
def State.fetchResumed (s : State) (g : Group) (p : Split) (t : DWord × DWord) : State :=
  match fetchWords s g.agent p.pc.toNat (bits t.1.toNat 52 4 + 1) with
  | .error (some f) => s.raise g.id p.id f
  | .error none => s.holdSplit g.id p.id .flag
  | .ok (s, ws) => s.modSplit g.id p.id fun p => { p with clause := some (resumedClause p t ws), resume := none, hold := .none }

/-- What the machine does next: an instruction or event in a state, or a state reached without one. -/
abbrev Plan := State × Option Instr

/-- At a header: an engine fault, the watchdog, or the header's word (R11, R25, R34, R144, R268). -/
def State.planHeader (s : State) (g : Group) (p : Split) : Plan :=
  match g.engineFaultFor p with
  | some e => (s.raiseEngine g.id p.id e, none)
  | none =>
    if s.spent?.isSome then (s, some .watchdogBudget)
    else match fetchWords s g.agent p.pc.toNat 1 with
      | .error (some t) => (s.raise g.id p.id t, none)
      | .error none => (s.holdSplit g.id p.id .flag, none)
      | .ok (s', ws) =>
        match decodeHeader (ws.headD 0) with
        | some h => (s', some (.clauseHeader h))
        | none => (s'.raise g.id p.id (trap .badHeader), none)

/-- The instruction that a word of a clause is (R34, R41). -/
def wordInstr (w : Word) : Instr :=
  match decode w with
  | .ok i => i
  | _ => .reservedOpcode w

/-- The issuing split's next word. -/
def State.planIssue (s : State) : Plan :=
  match s.cur with
  | none => (s, none)
  | some (gid, pid) =>
    match s.group? gid with
    | none => (s, none)
    | some g => match g.split? pid with
      | none => (s, none)
      | some p =>
        if !s.runnable g p then (s, none)
        else match p.clause with
          | some c => (s, some (wordInstr (c.words.getD c.idx 0)))
          | none =>
            match p.resume with
            | some t => (s.fetchResumed g p t, none)
            | none => if s.rival?.isSome then (s, some .headerYield) else s.planHeader g p

/-! ### The plan -/

/-- A number that picks what happens next. Every other one is free; those between take what there is in rotation, so that nothing waits
for ever (R242, R389; log 16). -/
def State.choice (s : State) : Nat := if s.fair / 2 % 2 = 0 then Config.schedule s.tick s.cycle else s.fair / 4

/-- What the order of accesses leaves open, as a number says it. -/
def Loose.ofNat (n : Nat) : Loose :=
  { delay := BitVec.ofNat 32 n, late := BitVec.ofNat 32 (n / 2 ^ 32), old := bit n 64, hit := bit n 65, fill := bit n 66,
    slow := bit n 67, ahead := bit n 68 }

/-- A turn of the machine's agents, or the choice of a split: what the order of its accesses leaves open is chosen with it (log 6). -/
def State.roll (s : State) : State := { s with loose := Loose.ofNat (Config.order s.tick s.cycle), fair := s.fair + 1 }

/-- An event of a list, or none of it. -/
def State.planFrom (s : State) (es : List Instr) : Plan :=
  let k := s.choice
  ({ s.roll with chosen := k / (es.length + 1) }, es[k % (es.length + 1)]?)

/-- The TRACECMD entries that wait at a traversal unit's ports: taking one is an event without a row of its own (R329). -/
def State.takeTraces (s : State) : State :=
  match s.pick s.traceCmds with
  | some (g, n, e) => s.takeTrace g n e
  | none => s

/-- The lanes' writes that are issued and not performed, with their instructions. -/
def State.lateWrites (s : State) : List (Group × Flight × LaneWrite) :=
  s.groups.flatMap fun g => if s.live g then g.flights.flatMap fun f => f.writes.map fun w => (g, f, w) else []

/-- One lane's write is performed before its instruction completes, so that other lanes of it are seen without it (R224, R230). -/
def State.settleWrite (s : State) : State :=
  match s.pick s.lateWrites with
  | none => s
  | some (g, f, w) => s.flushWrites g { f with writes := [w] } fun _ => true

/-- A host-core thread: a workgroup of one one-lane group of 512 registers with a slice of 65,536 bytes (R9, R10, R155, R201, R438). It starts in context 0 at an
address that boot's images give (log 12). -/
def hostThread (id die core k : Nat) : Group :=
  let e := Config.firmwareEntry die core k
  { id, wg := id, ctx := 0, die, core, grpx := 0, slot := k, sliceSize := 65536, regCount := 512, retired := 0xFFFFFFFE, entry := e,
    isHost := true, sys := Config.systemThread die core k, splits := [{ id := 0, mask := 1, pc := e, wdog := 0x100000 }] }

/-- Boot starts host firmware, and it system code, on the 24 host cores of 4 threads of every rim die (R438, R441). -/
def State.startFirmware (s : State) : State :=
  if s.firmware then s
  else
    let at_ (n : Nat) : Group := hostThread (s.nextId + n) (48 + n / 96) (n / 4 % 24) (n % 4)
    { s with firmware := true, groups := s.groups ++ (List.range 384).map at_, nextId := s.nextId + 384 }

/-- Actions that no table row names: a request with a bad OP is refused, boot's last step, a write is performed, a TRACECMD entry is
taken, another package answers. -/
def State.unnamed (s : State) : State :=
  let t := { s with chosen := s.chosen / 5 }
  match s.chosen % 5 with
  | 0 => t.dropUnknown
  | 1 => t.startFirmware
  | 2 => t.settleWrite
  | 3 => t.takeTraces
  | _ => t.farDoes

/-- A request with a bad OP is refused where nothing else of a plan happens. -/
def Plan.orRefused (p : Plan) : Plan :=
  match p.2 with
  | some i => (p.1, some i)
  | none => (p.1.dropUnknown, none)

/-- An event: urgent ones first, then violations, then any other, in a free order. -/
def State.planEvent (s : State) : Plan :=
  match s.urgent? with
  | some i => (s, some i)
  | none =>
    match s.violation? with
    | some (d, m) => ({ s with chosen := d + 64 * m.code }, some .freeze)
    | none =>
      let p := s.planFrom (completions s ++ serviceOps ++ agentEvents s)
      match p.2 with
      | some i => (p.1, some i)
      | none => (p.1.unnamed, none)

/-- While halted: completions, requests and urgent events (R375). -/
def State.planHalted (s : State) : Plan :=
  match s.urgent? with
  | some i => (s, some i)
  | none => (s.planFrom (completions s ++ serviceOps)).orRefused

/-- The next split is chosen: one that starves first (R143, R191). -/
def State.planSelect (s : State) : Plan :=
  if s.starving.isEmpty then ({ s.roll with chosen := s.choice }, some .issueSelect) else (s.roll, some .issueStarvation)

/-- What the machine does next. What its agenda holds comes first; without power or boot little else happens (R441, R447);
a split that has been selected issues; selection and the other agents take turns. -/
def State.plan (s : State) : Plan :=
  match s.agenda with
  | h :: t => ({ s with agenda := t, chosen := h.chosen }, some h.event)
  | [] =>
    if !s.powered then (s, none)
    else if !s.booted then (s.planFrom serviceOps).orRefused
    else if s.halted then s.planHalted
    else if s.granted then { s with granted := false }.planIssue
    else if s.turn then { s with turn := false }.planSelect
    else { s with turn := true }.planEvent

/-- The last moments at which the accesses of an instruction that are not performed may be (R219). -/
def Flight.limits (f : Flight) : List Nat :=
  (f.writes.filterMap (·.home) ++ f.late.filterMap (·.home) ++ f.atoms.filterMap (·.home)).map fun h => h.limit

/-- The moment has come for an access that used a translation: time stands until it is performed (R219; log 5), unless a frozen master
may be what holds it. -/
def State.lastMoment (s : State) : Bool :=
  s.frozen.isEmpty && s.groups.any fun g => s.live g && g.flights.any fun f => f.limits.any fun n => n ≠ 0 && decide (n ≤ s.ns)

/-- Time passes with every step (log 5). -/
def State.clock (s : State) : State := { s with cycle := s.cycle + 1, ns := if s.lastMoment then s.ns else s.ns + 1 }

/-- One step: time passes, and what is planned happens. -/
def runPlan (p : Plan) : Host.Outcome State Fault Refusal :=
  match p.2 with
  | some i => exec i p.1
  | none => .next p.1

/-! ### Placing an instruction (log 2) -/

/-- A group of one split on render die 0, core 0, in context 0, whose split has just been selected. -/
def placedGroup (id : Nat) (c : Option Clause) : Group :=
  { id, wg := id + 1, ctx := 0, die := 0, core := 0, grpx := 0, slot := 0, regCount := 96,
    splits := [{ id := 0, mask := 0xFFFFFFFF, pc := 0, clause := c, wdog := 0x100000 }] }

/-- The machine with that group, whose split issues next. -/
def State.withGroup (s : State) (c : Option Clause) : State :=
  { s with groups := s.groups ++ [placedGroup s.nextId c], nextId := s.nextId + 2, cur := some (s.nextId, 0), granted := true,
           agenda := [], powered := true, booted := true, halted := false, frozen := [] }

/-- A word as the next word of the group's clause, with a literal of 0 where the instruction takes one. -/
def State.placeWord (s : State) (w : Word) (i : Instr) : State :=
  s.withGroup (some { at_ := 0, base := 4, words := w :: List.replicate (wordCount i - 1) 0, idx := 0, active := 0xFFFFFFFF,
                      setx := 0, sety := 0, att := false, only := false })

/-- A header at virtual address 0 of context 0, in a page of die 0's heap with R and X; the words after it are 0. -/
def State.placeHeader (s : State) (w : Word) : State :=
  let table (n : Nat) : Nat := n * 2 ^ 15
  let s := { s with tlb := [], poison := [] }.modContext 0 fun c => { c with ptbr := BitVec.ofNat 64 (table 1), stopped := false }
  let s := s.physWrite 0 (table 1) 8 (table 2 + 1)
  let s := s.physWrite 0 (table 2) 8 (table 3 + 1)
  let s := s.physWrite 0 (table 3) 8 (table 4 + 1)
  let s := s.physWrite 0 (table 4) 8 (table 5 + 0x1017)
  (s.physWrite 0 (table 5) 4 w.toNat).withGroup none

end Sys2Proof.Machine
end

