-- ==== Sys2Proof/Machine/Step.lean ====
section
/-! DEFINITION. One step of the machine, and the placing of one instruction where the next step fetches it. -/

namespace Sys2Proof.Machine

open Sys2Proof

/-- One step: time passes, then what comes next happens. -/
def step (s : State) : Host.Outcome State Fault Refusal := runPlan s.clock.plan

/-- The state whose next step runs the instruction with these bits: a word that names an instruction is the next word of a
split's clause, a header stands at a split's address (log 2). -/
def State.withFetchWord (s : State) (nbits w : Nat) : State :=
  let v : Word := BitVec.ofNat 32 (w % 2 ^ nbits)
  match decodeTableWord nbits w with
  | some (.clauseHeader _) => s.placeHeader v
  | some i => s.placeWord v i
  | none => s.placeWord v (.reservedOpcode v)

end Sys2Proof.Machine
end

