-- ==== Sys2Proof/Safety.lean ====
section
/-! DEFINITION. What counts as a safe run, and the words the statements are written in: when a word issues, what a short
instruction writes, and what stays as it was. -/

namespace Sys2Proof.Safety

open Sys2Proof Sys2Proof.Machine

/-! ### Safe runs -/

/-- An outcome that goes on. -/
def goesOn (o : Host.Outcome State Fault Refusal) : Prop := ∃ t, o = .next t

/-- Memory and tags keep their canonical form: keys rise strictly and no entry is the value an unlisted key reads as. -/
def Canonical (s : State) : Prop := Memory.wf s.mem = true ∧ swf s.tags = true

/-- Nothing but the machine itself decides the next step: no happening waits on the agenda. -/
def Quiet (s : State) : Prop := s.agenda = []

/-- The tables of fixed size keep it: 64 contexts, 52 dies, 128 queues, 640 islands (R127, R182, R382, R444). -/
def TablesWhole (s : State) : Prop :=
  s.contexts.length = 64 ∧ s.dies.length = 52 ∧ s.queues.length = 128 ∧ s.islands.length = 640

/-- A safe step: the machine goes on, and its memory stays canonical. -/
def SafeStep (s : State) : Prop := goesOn (step s) ∧ ∀ t, step s = .next t → Canonical t

/-! ### Issue -/

/-- The word of an instruction issues: no check of R41 faults and no hold keeps it, and `x` is what its own effect sees. -/
def Issues (i : Instr) (s : State) (x : Ctx) : Prop :=
  ∃ g p c, s.issuer = some (g, p, c) ∧ preIssue i s g p c = .go x

/-- The split moves on from its word in a state (R11). -/
def moveOn (x : Ctx) (s : State) : State := s.advance x.g.id x.p.id (wordCount x.i)

/-- A change of the issuing group. -/
def onGroup (x : Ctx) (f : Group → Group) : State := x.s.modGroup x.g.id f

/-- The next state of an instruction is this one. -/
def Completes (i : Instr) (s t : State) : Prop := exec i s = .next t

/-- The flight that an instruction of a path becomes, with its work. -/
def flightOf (x : Ctx) (path : Option Path) (flag : Option Nat) (w : Work) : Flight :=
  { id := 0, split := x.p.id, mask := x.issueMask, lanes := x.p.mask, flag, path, handlerMode := x.p.handler, issued := x.s.cycle,
    unitAt := x.s.cycle, work := w }

/-- The group after a short instruction of a path has become outstanding (R18), with its writes not yet performed and the lines whose
ownership its die asked for. -/
def underWay (x : Ctx) (w : Work) (g : Group) (writes : List LaneWrite := []) (lines : List Nat := []) (fault : Option Trap := none) :
    Group :=
  g.addFlight { flightOf x x.i.path none w with
    long := isLongRun x.i, word := x.c.words.getD x.c.idx 0, ops := x.captured, fmt := x.g.fmt.getD [], writes, lines, fault }

/-- A word of a path with no lane active only takes its turn on the path (R13, R18). -/
def passes (x : Ctx) : State :=
  match x.i.path with
  | some q => onGroup x fun g => g.passOver q
  | none => x.s

/-- The group after a long-latency instruction has attached, its results waiting to be written (R14), with its reads that are not
fixed and the lines whose ownership its die asked for (R226, R239). -/
def awaiting (x : Ctx) (o : Out) (bt : Option (Nat × BtEntry)) (fault : Option Trap) (late : List LateRead) (lines : List Nat)
    (g : Group) : Group :=
  (x.attached g).addFlight { flightOf x x.i.path x.c.flag (.results o.ds o.push bt) with fault, late, lines }

/-- A word is held after part of its effect: a word that acts keeps the entries that it took from its ports (R262). -/
def heldWith (x : Ctx) (s : State) (h : Hold) : State :=
  (if acts x.i x.c then s.modSplit x.g.id x.p.id fun p => { p with taken := x.popped } else s).holdSplit x.g.id x.p.id h

/-- A write stays with its instruction: the step delays it, or its die may not write the line as it stands (R226, R398). -/
def delayed (x : Ctx) (s : State) (w : LaneWrite) : Bool := inMask s.loose.delay w.lane || !s.homeReady x.g none w.home

/-- The writes that are performed as an instruction issues, and those that stay with it (R226, R230). -/
def nowOf (x : Ctx) (s : State) (ws : List LaneWrite) : List LaneWrite := ws.filter fun w => !delayed x s w
def lateOf (x : Ctx) (s : State) (ws : List LaneWrite) : List LaneWrite := ws.filter (delayed x s)

/-! ### Memory instructions -/

/-- A level load's level, width and operands (R244). -/
def levelLoad : Instr → Option (Level4 × LWidth × Operand × Operand × Operand)
  | .ldl w d a b => some (.lane, w, d, a, b)
  | .lds w d a b => some (.scratch, w, d, a, b)
  | .ldc w d a b => some (.cluster, w, d, a, b)
  | .ldd w d a b => some (.die, w, d, a, b)
  | _ => none

/-- A level store's level, width and operands (R244). -/
def levelStore : Instr → Option (Level4 × SWidth × Operand × Operand × Operand)
  | .stl w d a b => some (.lane, w, d, a, b)
  | .sts w d a b => some (.scratch, w, d, a, b)
  | .stc w d a b => some (.cluster, w, d, a, b)
  | .std w d a b => some (.die, w, d, a, b)
  | _ => none

/-- A level atomic's level, op and operands (R249). -/
def levelAtomic : Instr → Option (Level4 × AtomicOp × Operand × Operand × Operand)
  | .atoms o d a b => some (.scratch, o, d, a, b)
  | .atomc o d a b => some (.cluster, o, d, a, b)
  | _ => none

/-- A level access of these lanes passes its checks: every address is aligned, and none is out of bounds (R198). -/
def levelClear (x : Ctx) (lv : Level4) (lanes : List Nat) (a b : Operand) (size : Nat) : Prop :=
  ∀ l ∈ lanes, x.levelAddr a b l % size = 0 ∧ ∀ c, x.s.reach x.g lv l (x.levelAddr a b l) size ≠ .bad c

/-- What a lane reads at its level address: the bytes there, 0 beyond its slice (R199). -/
def levelValue (x : Ctx) (lv : Level4) (a b : Operand) (size l : Nat) : Nat :=
  match x.s.reach x.g lv l (x.levelAddr a b l) size with
  | .key k => x.s.readMem k size
  | _ => 0

/-- Every lane's access stays in this package's memory. -/
def allCells (gs : List (Nat × Grant)) : Prop := ∀ e ∈ gs, ∃ k h, e.2.place = .cell k h

/-- The issuing split writes straight to memory: it is in no unhardened versioned region (R361). -/
def writesThrough (x : Ctx) : Prop := ∀ r, x.g.region = some r → x.p.opener = false ∨ r.hard = true

/-- The bytes that lanes store: at each lane's key, and at the keys of its other copies (R103, R393). -/
def storedAt (gs : List (Nat × Grant)) (f : Nat → List Byte) (k : Nat) : Prop :=
  ∃ e ∈ gs, ∃ j home, e.2.place = .cell j home ∧ ∃ n ∈ j :: e.2.copies, n ≤ k ∧ k < n + (f e.1).length

/-! ### Results (R29–R31, R81) -/

/-- No sticky flag. -/
def quietly (n : Nat) : Nat × FFlags := (n, {})

/-- A truth value as 0 or 1. -/
def ofBool (b : Bool) : Nat := b.toNat

/-- The value of a two's-complement or unsigned operand (R83). -/
def intOf (x : Ctx) (w64 sg : Bool) (o : Operand) (l : Nat) : Int :=
  let n := x.val w64 o l
  let w := if w64 then 64 else 32
  if sg && decide (2 ^ (w - 1) ≤ n) then (n : Int) - (2 ^ w : Nat) else n

/-- An exact integer reduced to 32 or 64 bits (R57). -/
def reduce (w64 : Bool) (t : Int) : Nat := (t % ((2 ^ (if w64 then 64 else 32) : Nat) : Int)).toNat

/-- The exact sum kept in the range of a saturating type (R83). -/
def saturate (t : AType) (z : Int) : Int :=
  match t with
  | .i32sat => max (-2147483648) (min 2147483647 z)
  | .n32sat => max 0 (min 4294967295 z)
  | _ => z

/-- Shift distance: b modulo the width (R87). -/
def shiftBy (x : Ctx) (w : Wide) (b : Operand) (l : Nat) : Nat := x.val w.is64 b l % (if w.is64 then 64 else 32)

/-- What a lane of an integer instruction is written: its destination, whether it is a pair, and the value (R82–R92). -/
def intResult (i : Instr) (x : Ctx) : Option (Operand × Bool × (Nat → Nat)) :=
  match i with
  | .mov w d a => some (d, w.is64, fun l => x.val w.is64 a l)
  | .sel p d a b => some (d, false, fun l => if (x.g.pred p.p.val l) = p.inv then x.val false b l else x.val false a l)
  | .iadd t d a b => some (d, t.is64, fun l =>
      reduce t.is64 (saturate t (intOf x t.is64 (aSigned t) a l + intOf x t.is64 (aSigned t) b l)))
  | .isub t d a b => some (d, t.is64, fun l =>
      reduce t.is64 (saturate t (intOf x t.is64 (aSigned t) a l - intOf x t.is64 (aSigned t) b l)))
  | .imad t d a b => some (d, t.is64, fun l =>
      reduce t.is64 (saturate t (intOf x t.is64 (aSigned t) a l * intOf x t.is64 (aSigned t) b l + intOf x t.is64 (aSigned t) d l)))
  | .imul t d a b => some (d, t.is64, fun l => reduce t.is64 (intOf x t.is64 (iSigned t) a l * intOf x t.is64 (iSigned t) b l))
  | .imulh t d a b => some (d, t.is64, fun l =>
      reduce t.is64 (Int.fdiv (intOf x t.is64 (iSigned t) a l * intOf x t.is64 (iSigned t) b l) ((2 ^ (if t.is64 then 64 else 32) : Nat) : Int)))
  | .imin t d a b => some (d, t.is64, fun l => reduce t.is64 (min (intOf x t.is64 (iSigned t) a l) (intOf x t.is64 (iSigned t) b l)))
  | .imax t d a b => some (d, t.is64, fun l => reduce t.is64 (max (intOf x t.is64 (iSigned t) a l) (intOf x t.is64 (iSigned t) b l)))
  | .lea k d a b => some (d, true, fun l => ((x.src64 a l).toNat + (sext64 (x.src b l)).toNat * 2 ^ k.val) % 2 ^ 64)
  | .land w d a b => some (d, w.is64, fun l => x.val w.is64 a l &&& x.val w.is64 b l)
  | .lor w d a b => some (d, w.is64, fun l => x.val w.is64 a l ||| x.val w.is64 b l)
  | .lxor w d a b => some (d, w.is64, fun l => x.val w.is64 a l ^^^ x.val w.is64 b l)
  | .landn w d a b => some (d, w.is64, fun l => x.val w.is64 a l &&& (2 ^ (if w.is64 then 64 else 32) - 1 - x.val w.is64 b l))
  | .shl w d a b => some (d, w.is64, fun l => x.val w.is64 a l * 2 ^ shiftBy x w b l % 2 ^ (if w.is64 then 64 else 32))
  | .shr w d a b => some (d, w.is64, fun l => x.val w.is64 a l / 2 ^ shiftBy x w b l)
  | .sar w d a b => some (d, w.is64, fun l => reduce w.is64 (Int.fdiv (intOf x w.is64 true a l) ((2 ^ shiftBy x w b l : Nat) : Int)))
  | .rotl w d a b => some (d, w.is64, fun l => rotl (if w.is64 then 64 else 32) (x.val w.is64 a l) (shiftBy x w b l))
  | .bfe sg d a b => some (d, false, fun l => bfeOf sg (x.val false a l) (x.val false b l))
  | .bfi d a b => some (d, false, fun l => bfiOf (x.val false d l) (x.val false a l) (x.val false b l))
  | .popc d a => some (d, false, fun l => popcount 32 (x.val false a l))
  | .clz d a => some (d, false, fun l => clzOf 32 (x.val false a l))
  | .ctz d a => some (d, false, fun l => ctzOf (x.val false a l))
  | .brev d a => some (d, false, fun l => brevOf (x.val false a l))
  | .bswap d a => some (d, false, fun l => bswapOf (x.val false a l))
  | .perm d a b => some (d, false, fun l => permOf (x.val false a l) (x.val false b l))
  | .idp4 g d a b => some (d, false, fun l => idp4Of g (x.val false d l) (x.val false a l) (x.val false b l))
  | .rdcntCycle d => some (d, true, fun _ => x.s.cycle - (x.s.die x.g.die).reset)
  | .rdcntTime d => some (d, true, fun _ => x.s.ns)
  | .rdcntClauses d => some (d, true, fun _ => x.g.clauses.toNat)
  | .rdcntPath d a => some (d, false, fun l => ((Path.ofCode? ((x.src a l).toNat % 16)).map x.g.pathCount).getD 0)
  | .tagptr d a b => some (d, true, fun l => (x.src64 a l).toNat % 2 ^ 60 + (x.src b l).toNat % 16 * 2 ^ 60)
  | .lvl lv d => some (d, false, fun l => x.s.levelIndex x.g lv.val l)
  | .lvlExt lv d => some (d, false, fun _ => x.s.levelExtent x.g lv.val)
  | .shfl sm d a b => some (d, false, fun l =>
      let t := shflSource sm l (x.val false b l)
      x.val false a (if t < 32 ∧ inMask x.active t = true then t else l))
  | .bcast d a b => some (d, false, fun _ =>
      let k := x.val false b x.firstLane % 32
      if inMask x.active k then x.val false a k else 0)
  | .pidx d => some (d, false, fun _ => x.progressIndex.toNat)
  | _ => none

/-- The same of a floating-point instruction, with the sticky flags a lane raises (R106–R125). -/
def floatResult (i : Instr) (x : Ctx) : Option (Operand × Bool × (Nat → Nat × FFlags)) :=
  match i with
  | .fadd r d a b => some (d, false, fun l => fp32.add (modeOf r) (x.val false a l) (x.val false b l))
  | .fsub r d a b => some (d, false, fun l => fp32.sub (modeOf r) (x.val false a l) (x.val false b l))
  | .fmul r d a b => some (d, false, fun l => fp32.mul (modeOf r) (x.val false a l) (x.val false b l))
  | .ffma r d a b => some (d, false, fun l => fp32.fma (modeOf r) (x.val false a l) (x.val false b l) (x.val false d l))
  | .fmin nm d a b => some (d, false, fun l => fp32.minMax false (nm = .nan) (x.val false a l) (x.val false b l))
  | .fmax nm d a b => some (d, false, fun l => fp32.minMax true (nm = .nan) (x.val false a l) (x.val false b l))
  | .fclass d a => some (d, false, fun l => quietly (fclassOf (x.src a l)))
  | .fabs d a => some (d, false, fun l => fabsOf (x.src a l))
  | .fneg d a => some (d, false, fun l => fnegOf (x.src a l))
  | .frcp d a => some (d, false, fun l => frcpOf (x.src a l))
  | .frsq d a => some (d, false, fun l => frsqOf (x.src a l))
  | .fsqrt d a => some (d, false, fun l => fsqrtOf (x.src a l))
  | .fexp2 d a => some (d, false, fun l => fexp2Of (x.src a l))
  | .flog2 d a => some (d, false, fun l => flog2Of (x.src a l))
  | .fsin d a => some (d, false, fun l => fsinOf (x.src a l))
  | .fcos d a => some (d, false, fun l => fcosOf (x.src a l))
  | .ftanh d a => some (d, false, fun l => ftanhOf (x.src a l))
  | .ffrac d a => some (d, false, fun l => ffracOf (x.src a l))
  | .fround r d a => some (d, false, fun l => froundOf (modeOf r) (x.src a l))
  | .hadd2 f d a b => some (d, false, fun l => packed fun h =>
      (halfFmt f).add .rne (half (x.val false a l) h) (half (x.val false b l) h))
  | .hmul2 f d a b => some (d, false, fun l => packed fun h =>
      (halfFmt f).mul .rne (half (x.val false a l) h) (half (x.val false b l) h))
  | .hfma2 f d a b => some (d, false, fun l => packed fun h =>
      (halfFmt f).fma .rne (half (x.val false a l) h) (half (x.val false b l) h) (half (x.val false d l) h))
  | .hmin2 f d a b => some (d, false, fun l => packed fun h =>
      (halfFmt f).minMax false false (half (x.val false a l) h) (half (x.val false b l) h))
  | .hmax2 f d a b => some (d, false, fun l => packed fun h =>
      (halfFmt f).minMax true false (half (x.val false a l) h) (half (x.val false b l) h))
  | .fdp2 f d a b => some (d, false, fun l => fdp2Of (halfFmt f) (x.val false d l) (x.val false a l) (x.val false b l))
  | .cvtf r d a fm => some (d, false, fun l => cvtfOf (modeOf r) fm.src fm.dst (x.val false a l))
  | .f2i c d a => some (d, c.w64, fun l => f2iOf (modeOf c.rnd) c.uns (if c.w64 then 64 else 32) (x.val false a l))
  | .i2f c d a => some (d, false, fun l => i2fOf (modeOf c.rnd) (intOf x c.w64 (!c.uns) a l))
  | .dqcvt e d a f => some (d, false, fun l => fp32.convert .rne (dqcvtVal f e.val (x.val false a l)))
  | _ => none

/-- The same of a conversion with a rounding of R61, whose generator steps when it is stochastic (R63, R121, R124). -/
def quantResult (i : Instr) (x : Ctx) : Option (Operand × QRnd × (Nat → Nat × FFlags)) :=
  match i with
  | .pack2 pm d a b => some (d, pm.rnd, fun l =>
      let g := x.genFor d l
      let lo := (halfFmt pm.fmt).convert (qMode pm.rnd g) (f32 (x.src a l))
      let hi := (halfFmt pm.fmt).convert (qMode pm.rnd (g / 2 ^ 16)) (f32 (x.src b l))
      (lo.1 + 2 ^ 16 * hi.1, lo.2.join hi.2))
  | .qcvt r d a f => some (d, r, fun l => quantise f (qMode r (x.genFor d l)) (f32 (x.src a l)))
  | _ => none

/-- What an instruction of these tables writes. -/
def outOf (x : Ctx) (d : Operand) (w64 : Bool) (f : Nat → Nat × FFlags) : Out :=
  { x.out d (fun l => wordsOf w64 (f l).1) with flags := flagsOver (x.lanesFor d) fun l => (f l).2 }

/-- The group after registers, predicates, sticky flags and a port's entry are written. -/
def written (o : Out) (g : Group) : Group := (g.applyOut o).pushOut o

/-! ### Matrix instructions (R284, R287–R293) -/

/-- An MMA's checks pass: the tile is allocated, a format is captured, addresses and scales are aligned and the operands lie in
their allocations; this is the job it queues. -/
def mmaJob (x : Ctx) (kind t : Nat) (a b : Operand) (j : MatrixJob) : Prop :=
  x.s.tileFault x.g t = none ∧ x.g.fmt = some j.fmt ∧ x.addrOf a % 16 = 0 ∧ x.addrOf b % 16 = 0 ∧
  ((FBlock.operand j.fmt false).blk ≠ 0 → (FBlock.operand j.fmt false).scales % 16 = 0) ∧
  ((FBlock.operand j.fmt true).blk ≠ 0 → (FBlock.operand j.fmt true).scales % 16 = 0) ∧
  x.s.operandFits x.g (FBlock.operand j.fmt false) (x.addrOf a) (FBlock.k j.fmt) = true ∧
  x.s.operandFits x.g (FBlock.operand j.fmt true) (x.addrOf b) (FBlock.k j.fmt) = true ∧
  j = { kind, tile := t, a := x.addrOf a, b := x.addrOf b, fmt := j.fmt, seed := 0 }

/-- The same of a drain to the scratchpad or to the MROW port. -/
def drainJob (x : Ctx) (t : Nat) (j : MatrixJob) : Prop :=
  x.s.tileFault x.g t = none ∧ x.g.fmt = some j.fmt ∧ (FBlock.res j.fmt = true → FBlock.resAddr j.fmt % 16 = 0) ∧
  x.s.residualFits x.g j.fmt x.activeLanes = true ∧ j.tile = t ∧ j.b = 0 ∧ j.seed = 0

/-- The job that a matrix instruction whose checks pass queues. -/
def matrixJob (i : Instr) (x : Ctx) (j : MatrixJob) : Prop :=
  match i with
  | .mmaAcc _ t a b => mmaJob x 0 t.val a b j
  | .mmaSet _ t a b => mmaJob x 1 t.val a b j
  | .mclr t => x.s.tileFault x.g t.val = none ∧ j = { kind := 2, tile := t.val, a := 0, b := 0, fmt := [], seed := 0 }
  | .mload t a => x.s.tileFault x.g t.val = none ∧ x.addrOf a % 16 = 0 ∧
      (∀ l ∈ x.activeLanes, (x.s.clu x.g (x.addrOf a) (128 * l) 128).isSome = true) ∧
      j = { kind := 3, tile := t.val, a := x.addrOf a, b := 0, fmt := [], seed := 0 }
  | .mdrain t a => drainJob x t.val j ∧ x.addrOf a % 16 = 0 ∧ j.kind = 4 ∧ j.a = x.addrOf a ∧
      ∀ l ∈ x.activeLanes, (x.s.clu x.g (x.addrOf a) (l * rowPitch (FBlock.out j.fmt)) (rowPitch (FBlock.out j.fmt))).isSome = true
  | .mdrainMrow t _ => drainJob x t.val j ∧ (x.g.portOf .mrow).isSome = true ∧ j.kind = 5 ∧ j.a = 0
  | .mtrq a b => x.g.isHost = false ∧ x.g.fmt = some j.fmt ∧ mtrqFormat j.fmt = true ∧ x.addrOf a % 16 = 0 ∧ x.addrOf b % 16 = 0 ∧
      (mtrqSource j.fmt).scales % 16 = 0 ∧ x.s.operandFits x.g (mtrqSource j.fmt) (x.addrOf a) 32 = true ∧
      (x.s.clu x.g (x.addrOf b) 0 (32 * rowPitch (mtrqSource j.fmt).fmt + 32 * (32 / (mtrqSource j.fmt).len))).isSome = true ∧
      j = { kind := 6, tile := 0, a := x.addrOf a, b := x.addrOf b, fmt := j.fmt, seed := 0 }
  | _ => False

/-- The tile that a matrix instruction names. -/
def matrixTile (i : Instr) : Option Tile :=
  match i with
  | .mmaAcc _ t _ _ | .mmaSet _ t _ _ | .mclr t | .mload t _ | .mdrain t _ | .mdrainMrow t _ | .mstat _ t => some t
  | _ => none

/-! ### Copies and slots (R271, R340) -/

/-- The kind and the descriptor operand of a copy. -/
def copyOf (i : Instr) : Option (Nat × Operand) :=
  match i with
  | .cpyl a => some (0, a)
  | .cpyt a => some (1, a)
  | .cpym a => some (2, a)
  | _ => none

/-- What one lane of a slot operation does. -/
def slotAct (i : Instr) (x : Ctx) : Option (Operand × (SlotIssue → State → Group → Nat → Nat → Except Stop State)) :=
  match i with
  | .trace a => some (a, fun k s g _ slot => traceLane s g k slot)
  | .resume a b => some (a, fun k s g l slot => resumeLane s g k slot (x.src b l).toNat)
  | .commit a b => some (a, fun _ s g l slot => commitLane s g slot (x.src b l).toNat)
  | .rpfree a => some (a, fun _ s g _ slot => rpfreeLane s g slot)
  | _ => none

/-- A TRACE or RESUME adds rays; the others do not wait for room in the unit. -/
def addsRays (i : Instr) : Bool :=
  match i with
  | .trace .. | .resume .. => true
  | _ => false

/-- RESUME and COMMIT act as a release before they take effect (R339). -/
def releasesFirst (i : Instr) : Bool :=
  match i with
  | .resume .. | .commit .. => true
  | _ => false

/-- The form of a texture instruction and its operands (R325). -/
def texOf (i : Instr) : Option (TexForm × Operand × Operand × Operand) :=
  match i with
  | .texs d a b => some (.texs, d, a, b)
  | .texl d a b => some (.texl, d, a, b)
  | .texf d a b => some (.texf, d, a, b)
  | _ => none

/-- The texels that an instruction's lanes read. -/
def texelItems (x : Ctx) (f : TexForm) (t : TexDesc) (a : Operand) : List Texel :=
  x.activeLanes.flatMap fun l => match x.laneTex f t a l with
    | .texels ts => ts
    | _ => []

/-- What a COLL's operands name: its descriptor and its peer (R421, R422). -/
def collOf (i : Instr) (x : Ctx) : Option (CollOp × Bool × CollDesc × Option Nat) :=
  match i with
  | .coll o a b => some (o, false, x.collDesc a, x.s.peerDie x.g (x.src b x.firstLane).toNat)
  | .collPkg o a b => some (o, true, x.collDesc a, (x.s.ringOf x.g).package (signed 32 (x.src b x.firstLane).toNat))
  | _ => none

/-! ### What stays as it was -/

/-- A byte of the rejoin area of a group: of the 16 bytes of some record (R137, R138, R199). -/
def rejoinByte (g : Group) (k : Nat) : Prop :=
  ∃ n j, j < 16 ∧ k = g.sliceKey (n / 8) (g.sliceSize - 512 + 16 * (n % 8)) + j

/-- A byte that an issued instruction of a group has still to write (R226): an access of the same bytes on its path performs it first
(R230). -/
def pendingByte (g : Group) (k : Nat) : Prop :=
  ∃ f ∈ g.flights, ∃ c ∈ f.writes.map LaneWrite.cell ++ f.atoms.map (fun u => (u.key, 4)), c.1 ≤ k ∧ k < c.1 + c.2

/-- Two states that differ in nothing but the groups, and memory with its marks of poison and its L1 copies. -/
def sameMachine (s t : State) : Prop := t = { s with groups := t.groups, mem := t.mem, poison := t.poison, l1 := t.l1 }

/-- Every other group is as it was. -/
def otherGroups (s t : State) (gid : Nat) : Prop := ∀ n, n ≠ gid → t.group? n = s.group? n

/-- No byte of memory changes but images of rejoin records of the group (R137). -/
def memoryKept (s t : State) (g : Group) : Prop := ∀ k, ¬ rejoinByte g k → t.byteAt k = s.byteAt k

/-- No byte of memory changes but those, and bytes that the group had still to write. -/
def memoryKeptBut (s t : State) (g : Group) : Prop := ∀ k, ¬ rejoinByte g k → ¬ pendingByte g k → t.byteAt k = s.byteAt k

/-- A group that differs in nothing but the splits and rejoin records, which a clause's end moves (R11, R134), and, where splits rejoin,
the orders of their accesses and the reads that these fix (R136): with none left to fix, its outstanding instructions are as they were. -/
def flowOnly (g h : Group) : Prop :=
  h = { g with splits := h.splits, nextSplit := h.nextSplit, joins := h.joins, recent := h.recent, flights := h.flights,
               olds := h.olds, orders := h.orders } ∧
  (g.flights.all (fun f => f.late.isEmpty) = true → h.flights = g.flights)

/-- Registers a result fills: one, or a pair (R30). -/
def resultWidth (w64 : Bool) : Nat := if w64 then 2 else 1

/-- The entry a push of a result makes (R261). -/
def resultEntry (x : Ctx) (f : Nat → Nat) : Entry :=
  { entryOf (vectorShape x.i) x.activeLanes (fun l => BitVec.ofNat 32 (f l)) with split := x.p.id, issue := x.c.active }

/-- A group `h` is the issuing group with a result written and nothing else changed: a vector destination's registers in the
active lanes, a scalar destination whatever the guard, a port's entry when a lane is active, nothing for ZERO (R29–R31, R81,
R261, R262); the flags are raised, all other registers keep their values. -/
def Wrote (x : Ctx) (d : Operand) (w64 : Bool) (f : Nat → Nat) (flags : Nat) (h : Group) : Prop :=
  h.fstat = x.g.fstat ||| BitVec.ofNat 5 flags ∧
  match d with
  | .v n =>
    (∀ l ∈ x.activeLanes, ∀ k w, (wordsOf w64 (f l))[k]? = some w → h.reg (x.p.wb + n.val + k) l = w) ∧
    (∀ r l, l < 32 →
      ¬ (l ∈ x.activeLanes ∧ x.p.wb + n.val ≤ r ∧ r < x.p.wb + n.val + resultWidth w64) → h.reg r l = x.g.reg r l) ∧
    flowOnly { x.g with regs := h.regs, fstat := h.fstat } h
  | .s n =>
    (∀ k w, (wordsOf w64 (f x.scalarLane))[k]? = some w → h.scalar (n.val + k) = w) ∧
    (∀ r, ¬ (n.val ≤ r ∧ r < n.val + resultWidth w64) → h.scalar r = x.g.scalar r) ∧
    flowOnly { x.g with scalars := h.scalars, fstat := h.fstat } h
  | .q n =>
    flowOnly (if x.anyActive then ({ x.g with fstat := h.fstat } : Group).pushPort n.val (resultEntry x f)
      else { x.g with fstat := h.fstat }) h
  | _ => flowOnly { x.g with fstat := h.fstat } h

/-- The frame of an instruction that stores nothing: the rest of the machine, the other groups and memory stay. -/
def storesNothing (x : Ctx) (t : State) : Prop :=
  sameMachine x.s t ∧ otherGroups x.s t x.g.id ∧ memoryKept x.s t x.g

/-- What becomes of a global load whose lanes pass their address checks (R104, R226, R230, R396, R398, R407): held while a write of the
die to a copy of a line is under way, or while the split's earlier accesses of its bytes on its path are not performed; otherwise its
results wait. A line that the die may not read as it stands, and another package's word, is asked for under a tag and comes with the
answer; a package that no plane reaches denies its lane; with no read left open each lane reads the bytes at its address. Of other
groups only reads that are not fixed may be fixed, where a line leaves a cache. -/
def LoadIssued (i : Instr) (s s' : State) (x : Ctx) (w : LWidth) (d : Operand) (gs : List (Nat × Grant)) : Prop :=
  let n := loadBytes w
  let u := s'.orderFor x.g x.p.mask x.i.path (grantCells gs n)
  (∀ t, exec i s = .next t → memoryKeptBut s' t x.g ∧
    ((∀ e ∈ gs, e.2.tagged = false ∧ e.2.coh = 0 ∧ e.2.repl = false) → otherGroups x.s t x.g.id) ∧
    ∀ n h', n ≠ x.g.id → t.group? n = some h' → ∃ h, x.s.group? n = some h ∧ h' = { h with flights := h'.flights }) ∧
  (acts i x.c = true → s'.copying x.g.die gs = true → exec i s = .next (heldWith x s' .path)) ∧
  (acts i x.c = true → s'.copying x.g.die gs = false →
    (u.blocked x.g.id x.p.mask x.i.path (grantCells gs n) true = true → exec i s = .next (heldWith x u .path)) ∧
    (u.blocked x.g.id x.p.mask x.i.path (grantCells gs n) true = false →
      (∃ t h e ds push, exec i s = .next t ∧ t.group? x.g.id = some h ∧ e ∈ h.flights ∧ e.id = u.nextFlight x.g.id ∧
        e.path = x.i.path ∧ e.flag = x.c.flag ∧ e.mask = x.issueMask ∧ e.lines = linesOf gs ∧ e.work = .results ds push none ∧
        h.regs = x.g.regs ∧ h.scalars = x.g.scalars ∧ h.preds = x.g.preds ∧ h.calls = x.g.calls ∧
        (∀ l gr, gs = [(l, gr)] → gr.tagged = false → x.g.region = none →
          (∀ k home hm, gr.place = .cell k home → gr.home? = some hm → u.mayRead x.g.die hm = false →
            ∃ r tag p, e.late = [r] ∧ r.lane = l ∧ r.key = k ∧ r.asked = some tag ∧ p ∈ t.packets ∧ p.tag = tag ∧
              p.asker = x.g.die ∧ p.addr = lineOf gr.pa) ∧
          (∀ pkg addr, gr.place = .remote pkg addr →
            (u.planesIn (u.rimsOf gr.pa) ≠ [] →
              ∃ r tag a, e.late = [r] ∧ r.asked = some tag ∧ a ∈ t.asks ∧ a.tag = tag ∧ a.pkg = pkg ∧ a.addr = addr) ∧
            (u.planesIn (u.rimsOf gr.pa) = [] →
              e.late = [] ∧ ∃ f ∈ h.efaults, f.issue = e.id ∧ f.trap.cause = .pageProtection ∧ f.trap.remote = true)))) ∧
      (∀ h, u.group? x.g.id = some h → u.loose.late = 0 →
        (∀ e ∈ gs, e.2.tagged = false ∧ e.2.coh = 0 ∧ e.2.rep = false ∧ e.2.repl = false ∧
          ∃ hm, e.2.home? = some hm ∧ u.mayRead x.g.die hm = true) →
        let val := fun l => (grantOf gs l).elim 0 fun gr => u.readGrant h x.p x.i.path l gr n
        exec i s = .next (moveOn x ((gs.foldl (fun s e => s.noteLine x.g e.2) u).bump.modGroup x.g.id
          (awaiting x (x.outOn (gs.map fun e => e.1) d fun l => loadWords w (val l)) none (u.poisonOf gs n) [] (linesOf gs)))) ∧
        (h.olds = [] → h.region = none → u.loose.hit = false → (∀ e ∈ u.l2, e.die = x.g.die → e.bytes = []) →
          ∀ l gr k home, grantOf gs l = some gr → gr.place = .cell k home → val l = u.readMem k n))))

end Sys2Proof.Safety
end

