-- ==== Sys2Proof/Certificates/Slice0/Obligations.lean ====
section
/-! DEFINITION. The statements for the provers. -/

open Sys2Proof Sys2Proof.Machine Sys2Proof.Safety

/-! ### Encoding -/

/-- Decoding the encoding of any well-formed instruction gives it back, with every operand at every value its fields admit. -/
def Obligations.RoundTrip : Prop :=
  ∀ i : Instr, i.wf = true → i.isInstruction = true → decode (encode i) = .ok i

/-- Words that the spec writes out decode to the instructions it writes them for: LEA.SH2 v4, v2, v7; YIELD; F2I.I32.RTZ v3, v2;
QCVT.E4M3 v7, v6; CPYL, CPYT and CPYM of s8; TRACE v4; RESUME v4, v5; COMMIT v4, v6; RPFREE v4; RPALLOC v4; PIDX v3; and MOV
with a bad operand, opcode 0x1F and IADD with m = 6 are refused by name. -/
def Obligations.SpecWordsDecode : Prop :=
  decode 0x1A410107 = .ok (.lea 2 (.v 4) (.v 2) (.v 7)) ∧
  decode 0x4C1C3870 = .ok .yield ∧
  decode 0xA220C170 = .ok (.f2i ⟨.rtz, false, false⟩ (.v 3) (.v 2)) ∧
  decode 0xA801C303 = .ok (.qcvt .rne (.v 7) (.v 6) .e4m3) ∧
  decode 0xB81C3470 = .ok (.cpyl (.s 8)) ∧
  decode 0xB83C3470 = .ok (.cpyt (.s 8)) ∧
  decode 0xB85C3470 = .ok (.cpym (.s 8)) ∧
  decode 0xDC1C0270 = .ok (.trace (.v 4)) ∧
  decode 0xDC3C0205 = .ok (.resume (.v 4) (.v 5)) ∧
  decode 0xDC5C0206 = .ok (.commit (.v 4) (.v 6)) ∧
  decode 0xDC9C0270 = .ok (.rpfree (.v 4)) ∧
  decode 0xDC613870 = .ok (.rpalloc (.v 4)) ∧
  decode 0xE6E0F870 = .ok (.pidx (.v 3)) ∧
  decode 0x02007BF0 = .illegalOperand ∧ decode 0x3E000000 = .illegalOp ∧ decode 0x06C18376 = .illegalOp

/-- A word that names no instruction raises its fault at itself: ILLEGAL_OPERAND where op and m are defined and a field is not,
else ILLEGAL_OP. -/
def Obligations.ReservedWordFaults : Prop :=
  ∀ (w : Word) (s : State) (g : Group) (p : Split) (c : Clause),
    s.issuer = some (g, p, c) →
    exec (.reservedOpcode w) s = .next (s.raise g.id p.id
      (if decode w = .illegalOperand then trap .illegalOperand else trap .illegalOp))

/-! ### The step -/

/-- When a split has been selected and its clause's next word decodes to an instruction, the step is that instruction's
execution, one cycle later and with the selection spent. The selection (cur, granted) and one word a step are the model's own
(logs 7 and 16). -/
def Obligations.StepRunsWord : Prop :=
  ∀ (s : State) (gid pid : Nat) (g : Group) (p : Split) (c : Clause) (i : Instr),
    s.agenda = [] → s.powered = true → s.booted = true → s.halted = false → s.granted = true →
    s.cur = some (gid, pid) → s.group? gid = some g → g.split? pid = some p → p.clause = some c →
    { s.clock with granted := false }.runnable g p = true → decode (c.words.getD c.idx 0) = .ok i →
    step s = exec i { s.clock with granted := false } ∧
    { s.clock with granted := false }.issuer = some (g, p, c)

/-- When a split stands at a header, nothing is delivered to it and no other split of its group must issue first, the step
fetches the word at its address with X permission and, when that word is a header, starts its clause. A header whose clause can
be fetched and whose wait flags are clear starts its clause, once what its lanes issued before a rejoin is performed and unless a long-latency word stands under SETX = 15: the words are
latched, the guard is evaluated, the pending window base takes effect. The selection is the model's own (log 16). -/
def Obligations.StepRunsHeader : Prop :=
  (∀ (s s' : State) (gid pid : Nat) (g : Group) (p : Split) (w : Word) (h : Header),
      s.agenda = [] → s.powered = true → s.booted = true → s.halted = false → s.granted = true →
      s.cur = some (gid, pid) → s.group? gid = some g → g.split? pid = some p → p.clause = none → p.resume = none →
      { s.clock with granted := false }.runnable g p = true →
      { s.clock with granted := false }.rival? = none → { s.clock with granted := false }.spent? = none →
      g.engineFaultFor p = none →
      fetchWords { s.clock with granted := false } g.agent p.pc.toNat 1 = .ok (s', [w]) → decodeHeader w = some h →
      step s = exec (.clauseHeader h) s') ∧
  (∀ (h : Header) (s s' : State) (g : Group) (p : Split) (ws : List Word),
      s.headerIssuer = some (g, p) → g.engineFaultFor p = none → s.joinOpen g p.mask = false → (Instr.clauseHeader h).wf = true →
      (g.budget = 0 ∨ p.wdog ≠ 0) → p.reissue = none →
      fetchWords s g.agent ((p.pc.toNat + 4) % 2 ^ 64) (h.n1.val + 1) = .ok (s', ws) →
      (h.setx.val = 15 → scanLong s' g p (Header.clause h g p ws) ws.length = false) → g.waits h.wait = false →
      exec (.clauseHeader h) s = .next (s'.modGroup g.id fun g =>
        ({ g with clauses := g.clauses + 1 }).modSplit p.id fun p => p.startClause (Header.clause h g p ws) g.budget.toNat))

/-- A happening on the agenda comes next, whatever else could. The agenda is the model's own field, through which the outside
world acts (log 16). -/
def Obligations.StepRunsAgenda : Prop :=
  ∀ (s : State) (h : Happening) (t : List Happening), s.agenda = h :: t →
    step s = exec h.event { s.clock with agenda := t, chosen := h.chosen }

/-- From every state with no happening waiting, the machine goes on: no step ends in a fault or a refusal. The agenda is the
model's own (log 16). -/
def Obligations.StepGoesOn : Prop := ∀ s : State, Quiet s → goesOn (step s)

/-- Every step keeps memory and tags in their canonical form. The canonical form is the model's own way to hold memory (log 3).
-/
def Obligations.StepKeepsMemoryCanonical : Prop :=
  ∀ s t : State, Canonical s → step s = .next t → Canonical t

/-- Every step keeps the sizes of the machine's fixed tables. -/
def Obligations.StepKeepsTables : Prop :=
  ∀ s t : State, TablesWhole s → step s = .next t → TablesWhole t

/-- After reset the machine is in canonical form with its tables whole and nothing pending; no group runs, every queue is
disabled (its bit 0 clear), every context has SR_TVEC, SR_PTBR and SR_FQUEUE 0, SR_LEASE.MAX 8 and SR_HOLD.LIMIT 200, tokens are
FREE at generation 0, routes are 0, and memory with nothing listed reads 0 (the model's choice, log 3). That SELECT, the boot
count and unwritten memory are 0 is the model's choice (logs 3 and 13). -/
def Obligations.ResetState : Prop :=
  Canonical State.reset ∧ TablesWhole State.reset ∧ Quiet State.reset ∧ State.reset.groups = [] ∧
  (∀ q, bit (State.reset.queues.getD q {}).ctl 0 = false) ∧
  (∀ c, (State.reset.context c).tvec = 0 ∧ (State.reset.context c).ptbr = 0 ∧ (State.reset.context c).fqueue = 0 ∧
    (State.reset.context c).lease = 8 ∧ (State.reset.context c).hold = 200 ∧ (State.reset.context c).dbg = false) ∧
  (∀ d, (State.reset.die d).tokens = [] ∧ (State.reset.die d).routes = [] ∧ (State.reset.die d).poolbase = 0) ∧
  (∀ k, State.reset.byteAt k = 0)

/-! ### Checks and holds before an instruction's effect -/

/-- The order of the checks of one word: a field before a reserved or refused register, that before the clause position, that
before register ranges, and these before ports; only the first that fails decides. A word that fails a check raises its fault
and has no other effect. -/
def Obligations.CheckOrder : Prop :=
  (∀ (i : Instr) (s : State) (g : Group) (p : Split) (c : Clause),
      (i.wf = false → preIssue i s g p c = .fault (trap .illegalOperand)) ∧
      (∀ t, i.wf = true → sysFault i g p = some t → preIssue i s g p c = .fault t) ∧
      (i.wf = true → sysFault i g p = none → formFault i s g p c = true → preIssue i s g p c = .fault (trap .illegalForm)) ∧
      (i.wf = true → sysFault i g p = none → formFault i s g p c = false → regRange i p.wb g.regCount = true →
        preIssue i s g p c = .fault (trap .regRange)) ∧
      (∀ t, i.wf = true → sysFault i g p = none → formFault i s g p c = false → regRange i p.wb g.regCount = false →
        portFault i g = some t → preIssue i s g p c = .fault t) ∧
      (i.wf = true → sysFault i g p = none → formFault i s g p c = false → regRange i p.wb g.regCount = false →
        portFault i g = none → ∀ t, preIssue i s g p c ≠ .fault t)) ∧
  (∀ (i : Instr) (s : State) (g : Group) (p : Split) (c : Clause) (t : Trap),
      i.isInstruction = true → s.issuer = some (g, p, c) → preIssue i s g p c = .fault t →
      exec i s = .next (s.raise g.id p.id t))

/-- An instruction that names no port issues when every check passes and its path's counter stands below 63 and, where it acts, no
late result of its split waits at a full port, no order of its split holds it, for a barrier or LAUNCH nothing of its split is left to
perform and, for a long instruction, fewer than 64 are outstanding; it sees the machine as it stands. A path counter at 63, a 65th long
instruction, a push on a full port, a late result at one, an order that is open and a pop on an empty port each hold the word that has
passed its checks, in this order; what is held changes nothing but the issuing split: no other split, group or byte of memory. An
instruction of a copy, a gather or the matrix unit with no lane active passes a full counter. That a late result at a full port holds
its split is the model's reading (log 48). -/
def Obligations.PortlessIssue : Prop :=
  (∀ (i : Instr) (s : State) (g : Group) (p : Split) (c : Clause),
      s.issuer = some (g, p, c) →
      i.wf = true → sysFault i g p = none → formFault i s g p c = false → regRange i p.wb g.regCount = false →
      srcPorts i = [] → dstPort i = none → p.taken = [] → (∀ q, i.path = some q → g.pathCount q < 63) →
      (acts i c = true → g.lateFull p = false ∧ s.released g p i = true ∧ (isRendezvous i = true → g.pendingFor p.mask = false) ∧
        (isLongRun i = true → g.longCount < 64)) →
      Issues i s (freshCtx i s g p c)) ∧
  (∀ (i : Instr) (s : State) (g : Group) (p : Split) (c : Clause) (h : Hold),
      i.isInstruction = true → s.issuer = some (g, p, c) → preIssue i s g p c = .hold h →
      exec i s = .next (s.holdSplit g.id p.id h) ∧
      (∀ gid, gid ≠ g.id → (s.holdSplit g.id p.id h).group? gid = s.group? gid) ∧
      (∃ g', (s.holdSplit g.id p.id h).group? g.id = some g' ∧ (∀ q, q ≠ p.id → g'.split? q = g.split? q) ∧
        g' = { g with splits := g'.splits }) ∧
      (s.holdSplit g.id p.id h).mem = s.mem ∧ (s.holdSplit g.id p.id h).tags = s.tags) ∧
  (∀ (i : Instr) (s : State) (g : Group) (p : Split) (c : Clause) (q : Path),
      checkWord i s g p c = none → i.path = some q → 63 ≤ g.pathCount q → acts i c = true ∨ quietIdle i = false →
      preIssue i s g p c = .hold .path) ∧
  (∀ (i : Instr) (s : State) (g : Group) (p : Split) (c : Clause),
      checkWord i s g p c = none → (∀ q, i.path = some q → g.pathCount q < 63) → acts i c = true →
      (isLongRun i = true → 64 ≤ g.longCount → preIssue i s g p c = .hold .work) ∧
      ((isLongRun i = true → g.longCount < 64) →
        (∀ n, dstPort i = some n → i.isLong = false → g.portFull n = true → preIssue i s g p c = .hold .port) ∧
        (g.lateFull p = true → preIssue i s g p c = .hold .port) ∧
        ((∀ n, dstPort i = some n → i.isLong = true ∨ g.portFull n = false) → g.lateFull p = false →
          (s.released g p i = false ∨ (isRendezvous i = true ∧ g.pendingFor p.mask = true) → preIssue i s g p c = .hold .path) ∧
          (s.released g p i = true → (isRendezvous i = true → g.pendingFor p.mask = false) → p.taken = [] →
            ∀ n ∈ srcPorts i, (g.ports.getD n {}).entries = [] → preIssue i s g p c = .hold .port)))) ∧
  (∀ (g : Group) (n : Nat), 16 ≤ (g.ports.getD n {}).entries.length → g.portFull n = true)

/-- Vector operand code n names physical register WB + n, as a source and as a destination; naming a register at or beyond the
allocation raises REG_RANGE at the instruction; a 64-bit operand is the pair that begins at its code, and an odd first code
raises ILLEGAL_OPERAND. -/
def Obligations.VectorOperandRange : Prop :=
  (∀ (x : Ctx) (n : Fin 96) (l : Nat), x.src (.v n) l = x.g.reg (x.p.wb + n.val) l) ∧
  (∀ (x : Ctx) (n : Fin 96) (l : Nat),
    (x.src64 (.v n) l).toNat = (x.g.reg (x.p.wb + n.val) l).toNat + 2 ^ 32 * (x.g.reg (x.p.wb + n.val + 1) l).toNat) ∧
  (∀ (x : Ctx) (n : Fin 96) (f : Nat → List Word) (l k : Nat) (w : Word), l ∈ x.activeLanes → (f l)[k]? = some w →
    Dest.vec (x.p.wb + n.val + k) l w ∈ (x.out (.v n) f).ds) ∧
  (∀ (i : Instr) (s : State) (g : Group) (p : Split) (c : Clause) (f : Kind) (n : Fin 96),
    i.isInstruction = true → s.issuer = some (g, p, c) → i.wf = true → sysFault i g p = none →
    formFault i s g p c = false → (f, Operand.v n) ∈ i.fields → g.regCount < p.wb + n.val + f.width →
    exec i s = .next (s.raise g.id p.id (trap .regRange))) ∧
  (∀ (i : Instr) (s : State) (g : Group) (p : Split) (c : Clause) (f : Kind) (n : Fin 96),
    i.isInstruction = true → s.issuer = some (g, p, c) → (f, Operand.v n) ∈ i.fields → f.width = 2 → n.val % 2 = 1 →
    exec i s = .next (s.raise g.id p.id (trap .illegalOperand)))

/-! ### Taking an exception and returning from it -/

/-- The road of a pending fault of class H or P, the oldest of its group: the handler when the split is not in handler mode and
SR_TVEC.EN = 1; otherwise escalation for class P and a fatal fault for class H, an unhardened region of the split aborting first; it
waits for outstanding instructions, while its workgroup is being stopped and while another split's handler runs; a fault in handler mode
is fatal, with NESTED set in its record, and one of class F is fatal at once; an engine fault whose issuing lanes have all exited is
fatal. -/
def Obligations.FaultRoads : Prop :=
  (∀ (s : State) (g : Group) (p : Split) (t : Trap),
    s.group? g.id = some g → g.split? p.id = some p → g.fatalPend? = none → g.oldestPend? = some (p, t) →
    (t.cause.cls = .h ∨ t.cause.cls = .p) →
    (p.pend = some t ∧ p.handler = false ∧
      ∀ q ∈ g.splits, q.pend.isSome = true → q.dead = false → q.escalated = false → p.pendSeq ≤ q.pendSeq) ∧
    (g.handler ≠ none → s.deliver g.id = s) ∧
    (g.handler = none → s.stoppingGroup g = true ∨ s.awaits g p t = true → s.deliver g.id = s) ∧
    (g.unhardened p = false → s.abortRegion g.id p.id = s) ∧
    (g.handler = none → s.stoppingGroup g = false → s.awaits g p t = false →
      let u := s.abortRegion g.id p.id
      ∃ h q, u.group? g.id = some h ∧ h.split? p.id = some q ∧
        (bit (s.context g.ctx).tvec.toNat 0 = true → s.deliver g.id = u.enterHandler h q t) ∧
        (bit (s.context g.ctx).tvec.toNat 0 = false → t.cause.cls = .p →
          s.deliver g.id = (u.modGroup g.id fun g => g.writeTrap q t).escalate g.id p.id t) ∧
        (bit (s.context g.ctx).tvec.toNat 0 = false → t.cause.cls = .h → s.deliver g.id = u.fatal h q t false))) ∧
  (∀ (s : State) (g : Group) (p : Split) (t : Trap), s.group? g.id = some g → g.fatalPend? = some (p, t) →
    s.deliver g.id = s.fatal g p t p.handler ∧
    ∃ r, (s.deliver g.id).fatals = s.fatals ++ [r] ∧ r.nested = p.handler ∧ r.kind = 1) ∧
  (∀ (g : Group) (p : Split) (t : Trap),
    p ∈ g.splits → p.pend = some t → p.dead = false → p.escalated = false → p.handler = true ∨ t.cause.cls = .f →
    ∃ q u, g.fatalPend? = some (q, u) ∧ q ∈ g.splits ∧ q.pend = some u ∧ (q.handler = true ∨ u.cause.cls = .f)) ∧
  (∀ (s : State) (g : Group) (e : EngineFault), s.orphan? = some (g, e) →
    ∃ t r, exec .engineFault s = .next t ∧ t.fatals = s.fatals ++ [r] ∧ r.kind = 1)

/-- Handler entry, once the split's stores to its slices that have issued are performed: for each handler lane v0–v15 under the split's
window base are written to the lane's trap frame; SR_TPC is the faulting word's address, SR_CAUSE, SR_TVAL and SR_TSTATE describe the
fault and the clause; the handler lanes go on in handler mode at SR_TVEC.ADDR with the watchdog count refilled; the other lanes are
held; every other register, every other group and every byte outside the frames stay. Branch offsets of the interrupted clause count
from the header address kept in the handler record (log 8). -/
def Obligations.HandlerEntry : Prop :=
  ∀ (s : State) (g : Group) (p : Split) (t : Trap),
    s.group? g.id = some g → g.split? p.id = some p → 512 ≤ g.sliceSize →
    let u := s.settleSlices g.id p.mask
    ((∀ f ∈ g.flights, f.ofLine p.mask (some .lane) = true → f.loose = false) → u = s) ∧
    ∃ h q, (s.enterHandler g p t).group? g.id = some h ∧ h.split? p.id = some q ∧
      h.tpc = tpcOf p.faultPc ∧ h.causeReg = t.causeWord ∧ h.tval = t.tval ∧ h.tstate = p.tstate ∧
      (∀ a, t.taddr = some a → h.taddr = a) ∧ (t.taddr = none → h.taddr = g.taddr) ∧
      (∃ k, h.handler = some k ∧ k.lanes = handlerLanes t p.mask ∧ k.held = p.mask &&& ~~~(handlerLanes t p.mask)) ∧
      q.mask = handlerLanes t p.mask ∧ q.handler = true ∧ q.pc = tpcOf (s.context g.ctx).tvec ∧ q.clause = none ∧
      q.wdog = g.budget.toNat ∧ q.wb = p.wb ∧ q.pwb = p.pwb ∧ q.join = p.join ∧
      h.regs = g.regs ∧ h.scalars = g.scalars ∧ h.preds = g.preds ∧ h.calls = g.calls ∧
      (∀ k, u.group? g.id = some k → h.flights = k.flights) ∧
      (∀ l n, inMask (handlerLanes t p.mask) l = true → l < 32 → n < 16 →
        (s.enterHandler g p t).readMem (g.sliceKey l (g.sliceSize - 384 + 4 * n)) 4 = (g.reg (p.wb + n) l).toNat) ∧
      (∀ k, (∀ l j, inMask (handlerLanes t p.mask) l = true → l < 32 → j < 64 → k ≠ g.sliceKey l (g.sliceSize - 384 + j)) →
        (s.enterHandler g p t).byteAt k = u.byteAt k) ∧
      (∀ n, n ≠ g.id → (s.enterHandler g p t).group? n = s.group? n)

/-- RFT with nothing of the handler outstanding, once the split's stores to its slices that have issued are performed: each handler
lane's v0–v15 are read back from its trap frame, every other register stays, the held lanes rejoin the split, handler mode ends and the
split stands at SR_TPC; the interrupted clause state comes from SR_TSTATE; with SR_CAUSE.ESC set the split then escalates, and the
group's oldest pending fault is delivered. Branch offsets of the interrupted clause count from the header address kept in the handler
record (log 8). -/
def Obligations.ReturnFromHandler : Prop :=
  ∀ (s : State) (g : Group) (p : Split) (c : Clause) (h : Handler),
    s.issuer = some (g, p, c) → Issues .rft s { s, g, p, c, i := .rft, lit := 0 } →
    g.handler = some h → (g.flights.any fun f => f.handlerMode && f.flag.isSome) = false →
    exec .rft s = .next
      ((if bit g.causeReg.toNat 7 then
          (s.leaveHandler g h p.id true).escalate g.id p.id (g.trapOfRegs h)
        else s.leaveHandler g h p.id false).deliver g.id) ∧
    ∀ esc : Bool, ∃ k, (s.leaveHandler g h p.id esc).group? g.id = some k ∧ k.handler = none ∧
      (∀ l n, inMask (h.lanes &&& ~~~g.retired) l = true → l < 32 → n < 16 →
        k.reg (p.wb + n) l = BitVec.ofNat 32 ((s.settleSlices g.id p.mask).readMem (g.sliceKey l (g.sliceSize - 384 + 4 * n)) 4)) ∧
      (∀ r l, l < 32 → ¬ (inMask (h.lanes &&& ~~~g.retired) l = true ∧ p.wb ≤ r ∧ r < p.wb + 16) → k.reg r l = g.reg r l) ∧
      k.scalars = g.scalars ∧ k.preds = g.preds ∧ k.calls = g.calls ∧ k.tstate = g.tstate ∧ k.tpc = g.tpc ∧
      (esc = true ∨ bit g.tstate.toNat 51 = false ∨ bit g.tstate.toNat 41 = true ∨
          (p.inner = none ∧ ∀ r ∈ g.joins, r.defer = none → r.arrived ≠ r.expected) →
        ∃ q, k.split? p.id = some q ∧ q.mask = p.mask ||| h.held ∧ q.handler = false ∧ q.pc = g.tpc ∧ q.clause = none ∧
          q.wb = p.wb ∧
          q.resume = (if bit g.tstate.toNat 51 then none else some (g.tstate, h.at_)) ∧
          q.reissue = (if bit g.tstate.toNat 51 && bit g.tstate.toNat 41 then some (bits g.tstate.toNat 52 4) else none))

/-! ### Results of short instructions -/

/-- A move, integer, logic, shift, bit-field, counter, level, tag-pointer, shuffle, broadcast or progress-index instruction that
issues writes the value its rule gives in each lane it is evaluated for, raises no flag, stores nothing and changes nothing
else. Cycles and nanoseconds advance with steps (log 5). -/
def Obligations.IntegerResults : Prop :=
  ∀ (i : Instr) (s : State) (x : Ctx) (d : Operand) (w64 : Bool) (f : Nat → Nat),
    Issues i s x → intResult i x = some (d, w64, f) →
    ∃ t h, exec i s = .next t ∧ t.group? x.g.id = some h ∧ Wrote x d w64 f 0 h ∧ storesNothing x t

/-- A floating-point, packed-half or conversion instruction that issues writes the value its rule gives in each lane it is
evaluated for, raises exactly the flags those lanes raise, stores nothing and changes nothing else. PACK2 and QCVT: the same,
and one counter value is taken for each issue of a stochastic conversion, whatever the guard. Where the spec bounds a result by
ulps, the value inside the bound is the model's choice (log 17). -/
def Obligations.FloatResults : Prop :=
  (∀ (i : Instr) (s : State) (x : Ctx) (d : Operand) (w64 : Bool) (f : Nat → Nat × FFlags),
      Issues i s x → floatResult i x = some (d, w64, f) →
      ∃ t h, exec i s = .next t ∧ t.group? x.g.id = some h ∧
        Wrote x d w64 (fun l => (f l).1) (flagsOver (x.lanesFor d) fun l => (f l).2) h ∧ storesNothing x t) ∧
  (∀ (i : Instr) (s : State) (x : Ctx) (d : Operand) (r : QRnd) (f : Nat → Nat × FFlags),
      Issues i s x → quantResult i x = some (d, r, f) →
      exec i s = .next (moveOn x (onGroup x fun g =>
        { written (outOf x d false f) g with rcnt := if r = .rsr then g.rcnt + 1 else g.rcnt })))

/-- LEA d := (a + sext64(b) × 2^k) mod 2^64: it is short, has no path, checks no address, needs a scalar pair under a scalar
destination, and LEA.SH2 v4, v2, v7 is the word 0x1A41_0107. -/
def Obligations.LeaResult : Prop :=
  (∀ (k : Shift) (d a b : Operand) (s : State) (x : Ctx), Issues (.lea k d a b) s x →
    ∃ t h, exec (.lea k d a b) s = .next t ∧ t.group? x.g.id = some h ∧ storesNothing x t ∧
      Wrote x d true (fun l => (x.src64 a l + sext64 (x.src b l) * BitVec.ofNat 64 (2 ^ k.val)).toNat) 0 h) ∧
  (∀ (k : Shift) (d a b : Operand), (Instr.lea k d a b).isLong = false ∧ (Instr.lea k d a b).path = none) ∧
  (∀ (k : Shift) (n m : Fin 16) (r : Fin 96) (b : Operand), (Instr.lea k (.s n) (.v r) b).wf = false ∧
    ((Instr.lea k (.s n) (.s m) .zero).wf = true ↔ n.val % 2 = 0 ∧ m.val % 2 = 0)) ∧
  encode (.lea 2 (.v 4) (.v 2) (.v 7)) = 0x1A410107

/-- Compares and predicate logic write p_pd in the active lanes with the relation's truth, and p7 not at all; FCMP raises NV as
its entry says; VOTE.ALL and VOTE.ANY write the same truth in every active lane. A predicate write changes the lanes of its mask
and no other lane or predicate; p7 discards it and always reads 1. -/
def Obligations.PredicateResults : Prop :=
  (∀ (s : State) (x : Ctx),
      (∀ (c : ICond) (pd : PredReg) (a b : Operand), Issues (.icmp c pd a b) s x →
        exec (.icmp c pd a b) s = .next (moveOn x (onGroup x fun g => g.setPred pd.val x.active (maskOf (x.activeLanes.filter fun l =>
          match c.rel with
          | .eq => intOf x c.w64 (!c.uns) a l = intOf x c.w64 (!c.uns) b l
          | .ne => intOf x c.w64 (!c.uns) a l ≠ intOf x c.w64 (!c.uns) b l
          | .lt => intOf x c.w64 (!c.uns) a l < intOf x c.w64 (!c.uns) b l
          | .le => intOf x c.w64 (!c.uns) a l ≤ intOf x c.w64 (!c.uns) b l))))) ∧
      (∀ (c : FCond) (pd : PredReg) (a b : Operand), Issues (.fcmp c pd a b) s x →
        let f := fun l => fcmpOf c (x.val false a l) (x.val false b l)
        exec (.fcmp c pd a b) s = .next (moveOn x (onGroup x fun g =>
          { g.setPred pd.val x.active (maskOf (x.activeLanes.filter fun l => (f l).1)) with
            fstat := g.fstat ||| BitVec.ofNat 5 (flagsOver x.activeLanes fun l => (f l).2) }))) ∧
      (∀ (o : PlopOp) (pd pa pb : PredReg), Issues (.plop o pd pa pb) s x →
        exec (.plop o pd pa pb) s = .next (moveOn x (onGroup x fun g => g.setPred pd.val x.active (maskOf (x.activeLanes.filter fun l =>
          plopEval o (x.g.pred pa.val l) (x.g.pred pb.val l)))))) ∧
      (∀ (pd pa : PredReg), Issues (.voteAll pd pa) s x →
        exec (.voteAll pd pa) s = .next (moveOn x (onGroup x fun g => g.setPred pd.val x.active
          (if ∀ l ∈ x.activeLanes, x.g.pred pa.val l = true then maskOf x.activeLanes else 0)))) ∧
      (∀ (pd pa : PredReg), Issues (.voteAny pd pa) s x →
        exec (.voteAny pd pa) s = .next (moveOn x (onGroup x fun g => g.setPred pd.val x.active
          (if ∃ l ∈ x.activeLanes, x.g.pred pa.val l = true then maskOf x.activeLanes else 0))))) ∧
  (∀ (g : Group) (n : Nat) (lanes vals : LaneMask),
      (∀ l, l < 32 → n ≠ 7 → (g.setPred n lanes vals).pred n l = if inMask lanes l then inMask vals l else g.pred n l) ∧
      (∀ m l, m ≠ n → (g.setPred n lanes vals).pred m l = g.pred m l) ∧
      (∀ l, l < 32 → (g.setPred n lanes vals).pred 7 l = true) ∧
      g.setPred n lanes vals = { g with preds := (g.setPred n lanes vals).preds })

/-- Reductions and queries on the scalar pipe or over lanes: VOTE.BALLOT, SPLITQ and LRED write their scalar result, SCAN each
lane's prefix, with the flags the additions raise. An inclusive integer SCAN.ADD gives each lane the sum, modulo 2^32, of the
values of the lanes up to it in the list, and an exclusive one that of the lanes before it. -/
def Obligations.ReductionResults : Prop :=
  (∀ (s : State) (x : Ctx),
      (∀ (d : Operand) (pa : PredReg), Issues (.voteBallot d pa) s x →
        exec (.voteBallot d pa) s = .next (moveOn x (onGroup x
          (written (x.outOn [x.scalarLane] d fun _ => [x.active &&& x.g.predMask pa.val]))))) ∧
      (∀ d, Issues (.splitqLive d) s x →
        exec (.splitqLive d) s = .next (moveOn x (onGroup x (written (x.outOn [x.scalarLane] d fun _ => [x.g.live]))))) ∧
      (∀ d, Issues (.splitqLowest d) s x →
        exec (.splitqLowest d) s = .next (moveOn x (onGroup x
          (written (x.outOn [x.scalarLane] d fun _ => [BitVec.ofNat 32 (lowestLane x.p.mask)]))))) ∧
      (∀ d, Issues (.splitqCount d) s x →
        exec (.splitqCount d) s = .next (moveOn x (onGroup x
          (written (x.outOn [x.scalarLane] d fun _ => [BitVec.ofNat 32 x.g.splits.length]))))) ∧
      (∀ (o : ScanOp) (d a : Operand), Issues (.lred o d a) s x →
        let r := scanLoop o false (scanIdentity o) {} (x.activeLanes.map fun l => (l, x.val false a l))
        exec (.lred o d a) s = .next (moveOn x (onGroup x
          (written { x.outOn [x.scalarLane] d (fun _ => [BitVec.ofNat 32 r.2.1]) with flags := r.2.2.code })))) ∧
      (∀ (sm : ScanMode) (d a : Operand), Issues (.scan sm d a) s x →
        let r := scanLoop sm.op sm.excl (scanIdentity sm.op) {} ((x.lanesFor d).map fun l => (l, x.val false a l))
        exec (.scan sm d a) s = .next (moveOn x (onGroup x
          (written { x.out d (fun l => [BitVec.ofNat 32 (laneValue r.1 l)]) with flags := r.2.2.code }))))) ∧
  (∀ (xs : List (Nat × Nat)) (k : Nat) (l v : Nat), xs[k]? = some (l, v) →
      ((scanLoop .add false 0 {} xs).1)[k]? = some (l, ((xs.take (k + 1)).map fun e => e.2).sum % 2 ^ 32) ∧
      ((scanLoop .add true 0 {} xs).1)[k]? = some (l, ((xs.take k).map fun e => e.2).sum % 2 ^ 32) ∧
      (scanLoop .add false 0 {} xs).2.1 = (xs.map fun e => e.2).sum % 2 ^ 32)

/-! ### Long-latency instructions -/

/-- IDIV, IREM and FDIV read their operands at issue: the quotient, remainder or rounded quotient waits as an outstanding
instruction on the clause's flag with no path; by a divisor of 0 the quotient is all ones and the remainder the dividend. That
FDIV raises its sticky flags at issue is the model's choice (log 17). -/
def Obligations.DivisionsWait : Prop :=
  ∀ (s : State) (x : Ctx),
    (∀ (t : IType) (d a b : Operand), Issues (.idiv t d a b) s x → acts (.idiv t d a b) x.c = true →
      exec (.idiv t d a b) s = .next (moveOn x (onGroup x fun g => (x.attached g).addFlight (flightOf x none x.c.flag
        (let o := x.out d fun l => wordsOf t.is64 (if intOf x t.is64 (iSigned t) b l = 0 then 2 ^ (if t.is64 then 64 else 32) - 1
            else reduce t.is64 (Int.tdiv (intOf x t.is64 (iSigned t) a l) (intOf x t.is64 (iSigned t) b l)))
         .results o.ds o.push none))))) ∧
    (∀ (t : IType) (d a b : Operand), Issues (.irem t d a b) s x → acts (.irem t d a b) x.c = true →
      exec (.irem t d a b) s = .next (moveOn x (onGroup x fun g => (x.attached g).addFlight (flightOf x none x.c.flag
        (let o := x.out d fun l => wordsOf t.is64 (if intOf x t.is64 (iSigned t) b l = 0 then x.val t.is64 a l
            else reduce t.is64 (Int.tmod (intOf x t.is64 (iSigned t) a l) (intOf x t.is64 (iSigned t) b l)))
         .results o.ds o.push none))))) ∧
    (∀ (r : Rnd) (d a b : Operand), Issues (.fdiv r d a b) s x → acts (.fdiv r d a b) x.c = true →
      exec (.fdiv r d a b) s = .next (moveOn x (onGroup x fun g =>
        ((x.attached g).raiseFlags (flagsOver (x.lanesFor d) fun l => (fdivOf (modeOf r) (x.src a l) (x.src b l)).2)).addFlight
          (flightOf x none x.c.flag
            (let o := x.out d fun l => wordsOf false (fdivOf (modeOf r) (x.src a l) (x.src b l)).1
             .results o.ds o.push none)))))

/-- LONG_LATENCY_COMPLETE: results known, with every access performed, and not held up by an earlier write of the same register
or a full port are written, those of retired lanes discarded; reads that were not fixed at issue and ask nobody take what their lanes
see now; the instruction is outstanding no more, or waits for its turn on its path. One whose accesses are not all performed at its
scope stays. When a read is fixed is the model's choice (log 6). -/
def Obligations.LongLatencyCompletes : Prop :=
  (∀ (s : State) (gid fid : Nat) (g : Group) (f : Flight) (ds : List Dest) (push : Option (Nat × Entry)) (bt : Option (Nat × BtEntry)),
    s.group? gid = some g → g.flight? fid = some f → f.work = .results ds push bt → f.done = false →
    g.shadowed f = false → g.pushReady f push = true → f.fault = none → s.unperformed g f = false →
    (f.late = [] →
      exec (.longLatencyComplete gid fid) s = .next ((s.modGroup gid fun g => g.deliverResults f).deliver gid)) ∧
    (f.late ≠ [] → (∀ r ∈ f.late, r.asked = none ∧ g.isBehind f (r.key, loadBytes r.width) = false) →
      exec (.longLatencyComplete gid fid) s = .next (((s.fixReads g f (fun _ => true) (s.readNow g f)).modGroup gid fun g =>
        g.deliverResults { f with late := [], work := f.work.fill (f.late.flatMap fun r =>
          fillDests r.dests r.width (s.readNow g f r)) }).deliver gid)) ∧
    (∀ e, (g.deliverResults f).flight? fid = some e → e.done = true ∧ e.flag = none ∧ f.path ≠ none) ∧
    (∀ r l v, ds = [.vec r l v] → push = none → l < 32 →
      (g.deliverResults f).reg r l = (if inMask g.retired l then g.reg r l else v)) ∧
    (∀ n v, ds = [.scal n v] → push = none →
      (g.deliverResults f).scalar n = (if f.mask &&& ~~~g.retired = 0 then g.scalar n else v)) ∧
    (∀ k e, ds = [] → push = none → bt = some (k, e) → k < g.bt.length → (g.deliverResults f).bt.getD k {} = e)) ∧
  (∀ (s : State) (gid fid : Nat) (g : Group) (f : Flight) (ds : List Dest) (push : Option (Nat × Entry)) (bt : Option (Nat × BtEntry)),
    s.group? gid = some g → g.flight? fid = some f → f.work = .results ds push bt →
    f.loose = false → s.unperformed g f = true → exec (.longLatencyComplete gid fid) s = .next s)

/-- PATH_COMPLETION: the oldest short instruction of a path whose accesses are performed leaves the path's count, and those
behind it that are done leave with it: the path's counter falls. A write that it has still to perform, and may, is performed first; while
one of its accesses is not performed at the path's scope it stays. -/
def Obligations.PathCompletes : Prop :=
  ∀ (s : State) (gid : Nat) (q : Path) (g : Group) (f : Flight),
    s.group? gid = some g → (g.flights.find? fun e => e.path = some q) = some f → f.work = .performed → f.flag = none →
    ((∀ e ∈ g.flights, e.path = some q → e.loose = false) → s.unperformed g f = false →
      exec (.pathCompletion gid (Path.code q)) s = .next (s.modGroup gid fun g => g.completeFlight f.id)) ∧
    ((∀ e ∈ g.flights, e.path = some q → e.loose = false) → s.unperformed g f = true →
      exec (.pathCompletion gid (Path.code q)) s = .next s) ∧
    (∀ w, g.flight? f.id = some f → f.writes = [w] → f.atoms = [] → f.late = [] → w.asked = none → w.home = none →
      g.isBehind f (w.key, w.bytes.length) = false → s.loose.ahead = false → s.awayFrom g.id f.id = false → s.counting g f = false →
      exec (.pathCompletion gid (Path.code q)) s =
        .next (((s.performWrite g f.lanes f.id f.path w).modGroup gid fun h => h.modFlight f.id fun e =>
          { e with writes := removeFirst e.writes w }).modGroup gid fun g => g.completeFlight f.id)) ∧
    (g.flight? f.id = some f → (g.completeFlight f.id).pathCount q < g.pathCount q)

/-- A clause's first long-latency instruction attaches to SETX's flag, every later one to SETY's, or to SETX's when SETY is 15;
a flag is busy from the attachment until every instruction attached to it has written its results. -/
def Obligations.Attachment : Prop :=
  (∀ c : Clause, c.att = false → c.setx < 12 → c.flag = some c.setx) ∧
  (∀ c : Clause, c.att = true → c.sety ≠ 15 → c.sety < 12 → c.flag = some c.sety) ∧
  (∀ c : Clause, c.att = true → c.sety = 15 → c.setx < 12 → c.flag = some c.setx) ∧
  (∀ (x : Ctx) (f : Flight) (k : Nat), x.g.split? x.p.id = some x.p → f.flag = some k →
    ((x.attached x.g).addFlight f).flagBusy k = true ∧
    ∃ p, ((x.attached x.g).addFlight f).split? x.p.id = some p ∧ p.clause = some { x.c with att := true }) ∧
  (∀ (g : Group) (k : Nat), g.flagBusy k = true ↔ ∃ f ∈ g.flights, f.flag = some k)

/-! ### Control transfers -/

/-- BR and CALL of a split of mask M with taken lanes T (those active in the guard whose predicate reads 1): with T empty the
split continues at the next clause header; with T = M it transfers, a CALL having pushed the next header's address in each lane;
otherwise it diverges, T to the target and M − T to the next header, under a new rejoin record that expects M and rejoins at the split's
pending rejoin address, a CALL having pushed in the lanes of T; a part whose header is that address parks at once; with no room for a
second live part, that part is deferred in a record of its own. Where a CALL or a divergence finds no room: a taken lane with 40 return
addresses, no free record, or none for a deferred part, raises RECORD_OVERFLOW precise at the transfer, which has no effect. A
divergence is stated for a split under no record, with no record about to release. -/
def Obligations.BranchAndCall : Prop :=
  (∀ (q : XferPred) (off : BitVec 21) (s : State) (x : Ctx),
      (∀ l, l < 32 → inMask (x.taken q) l = (inMask x.c.active l && (x.g.pred q.p.val l != q.inv))) ∧
      (Issues (.br q off) s x → x.taken q = 0 →
        exec (.br q off) s = .next (x.s.goHeader x.g.id x.p.id x.c.next)) ∧
      (Issues (.br q off) s x → x.taken q = x.p.mask → x.p.mask ≠ 0 →
        exec (.br q off) s = .next (x.s.goHeader x.g.id x.p.id (x.branchTarget off))) ∧
      (Issues (.call q off) s x → x.taken q = 0 →
        exec (.call q off) s = .next (x.s.goHeader x.g.id x.p.id x.c.next)) ∧
      (Issues (.call q off) s x → x.taken q = x.p.mask → x.p.mask ≠ 0 →
        (∀ l, inMask x.p.mask l = true → l < 32 → (x.g.calls.getD l []).length < 40) →
        exec (.call q off) s = .next
          (((onGroup x fun g => g.pushCalls x.p.mask x.c.next).goHeader x.g.id x.p.id (x.branchTarget off)).spillCalls x.g
            (x.g.pushCalls x.p.mask x.c.next)))) ∧
  (∀ (q : XferPred) (off : BitVec 21) (s : State) (x : Ctx) (call : Bool) (n : Nat) (more : List Nat),
      Issues (if call then .call q off else .br q off) s x → x.taken q ≠ 0 → x.taken q ≠ x.p.mask → x.taken q &&& ~~~x.p.mask = 0 →
      (∀ l, inMask (x.taken q) l = true → l < 32 → (x.g.calls.getD l []).length < 40) →
      x.p.inner = none → x.g.freeRecords = n :: more → (∀ a, x.p.join = some a → (x.g.recordOffset a).isSome = true) →
      (∀ r ∈ x.g.joins, r.defer = none → r.arrived ≠ r.expected) → (∀ p ∈ x.g.splits, p.id < x.g.nextSplit) →
      let room := decide (x.g.splits.length ≤ 7 ∧ 1 ≤ x.s.tableFree x.g)
      let rest := x.p.mask &&& ~~~(x.taken q)
      room = true ∨ (∃ m ms, more = m :: ms ∧ (x.g.recordOffset x.c.next).isSome = true) →
      ∃ t h, exec (if call then .call q off else .br q off) s = .next t ∧ t.group? x.g.id = some h ∧
        (∃ r ∈ h.joins, r.num = n ∧ r.expected = x.p.mask ∧ r.joinPc = x.p.join ∧ r.outer = none ∧ r.savedWb = x.p.partWb.1 ∧
          (r.defer.isSome = !room) ∧
          (x.p.join ≠ some (x.branchTarget off) → x.p.join ≠ some x.c.next → r.arrived = 0) ∧
          (x.p.join = some (x.branchTarget off) → x.p.join ≠ some x.c.next → r.arrived = x.taken q) ∧
          (x.p.join ≠ some (x.branchTarget off) → x.p.join = some x.c.next → r.arrived = if room then rest else 0)) ∧
        (x.p.join ≠ some (x.branchTarget off) →
          ∃ p ∈ h.splits, p.mask = x.taken q ∧ p.pc = x.branchTarget off ∧ p.clause = none ∧ p.inner = some n ∧ p.join = none) ∧
        (room = true → x.p.join ≠ some x.c.next →
          ∃ p ∈ h.splits, p.mask = rest ∧ p.pc = x.c.next ∧ p.clause = none ∧ p.inner = some n ∧ p.join = none) ∧
        (room = false → ∃ d ∈ h.defers, more.head? = some d.num ∧ d.owner = n ∧ d.lanes = rest ∧ d.addr = x.c.next ∧ d.reissue = none) ∧
        (∀ l, l < x.g.calls.length → h.calls.getD l [] =
          (if call && inMask (x.taken q) l then x.c.next :: x.g.calls.getD l [] else x.g.calls.getD l [])) ∧
        h.regs = x.g.regs ∧ h.scalars = x.g.scalars ∧ h.preds = x.g.preds) ∧
  (∀ (q : XferPred) (off : BitVec 21) (s : State) (x : Ctx) (call : Bool),
      (∀ l, Issues (.call q off) s x → inMask (x.taken q) l = true → l < 32 → 40 ≤ (x.g.calls.getD l []).length →
        exec (.call q off) s = .next (s.raise x.g.id x.p.id (trap .recordOverflow))) ∧
      (Issues (if call then .call q off else .br q off) s x → x.taken q ≠ 0 → x.taken q ≠ x.p.mask →
        (x.g.freeRecords = [] ∨ (∃ n, x.g.freeRecords = [n]) ∧ (8 ≤ x.g.splits.length ∨ x.s.tableFree x.g = 0)) →
        exec (if call then .call q off else .br q off) s = .next (s.raise x.g.id x.p.id (trap .recordOverflow))))

/-- JMPR and RET: with no lane taken the split goes on at the next header; with every lane of the split taken and one target it
transfers, a RET having popped each lane's stack; several targets, or lanes that are not taken, diverge into one part for each target
and one at the next header, under a new rejoin record; a RET that pops below the depth of the split's unhardened region hardens it; a
misaligned target of a taken lane raises ALIGN with the mask of such lanes and the lowest one's address; a taken RET of an empty stack
raises ILLEGAL_FORM. A divergence is stated where its parts all go live: no pending rejoin address, room, and no record about to
release. -/
def Obligations.JumpAndReturn : Prop :=
  (∀ (q : XferPred) (a : Operand) (s : State) (x : Ctx),
    (Issues (.jmpr q a) s x → x.taken q = 0 → x.p.mask ≠ 0 →
      exec (.jmpr q a) s = .next (x.s.goHeader x.g.id x.p.id x.c.next)) ∧
    (∀ tgt : DWord, Issues (.jmpr q a) s x → x.taken q = x.p.mask → x.p.mask ≠ 0 →
      (∀ l ∈ lanesOf x.p.mask, x.src64 a l = tgt) → tgt.toNat % 4 = 0 →
      exec (.jmpr q a) s = .next (x.s.goHeader x.g.id x.p.id tgt)) ∧
    (∀ l ls, Issues (.jmpr q a) s x → (lanesOf (x.taken q)).filter (fun l => (x.src64 a l).toNat % 4 ≠ 0) = l :: ls →
      exec (.jmpr q a) s = .next (s.raise x.g.id x.p.id
        { trap .align with tval := maskOf (l :: ls), byLanes := true, taddr := some (x.src64 a l) })) ∧
    (Issues (.ret q) s x → x.taken q = 0 → x.p.mask ≠ 0 →
      exec (.ret q) s = .next (x.s.goHeader x.g.id x.p.id x.c.next)) ∧
    (∀ tgt : DWord, Issues (.ret q) s x → x.taken q = x.p.mask → x.p.mask ≠ 0 →
      (∀ l ∈ lanesOf x.p.mask, ∃ r, x.g.calls.getD l [] = tgt :: r) →
      ((∀ r, x.g.region = some r → x.p.opener = true → r.hard = false →
          ∀ l ∈ lanesOf x.p.mask, r.depths.getD l 0 < (x.g.calls.getD l []).length) →
        exec (.ret q) s = .next ((onGroup x fun g => g.popCalls x.p.mask).goHeader x.g.id x.p.id tgt)) ∧
      (∀ r, x.g.region = some r → x.p.opener = true → r.hard = false →
        (∃ l ∈ lanesOf x.p.mask, (x.g.calls.getD l []).length ≤ r.depths.getD l 0) →
        exec (.ret q) s = .next (((x.s.harden x.g.id x.p.id 4).modGroup x.g.id fun g => g.popCalls x.p.mask).goHeader x.g.id x.p.id tgt))) ∧
    (∀ l ∈ lanesOf (x.taken q), Issues (.ret q) s x → x.g.calls.getD l [] = [] →
      exec (.ret q) s = .next (s.raise x.g.id x.p.id (trap .illegalForm)))) ∧
  (∀ (q : XferPred) (a : Operand) (s : State) (x : Ctx) (i : Instr) (f : Nat → DWord) (ret : Bool) (n : Nat) (more : List Nat),
    Issues i s x →
    ((ret = false ∧ i = .jmpr q a ∧ f = (fun l => x.src64 a l) ∧ ∀ l ∈ lanesOf (x.taken q), (f l).toNat % 4 = 0) ∨
     (ret = true ∧ i = .ret q ∧ f = (fun l => (x.g.calls.getD l []).headD 0) ∧ ∀ l ∈ lanesOf (x.taken q), x.g.calls.getD l [] ≠ [])) →
    x.taken q ≠ 0 → x.taken q &&& ~~~x.p.mask = 0 →
    let rest := x.p.mask &&& ~~~(x.taken q)
    let parts := (distinctTargets ((lanesOf (x.taken q)).map fun l => (l, f l))).length + (if rest = 0 then 0 else 1)
    2 ≤ parts → parts + x.g.splits.length ≤ 9 → parts ≤ x.s.tableFree x.g + 1 →
    x.p.join = none → x.p.inner = none → x.g.freeRecords = n :: more →
    (∀ r ∈ x.g.joins, r.defer = none → r.arrived ≠ r.expected) → (∀ p ∈ x.g.splits, p.id < x.g.nextSplit) →
    ∃ t h, exec i s = .next t ∧ t.group? x.g.id = some h ∧
      (∀ tgt, (∃ l ∈ lanesOf (x.taken q), f l = tgt) →
        ∃ p ∈ h.splits, p.mask = maskOf ((lanesOf (x.taken q)).filter fun l => f l = tgt) ∧ p.pc = tgt ∧ p.clause = none ∧
          p.inner = some n) ∧
      (rest ≠ 0 → ∃ p ∈ h.splits, p.mask = rest ∧ p.pc = x.c.next ∧ p.clause = none ∧ p.inner = some n) ∧
      (∃ r ∈ h.joins, r.num = n ∧ r.expected = x.p.mask ∧ r.arrived = 0 ∧ r.joinPc = none ∧ r.outer = none) ∧
      (∀ l, l < x.g.calls.length → h.calls.getD l [] =
        (if ret && inMask (x.taken q) l then (x.g.calls.getD l []).drop 1 else x.g.calls.getD l [])) ∧
      h.regs = x.g.regs ∧ h.scalars = x.g.scalars ∧ h.preds = x.g.preds)

/-- EXIT retires the taken lanes, an unhardened region of the split hardening first: they leave the split, which goes on at the next
header with the lanes that are left, and the records of its chain; with every lane taken the split is gone, and a record that waited for
no other lane releases; with none taken the split goes on at the next header. -/
def Obligations.ExitRetires : Prop :=
  ∀ (q : XferPred) (s : State) (x : Ctx), Issues (.exit q) s x →
    (x.taken q = 0 → exec (.exit q) s = .next ((x.s.putGroup x.g).goHeader x.g.id x.p.id x.c.next)) ∧
    (x.taken q ≠ 0 → x.g.handler = none →
      let u := x.s.harden x.g.id x.p.id 4
      ∃ h, u.group? x.g.id = some h ∧ (x.g.region = none → h = x.g) ∧
        (∀ r, x.g.region = some r → ∃ r', h.region = some r' ∧ (x.p.opener = true → r'.hard = true)) ∧
        exec (.exit q) s = .next ((u.putGroup (h.retireLanes x.p.id (x.taken q))).goHeader x.g.id x.p.id x.c.next) ∧
        (h.retireLanes x.p.id (x.taken q)).retired = x.g.retired ||| x.taken q) ∧
    (x.taken q ≠ 0 → x.p.mask &&& ~~~(x.taken q) ≠ 0 → x.g.handler = none → x.p.inner = none →
      (∀ r ∈ x.g.joins, r.defer = none → r.arrived ≠ r.expected) →
      ∃ t h p, exec (.exit q) s = .next t ∧ t.group? x.g.id = some h ∧ h.split? x.p.id = some p ∧
        p.mask = x.p.mask &&& ~~~(x.taken q) ∧ p.pc = x.c.next ∧ p.clause = none ∧ h.retired = x.g.retired ||| x.taken q ∧
        h.regs = x.g.regs ∧ h.scalars = x.g.scalars ∧ h.preds = x.g.preds) ∧
    (x.taken q = x.p.mask → x.p.mask ≠ 0 → x.g.joins = [] →
      ∀ p ∈ (x.g.retireLanes x.p.id (x.taken q)).splits, p.id ≠ x.p.id) ∧
    (∀ (r : Rejoin) (a : DWord), x.taken q = x.p.mask → x.p.mask ≠ 0 → x.g.joins = [r] → x.p.inner = some r.num → r.outer = none →
      r.defer = none → r.joinPc = some a →
      (r.arrived ≠ 0 → r.arrived = r.expected &&& ~~~x.p.mask →
        (x.g.retireLanes x.p.id (x.taken q)).joins = [] ∧
        ∃ p ∈ (x.g.retireLanes x.p.id (x.taken q)).splits, p.mask = r.arrived ∧ p.pc = a ∧ p.wb = r.savedWb ∧ p.inner = none) ∧
      (r.arrived ≠ r.expected &&& ~~~x.p.mask →
        (x.g.retireLanes x.p.id (x.taken q)).joins = [{ r with expected := r.expected &&& ~~~x.p.mask }]))

/-- JOINAT, WINDOW and YIELD with an active lane: the split's pending rejoin address, its pending window base, and its refilled
watchdog count at the next header; with none they only move the split on. -/
def Obligations.JoinatWindowYield : Prop :=
  ∀ (s : State) (x : Ctx),
    (∀ off, Issues (.joinat off) s x → exec (.joinat off) s = .next (moveOn x
      (if x.anyActive then x.s.modSplit x.g.id x.p.id fun p => { p with join := some (x.branchTarget off) } else x.s))) ∧
    (∀ a, Issues (.window a) s x → x.anyActive = true → (x.src a x.firstLane).toNat % 16 = 0 →
      (x.src a x.firstLane).toNat + 96 ≤ x.g.regCount →
      exec (.window a) s = .next (moveOn x
        (x.s.modSplit x.g.id x.p.id fun p => { p with pwb := some (x.src a x.firstLane).toNat }))) ∧
    (∀ a, Issues (.window a) s x → x.anyActive = true →
      ((x.src a x.firstLane).toNat % 16 ≠ 0 ∨ x.g.regCount < (x.src a x.firstLane).toNat + 96) →
      exec (.window a) s = .next (s.raise x.g.id x.p.id (trap .windowRange))) ∧
    (∀ a, Issues (.window a) s x → x.anyActive = false → exec (.window a) s = .next (moveOn x x.s)) ∧
    (Issues .yield s x → x.anyActive = true → exec .yield s = .next ((x.s.goHeader x.g.id x.p.id x.c.next).modSplit x.g.id x.p.id
      fun p => { p with wdog := x.g.budget.toNat, headers := 0, yielded := true })) ∧
    (Issues .yield s x → x.anyActive = false → exec .yield s = .next (x.s.goHeader x.g.id x.p.id x.c.next))

/-- What the end of a clause or the next word changes: the place of the issuing split, and with it the rejoin records it arrives
at, the orders of the accesses of splits that rejoin and the reads that these fix; every register, every other group and every byte
outside the rejoin area stay. -/
def Obligations.MoveOnFrame : Prop :=
  ∀ (s : State) (gid pid n : Nat) (g : Group), s.group? gid = some g →
    ∃ h, (s.advance gid pid n).group? gid = some h ∧ flowOnly g h ∧
      sameMachine s (s.advance gid pid n) ∧ otherGroups s (s.advance gid pid n) gid ∧ memoryKept s (s.advance gid pid n) g ∧
      (∀ p c, g.split? pid = some p → p.clause = some c → c.idx + n < c.words.length → c.only = false →
        ∃ q, h.split? pid = some q ∧ q.clause = some { c with idx := c.idx + n } ∧ q.hold = .none)

/-! ### Memory -/

/-- A level load whose lanes are aligned and in bounds completes once the split's earlier accesses of its bytes on the level's path are
performed: what each lane reads waits on the clause's flag and that path, fixed at issue or when it completes; nothing is stored but
what the group had still to write. A word with no lane active attaches and takes its turn on the path. A lane fixed at issue reads the
bytes at its level address, 0 beyond its slice, where nothing of the split makes another of its paths see older bytes. Which reads are
fixed at issue is free (log 6). -/
def Obligations.LevelLoads : Prop :=
  ∀ (i : Instr) (s : State) (x : Ctx) (lv : Level4) (w : LWidth) (d a b : Operand),
    Issues i s x → levelLoad i = some (lv, w, d, a, b) → levelClear x lv (x.lanesFor d) a b (loadBytes w) →
    let n := loadBytes w
    let key := x.levelKey lv a b n
    let cells := ((x.lanesFor d).filterMap key).map fun k => (k, n)
    let u := x.s.orderFor x.g x.p.mask x.i.path cells
    (acts i x.c = false → exec i s = .next (moveOn x (passes { x with s := onGroup x x.attached }))) ∧
    (acts i x.c = true → u.blocked x.g.id x.p.mask x.i.path cells true = true → exec i s = .next (heldWith x u .path)) ∧
    (acts i x.c = true → u.blocked x.g.id x.p.mask x.i.path cells true = false →
      ∃ h, u.group? x.g.id = some h ∧
        let late := fun l => inMask u.loose.late l && (key l).isSome
        let o := x.loadOut w d (x.lanesFor d) late (fun l => { lane := l, key := (key l).getD 0, width := w, dests := [] })
          (x.levelValue u h lv a b n)
        exec i s = .next (moveOn x (u.modGroup x.g.id (awaiting x o.1 none none o.2 []))) ∧
        (u.loose.late = 0 → o = (x.outOn (x.lanesFor d) d fun l => loadWords w (x.levelValue u h lv a b n l), [])) ∧
        (∀ r ∈ o.2, ∃ l ∈ x.lanesFor d, inMask u.loose.late l = true ∧ x.s.reach x.g lv l (x.levelAddr a b l) n = .key r.key) ∧
        (h.olds = [] → h.region = none → (∀ e ∈ u.l2, e.die = x.g.die → e.bytes = []) →
          ∀ l, x.levelValue u h lv a b n l = levelValue { x with s := u } lv a b n l)) ∧
    (x.g.pendingFor x.p.mask = false → ∀ t, exec i s = .next t → sameMachine x.s t ∧ otherGroups x.s t x.g.id ∧ memoryKept x.s t x.g) ∧
    (∀ t, exec i s = .next t → otherGroups x.s t x.g.id ∧ memoryKeptBut x.s t x.g)

/-- A level store whose lanes are aligned and in bounds completes once the split's earlier accesses of its bytes on the level's path are
performed: one active lane's data goes to each key that active lanes name, now or, for the lanes whose writes wait, when they are
performed; a lane beyond its slice stores nothing; every byte outside the keys' ranges keeps its value, but images of rejoin records and
what the group had still to write; it counts on the level's path until performed, and with no lane active takes its turn there. Which
lane's bytes remain where lanes collide is free (log 11), and so is which lanes' writes wait (log 6). -/
def Obligations.LevelStores : Prop :=
  ∀ (i : Instr) (s : State) (x : Ctx) (lv : Level4) (w : SWidth) (d a b : Operand),
    Issues i s x → levelStore i = some (lv, w, d, a, b) → levelClear x lv x.activeLanes a b (storeSize w) →
    let n := storeSize w
    let ws := x.levelWrites lv w d a b
    let cells := ws.map LaneWrite.cell
    let u := x.s.orderFor x.g x.p.mask x.i.path cells
    (acts i x.c = true → u.blocked x.g.id x.p.mask x.i.path cells false = false → exec i s = .next (moveOn x
      ((u.performWrites x.g x.p.mask (u.nextFlight x.g.id) x.i.path (nowOf x u ws)).bump.modGroup x.g.id fun g =>
        underWay x .performed g (lateOf x u ws)))) ∧
    (acts i x.c = true → u.blocked x.g.id x.p.mask x.i.path cells false = true → exec i s = .next (heldWith x u .path)) ∧
    (acts i x.c = false → exec i s = .next (moveOn x (passes { x with s := x.s.bump }))) ∧
    (∀ e ∈ ws, e.lane ∈ x.activeLanes ∧ x.s.reach x.g lv e.lane (x.levelAddr a b e.lane) n = .key e.key ∧
      e.bytes = x.storeData w d e.lane ∧ delayed x u e = inMask u.loose.delay e.lane) ∧
    (∀ l ∈ x.activeLanes, ∀ k, x.s.reach x.g lv l (x.levelAddr a b l) n = .key k → ∃ e ∈ ws, e.key = k) ∧
    ws.Pairwise (fun e e' => e.key ≠ e'.key) ∧
    (x.g.pendingFor x.p.mask = false → ∀ t, exec i s = .next t →
      t = { x.s with groups := t.groups, mem := t.mem, poison := t.poison, l1 := t.l1, l2 := t.l2, tick := x.s.tick + 1 }) ∧
    (∀ t, exec i s = .next t →
      otherGroups x.s t x.g.id ∧
      (u.blocked x.g.id x.p.mask x.i.path cells false = false →
        ∀ e ∈ nowOf x u ws, (∀ j, j < n → ¬ rejoinByte x.g (e.key + j)) → t.bytesAt e.key n = e.bytes) ∧
      (∀ k, (∀ e ∈ ws, k < e.key ∨ e.key + n ≤ k) → ¬ rejoinByte x.g k → ¬ pendingByte x.g k → t.byteAt k = x.s.byteAt k))

/-- An LDS, STS or ATOMS whose address plus size exceeds the workgroup's SCRATCH raises SCR_BOUNDS, so with SCRATCH = 0 every
one does; on a host core every allocation is 0, and LDS, STS, ATOMS, LDC, STC, ATOMC, LDD and STD raise their bounds faults for
every address. The alignment check comes first, so the lanes are aligned. -/
def Obligations.ScratchBounds : Prop :=
  ∀ (s : State) (x : Ctx) (i : Instr) (a b : Operand) (size : Nat) (lanes : List Nat) (once : Bool) (lv : Level4),
    Issues i s x →
    ((∃ w d, levelLoad i = some (lv, w, d, a, b) ∧ size = loadBytes w ∧ lanes = x.lanesFor d ∧ once = isScalar d) ∨
     (∃ w d, levelStore i = some (lv, w, d, a, b) ∧ size = storeSize w ∧ lanes = x.activeLanes ∧ once = false) ∨
     (∃ o d, levelAtomic i = some (lv, o, d, a, b) ∧ size = 4 ∧ lanes = x.lanesFor d ∧ once = isScalar d)) →
    (∀ l ∈ lanes, x.levelAddr a b l % size = 0) →
    (lv = .scratch → (∃ l ∈ lanes, x.s.scratchSize x.g < x.levelAddr a b l + size) →
      exec i s = .next (s.raise x.g.id x.p.id { trap .scrBounds with
        tval := if once then 1 else maskOf (lanes.filter fun l => x.s.scratchSize x.g < x.levelAddr a b l + size),
        byLanes := true })) ∧
    (x.g.isHost = true → lv ≠ .lane → lanes ≠ [] →
      exec i s = .next (s.raise x.g.id x.p.id
        { trap (match lv with
            | .cluster => .cluBounds
            | .die => .dieBounds
            | _ => .scrBounds) with tval := if once then 1 else maskOf lanes, byLanes := true })) ∧
    (x.g.isHost = true → x.s.scratchSize x.g = 0 ∧ x.s.dieScratchSize x.g = 0) ∧
    (x.g.isHost = false → x.s.scratchSize x.g = (x.s.recordOf x.g).scratch)

/-- LD and LDB whose lanes pass their address checks complete, once the split's earlier accesses of their bytes on path GLB are performed
and no write of the die to a copy of a REPLREAD line is under way. Each lane's value waits on the clause's flag and path GLB with the
fault of poisoned data if it meets some: a line that the die may read as it stands gives its bytes at issue or when the load completes;
one that it may not, and another package's word, is asked for under a tag and comes with the answer; a package that no plane reaches
denies its lanes. A lane fixed at issue reads the bytes at its address, where nothing of the split makes another of its paths see older
bytes and no line of a cache away from home answers. Memory keeps every byte that the address checks left, but what the group had still
to write. A word with no lane active attaches and takes its turn on the path. LD's address is the pair plus the sign-extended offset.
Which reads are fixed at issue is free (log 6). -/
def Obligations.GlobalLoads : Prop :=
  ∀ (i : Instr) (s s' : State) (x : Ctx) (w : LWidth) (d : Operand) (gs : List (Nat × Grant)),
    Issues i s x →
    ((∃ a b, i = .ld w d a b ∧
        x.lanes x.s (x.lanesFor d) (fun l => x.src64 a l + sext64 (x.src b l)) (loadBytes w) (loadBytes w) { r := true } true (isScalar d)
          = .ok (s', gs)) ∨
     (∃ k b, i = .ldb w d k b ∧
        (eachLane x.s (x.lanesFor d) (fun l => (x.slot k).base + zext64 (x.src b l)) (isScalar d) fun s l =>
          slotAccess s x.g.agent (x.slot k) (x.src b l).toNat ((x.slot k).base + zext64 (x.src b l)).toNat (loadBytes w) false)
          = .ok (s', gs))) →
    (acts i x.c = false → exec i s = .next (moveOn x (passes { x with s := x.s.bump.modGroup x.g.id x.attached }))) ∧
    LoadIssued i s s' x w d gs

/-- ST, STB and SCAT whose lanes pass their address checks into this package's memory, in no unhardened region, complete, once the
split's earlier accesses of their bytes on path GLB are performed: memory is what the address checks left with each lane's bytes written
at its key, one lane's where several share a key, for the lanes whose writes do not wait; a write waits with its instruction where the
step delays it or the die may not write its line as it stands; every byte outside the stored ones, the rejoin area and what the group
had still to write keeps its value; a single lane's bytes read back. An inactive instruction takes its turn. Which lanes' writes wait is
free (log 6); which lane's bytes remain where lanes collide is free (log 11). -/
def Obligations.GlobalStores : Prop :=
  ∀ (i : Instr) (s s' : State) (x : Ctx) (gs : List (Nat × Grant)) (f : Nat → List Byte),
    Issues i s x →
    ((∃ w d a b, i = .st w d a b ∧ f = x.storeData w d ∧
        x.lanes x.s x.activeLanes (fun l => x.src64 a l + sext64 (x.src b l)) (storeSize w) (storeSize w) { w := true } true false
          = .ok (s', gs)) ∨
     (∃ w d k b, i = .stb w d k b ∧ f = x.storeData w d ∧
        (eachLane x.s x.activeLanes (fun l => (x.slot k).base + zext64 (x.src b l)) false fun s l =>
          slotAccess s x.g.agent (x.slot k) (x.src b l).toNat ((x.slot k).base + zext64 (x.src b l)).toNat (storeSize w) true)
          = .ok (s', gs)) ∨
     (∃ d a b size, i = .scat d a b ∧ x.anyActive = true ∧ f = (fun l => bytesOf size (x.src d l).toNat) ∧
        badElem (x.src b x.firstLane).toNat = false ∧ bits (x.src b x.firstLane).toNat 8 5 = 0 ∧
        [1, 0, 2, 0, 4].getD ((x.src b x.firstLane).toNat % 8) 0 = size ∧ size ≠ 0 ∧
        x.lanes x.s x.activeLanes (fun l => x.src64 a l) size size { w := true } true false = .ok (s', gs))) →
    allCells gs → writesThrough x →
    let ws := remaining s'.tick LaneWrite.place (grantWrites gs f)
    let cells := ws.map LaneWrite.cell ++ grantCells (gs.filter fun e => e.2.repl) ((ws.head?.map fun w => w.bytes.length).getD 0)
    let u := s'.orderFor x.g x.p.mask x.i.path cells
    let waits := fun w : LaneWrite => !((grantOf gs w.lane).elim false fun gr => gr.tagged) && delayed x u w
    (acts i x.c = false → exec i s = .next (moveOn x (passes { x with s := x.s.bump }))) ∧
    (acts i x.c = true → u.blocked x.g.id x.p.mask x.i.path cells false = true → exec i s = .next (heldWith x u .path)) ∧
    (acts i x.c = true → u.blocked x.g.id x.p.mask x.i.path cells false = false →
      ∃ t h e, exec i s = .next t ∧ t.group? x.g.id = some h ∧ otherGroups x.s t x.g.id ∧
        h.regs = x.g.regs ∧ h.scalars = x.g.scalars ∧ h.preds = x.g.preds ∧ h.calls = x.g.calls ∧
        e ∈ h.flights ∧ e.id = u.nextFlight x.g.id ∧ e.path = some .glb ∧ e.mask = x.issueMask ∧ e.lines = linesOf gs ∧
        e.work = .performed ∧
        ((ws.filter waits = []) → e.writes = []) ∧
        ((∀ w ∈ ws, waits w = false ∧ ∃ gr, grantOf gs w.lane = some gr ∧ (gr.tagged = true → gr.copies = [])) →
          ∀ k, ¬ rejoinByte x.g k → t.byteAt k = (ws.foldl (fun s w => s.writeMem w.key w.bytes) u).byteAt k) ∧
        (∀ k, ¬ storedAt gs f k → ¬ rejoinByte x.g k → ¬ pendingByte x.g k → t.byteAt k = s'.byteAt k) ∧
        (∀ l gr k home, gs = [(l, gr)] → gr.place = .cell k home → gr.copies = [] → (∀ w ∈ ws, waits w = false) →
          (∀ j, j < (f l).length → ¬ rejoinByte x.g (k + j)) → t.bytesAt k (f l).length = f l) ∧
        (∀ l gr k home hm, gs = [(l, gr)] → gr.place = .cell k home → gr.home? = some hm → gr.tagged = false →
          u.mayWrite x.g.die hm = false → ∃ w, e.writes = [w] ∧ w.lane = l ∧ w.key = k ∧ w.bytes = f l))

/-- The checks of one global access in their order: alignment, canonical form, a present and permitted page, its region, its
tag; a leaf with REP = 1 refuses every write and every atomic with PAGE_PROTECTION whatever its W bit, a leaf with REP = 0 and W = 0
refuses the write unless a migration has cleared its W, which then waits, and a leaf with R = 0 refuses a read; a translation that fails
names the cached ones it discards; an address that no region holds is PAGE_PROTECTION with REGION; a tag that differs is TAG_MISMATCH;
an access that passes is granted its place. Their order is the model's choice, and which leaf a contiguous hint uses is free (log 50). Where the address checks of a global
access fail, the word raises their fault; where a translation waits for a migration, the split is held. -/
def Obligations.AccessChecks : Prop :=
  (∀ (s : State) (ag : Agent) (ea size align : Nat) (need : Need) (tag : Bool),
      (ea % align ≠ 0 → access s ag ea size align need tag = .error (some (trap .align))) ∧
      (ea % align = 0 → ea / 2 ^ 57 % 8 ≠ 0 → access s ag ea size align need tag = .error (some (trap .canonical))) ∧
      (ea % align = 0 → ea / 2 ^ 57 % 8 = 0 → s.cached? ag.ctx ag.die ag.core (ea % 2 ^ 57) need = none →
        (∀ t, s.walkFor ag.ctx ag.die (ea % 2 ^ 57) need = .error t →
          access s ag ea size align need tag = .error (some { t with stale := [(ag.ctx, ag.die, ea % 2 ^ 57)] })) ∧
        (∀ lf : Leaf, s.walkFor ag.ctx ag.die (ea % 2 ^ 57) need = .ok lf → hintPoisoned s ag.die lf = false →
          let leaf := (hinted s ag.die lf).1
          (bit leaf.entry 6 = true → need.w = true → access s ag ea size align need tag =
            .error (some { trap .pageProtection with stale := [(ag.ctx, ag.die, ea % 2 ^ 57)] })) ∧
          (bit leaf.entry 6 = false → bit leaf.entry 3 = false → need.w = true → access s ag ea size align need tag =
            if s.migrating leaf then .error none
            else .error (some { trap .pageProtection with stale := [(ag.ctx, ag.die, ea % 2 ^ 57)] })) ∧
          (bit leaf.entry 2 = false → need.r = true → need.w = false → need.pw = false → access s ag ea size align need tag =
            .error (some { trap .pageProtection with stale := [(ag.ctx, ag.die, ea % 2 ^ 57)] })))) ∧
      (∀ (u : State) (xl : Xlat), ea % align = 0 → ea / 2 ^ 57 % 8 = 0 →
        translate s ag.ctx ag.die (ea % 2 ^ 57) need ag.core = .ok (u, xl) →
        (u.regionOf xl.pa = none → ag.sys = false → access s ag ea size align need tag =
          .error (some { trap .pageProtection with noRegion := true })) ∧
        (∀ k home, u.placeFor ag need xl.pa = .cell k home →
          (tag = true → bit xl.leaf 5 = true → (u.tagAt k).toNat ≠ ea / 2 ^ 60 % 16 →
            access s ag ea size align need tag = .error (some (trap .tagMismatch))) ∧
          ((tag = true → bit xl.leaf 5 = true → ∀ j ∈ granulesOf k size, (u.tagAt j).toNat = ea / 2 ^ 60 % 16) →
            ∃ gr, access s ag ea size align need tag = .ok (u, gr) ∧ gr.place = .cell k home ∧ gr.pa = xl.pa))) ∧
      (∀ leaf : Nat, bit leaf 6 = true → need.w = true → grants leaf need = false) ∧
      (∀ leaf : Nat, bit leaf 6 = false → bit leaf 3 = true → need.r = false → need.x = false → grants leaf need = true) ∧
      (∀ (t : Tlb), s.cached? ag.ctx ag.die ag.core (ea % 2 ^ 57) need = some t → s.ns < t.expiry ∧ grants t.leaf.toNat need = true)) ∧
  (∀ (s : State) (x : Ctx) (d a b : Operand) (w : LWidth) (v : SWidth),
      (∀ t, Issues (.ld w d a b) s x →
        x.lanes x.s (x.lanesFor d) (fun l => x.src64 a l + sext64 (x.src b l)) (loadBytes w) (loadBytes w) { r := true } true (isScalar d)
          = .error (some t) → exec (.ld w d a b) s = .next (s.raise x.g.id x.p.id t)) ∧
      (Issues (.ld w d a b) s x →
        x.lanes x.s (x.lanesFor d) (fun l => x.src64 a l + sext64 (x.src b l)) (loadBytes w) (loadBytes w) { r := true } true (isScalar d)
          = .error none → exec (.ld w d a b) s = .next (s.holdSplit x.g.id x.p.id .map)) ∧
      (∀ t, Issues (.st v d a b) s x →
        x.lanes x.s x.activeLanes (fun l => x.src64 a l + sext64 (x.src b l)) (storeSize v) (storeSize v) { w := true } true false
          = .error (some t) → exec (.st v d a b) s = .next (s.raise x.g.id x.p.id t)) ∧
      (Issues (.st v d a b) s x →
        x.lanes x.s x.activeLanes (fun l => x.src64 a l + sext64 (x.src b l)) (storeSize v) (storeSize v) { w := true } true false
          = .error none → exec (.st v d a b) s = .next (s.holdSplit x.g.id x.p.id .map)))

/-- An atomic at a level address whose lanes are aligned and in bounds completes, once the split's earlier accesses of its words on the
same path are performed: each word has one combined read-modify-write of its lanes, performed now or, where the step delays it, later,
and the lanes' old values wait on the clause's flag. Performed, it writes the word that the op makes of the word in memory and the lanes'
operands, and each lane receives the value before its own step. When it is performed is free (log 6). -/
def Obligations.LevelAtomics : Prop :=
  (∀ (i : Instr) (s : State) (x : Ctx) (lv : Level4) (o : AtomicOp) (d a b : Operand),
    Issues i s x → levelAtomic i = some (lv, o, d, a, b) → levelClear x lv (x.lanesFor d) a b 4 → acts i x.c = true →
    let at_ := (x.lanesFor d).filterMap fun l => match x.s.reach x.g lv l (x.levelAddr a b l) 4 with
      | .key k => some (l, k)
      | _ => none
    let cells := at_.map fun e => (e.2, 4)
    let u := x.s.orderFor x.g x.p.mask x.i.path cells
    (u.blocked x.g.id x.p.mask x.i.path cells false = true → exec i s = .next (heldWith x u .path)) ∧
    (u.blocked x.g.id x.p.mask x.i.path cells false = false →
      let units := x.atomUnits o d at_ (x.atomVals true o d b) fun _ => none
      exec i s = .next (moveOn x ((u.modGroup x.g.id fun g => (x.attached g).addFlight
        { flightOf x x.i.path x.c.flag (.results [] (x.outOn (x.lanesFor d) d fun _ => [0]).push none) with atoms := units }).startAtoms
          x.g (u.nextFlight x.g.id) fun _ => false)) ∧
      (∀ l k, at_ = [(l, k)] → units =
        [{ lane := l, key := k, op := o, items := [((x.atomVals true o d b l).1, (x.atomVals true o d b l).2, x.lateDests .n32 d l)] }]) ∧
      (∀ l k n, at_ = [(l, k)] → d = .v n → inMask u.loose.delay l = false → o ≠ .faddF32 → o ≠ .faddBf16x2 →
        (∀ f ∈ x.g.flights, f.id < x.g.nextFlight) → (∀ j, j < 4 → ¬ rejoinByte x.g (k + j)) →
        ∃ t h e, exec i s = .next t ∧ t.group? x.g.id = some h ∧ e ∈ h.flights ∧ e.flag = x.c.flag ∧ e.path = x.i.path ∧ e.atoms = [] ∧
          e.work = .results [.vec (x.p.wb + n.val) l (BitVec.ofNat 32 (u.readMem k 4))] none none ∧
          t.readMem k 4 = atomStep o (u.readMem k 4) (x.atomVals true o d b l).1 (x.atomVals true o d b l).2 % 2 ^ 32))) ∧
  (∀ (s : State) (g : Group) (f : Flight) (m : AtomUnit),
    let r := m.combine (s.readMem m.key 4)
    (∀ k, (s.performAtom g f m).byteAt k = (s.writeMem m.key (bytesOf 4 r.2)).byteAt k) ∧
    (∀ h e, s.group? g.id = some h → h.flight? f.id = some e → e.late = [] →
      ∃ h' e', (s.performAtom g f m).group? g.id = some h' ∧ h'.flight? f.id = some e' ∧ e'.atoms = removeFirst e.atoms m ∧
        e'.work = e.work.fill r.1)) ∧
  (∀ (m : AtomUnit) (x v c : Nat) (ds : List Dest), m.items = [(v, c, ds)] → m.op ≠ .faddF32 → m.op ≠ .faddBf16x2 →
    m.combine x = (ds.map fun d => d.put (BitVec.ofNat 32 x), atomStep m.op x v c)) ∧
  (∀ (op : AtomicOp) (x v c : Nat) (t : List (Nat × Nat)), op ≠ .faddF32 → op ≠ .faddBf16x2 →
    atomCombine op x ((v, c) :: t) =
      (x :: (atomCombine op (atomStep op x v c) t).1, (atomCombine op (atomStep op x v c) t).2)) ∧
  (∀ x v c : Nat, atomStep .add x v c = (x + v) % 2 ^ 32 ∧ atomStep .exch x v c = v ∧ atomStep .cas x v x = v ∧
    (x ≠ c → atomStep .cas x v c = x) ∧ (v ≤ x → atomStep .inc x v c = 0) ∧ (x < v → atomStep .inc x v c = x + 1) ∧
    atomStep .and x v c = x &&& v ∧ atomStep .or x v c = x ||| v ∧ atomStep .xor x v c = x ^^^ v ∧
    atomStep .minn x v c = min x v ∧ atomStep .maxn x v c = max x v)

/-- ATOMG and REDG whose lanes pass their address checks in this package complete, after an unhardened region of the split hardens and
the split's earlier accesses of their words on path GLB are performed: each word has one combined read-modify-write of its lanes,
performed now where the die may write its line and the step does not delay it, or under a tag check, and later otherwise; ATOMG's lanes
receive the old values later, REDG counts on path GLB. When it is performed is free (log 6). -/
def Obligations.GlobalAtomics : Prop :=
  ∀ (s s' : State) (x : Ctx) (gs : List (Nat × Grant)), allCells gs →
    let u := (s'.harden x.g.id x.p.id 2).orderFor x.g x.p.mask x.i.path (grantCells gs 4)
    let v := (u.fetchLines x.g.die true (gs.filter fun e => e.2.tagged)).bump
    let fid := u.nextFlight x.g.id
    let tagged := fun m : AtomUnit => (grantOf gs m.lane).elim false fun gr => gr.tagged && gr.home?.isSome
    (∀ (o : AtomicOp) (d a b : Operand), Issues (.atomg o d a b) s x →
      x.lanes x.s (x.lanesFor d) (fun l => x.src64 a l) 4 4 { r := true, w := true } true (isScalar d) = .ok (s', gs) →
      acts (.atomg o d a b) x.c = true →
      let units := x.atomUnits o d (grantKeys gs) (x.atomVals false o d b) fun l => (grantOf gs l).bind Grant.home?
      (u.blocked x.g.id x.p.mask x.i.path (grantCells gs 4) false = true →
        exec (.atomg o d a b) s = .next (heldWith x u .path)) ∧
      (u.blocked x.g.id x.p.mask x.i.path (grantCells gs 4) false = false →
        exec (.atomg o d a b) s = .next (moveOn x ((v.modGroup x.g.id fun g => (x.attached g).addFlight
          { flightOf x x.i.path x.c.flag (.results [] (x.outOn (gs.map fun e => e.1) d fun _ => [0]).push none) with
            fault := v.poisonOf gs 4, lines := linesOf gs, atoms := units }).startAtoms x.g fid tagged)))) ∧
    (∀ (o : RedOp) (d a : Operand), Issues (.redg o d a) s x →
      x.lanes x.s x.activeLanes (fun l => x.src64 a l) 4 4 { r := true, w := true } true false = .ok (s', gs) →
      v.poisonOf gs 4 = none → acts (.redg o d a) x.c = true →
      let units := x.atomUnits (redAtomic o) .zero (grantKeys gs) (fun l => (x.val false d l, 0)) fun l => (grantOf gs l).bind Grant.home?
      (u.blocked x.g.id x.p.mask x.i.path (grantCells gs 4) false = true →
        exec (.redg o d a) s = .next (heldWith x u .path)) ∧
      (u.blocked x.g.id x.p.mask x.i.path (grantCells gs 4) false = false →
        exec (.redg o d a) s = .next (moveOn x (((v.modGroup x.g.id fun g => underWay x .performed g [] (linesOf gs)).modGroup x.g.id
          fun g => g.modFlight fid fun f => { f with atoms := units }).startAtoms x.g fid tagged)))) ∧
    (∀ (o : AtomicOp) (d : Operand) (vc : Nat → Nat × Nat) (home : Nat → Option Home) (l k : Nat), grantKeys gs = [(l, k)] →
      x.atomUnits o d (grantKeys gs) vc home =
        [{ lane := l, key := k, op := o, items := [((vc l).1, (vc l).2, x.lateDests .n32 d l)], home := home l }]) ∧
    (∀ (w : State) (h : Group) (e : Flight) (m : AtomUnit), w.group? x.g.id = some h → h.flight? fid = some e → e.atoms = [m] →
      (inMask w.loose.delay m.lane = false → w.homeReady x.g m.asked m.home = true →
        w.startAtoms x.g fid tagged = w.performAtom x.g e m) ∧
      (tagged m = true → w.startAtoms x.g fid tagged = w.performAtom x.g e m) ∧
      (tagged m = false → inMask w.loose.delay m.lane = true ∨ w.homeReady x.g m.asked m.home = false →
        w.startAtoms x.g fid tagged = w.askAtom x.g fid m))

/-- FENCE, PFENCE, PREF and a WAITP whose path has come down to its count move on. A fence of kind REL, ACQREL or SC hardens an
unhardened region, and the split's later writes wait while an instruction it covers has an access that is not performed; one of kind
ACQ, ACQREL or SC fixes the reads that can be and, at WG or wider, empties the L1 of its core; after a PFENCE the split's second path
sees what its completed instructions wrote on the first. A WAITP that finds more outstanding is held on the path. A WAITMEM whose words
equal its operand goes on after an acquire; one that finds a difference parks. When a covered access is performed is free (log 6). -/
def Obligations.FencesAndWaits : Prop :=
  (∀ (s : State) (x : Ctx),
    (∀ sc k, Issues (.fence sc k) s x →
      let rel := (x.s.harden x.g.id x.p.id 4).release x.g.id x.p.mask sc
      let all := ((x.s.harden x.g.id x.p.id 4).addOrder x.g.id x.p.mask .sc (Scope.wide sc)).dropOlds x.g.id fun o =>
        o.lanes &&& x.p.mask ≠ 0
      let acq := fun u : State => (u.addOrder x.g.id x.p.mask .acq).acquire ((u.group? x.g.id).getD x.g) x.p.mask sc
      exec (.fence sc k) s = .next (moveOn x (match k with
        | .acq => acq x.s
        | .rel => rel
        | .acqrel => acq rel
        | .sc => acq all))) ∧
    (∀ a b p q, Issues (.pfence a b) s x → Path.ofCode? a.val = some p → Path.ofCode? b.val = some q →
      let u := x.s.pfence x.g.id x.p.mask p q
      exec (.pfence a b) s = .next (moveOn x (if q = .glb then u.dropL1 x.g else u))) ∧
    (∀ a b, Issues (.pfence a b) s x → Path.ofCode? a.val = none ∨ Path.ofCode? b.val = none →
      exec (.pfence a b) s = .next (moveOn x x.s)) ∧
    (∀ lv a b, Issues (.pref lv a b) s x → exec (.pref lv a b) s = .next (moveOn x x.s)) ∧
    (∀ pp b q, Issues (.waitp pp b) s x → Path.ofCode? pp.val = some q → x.g.pathCount q ≤ (x.src b x.scalarLane).toNat →
      exec (.waitp pp b) s = .next (moveOn x x.s)) ∧
    (∀ pp b q, Issues (.waitp pp b) s x → Path.ofCode? pp.val = some q → (x.src b x.scalarLane).toNat < x.g.pathCount q →
      x.g.engineFaultFor x.p = none → exec (.waitp pp b) s = .next (s.holdSplit x.g.id x.p.id .path)) ∧
    (∀ sc a b, Issues (.waitmem sc a b) s x → x.anyActive = false → exec (.waitmem sc a b) s = .next (moveOn x x.s)) ∧
    (∀ sc a b s' gs, Issues (.waitmem sc a b) s x → x.anyActive = true →
      x.lanes x.s x.activeLanes (fun l => x.src64 a l) 4 4 { r := true } true false = .ok (s', gs) → allCells gs →
      s'.poisonOf gs 4 = none →
      let u := s'.orderFor x.g x.p.mask (some .glb) (grantCells gs 4)
      (u.blocked x.g.id x.p.mask (some .glb) (grantCells gs 4) true = true →
        exec (.waitmem sc a b) s = .next (heldWith x u .path)) ∧
      (u.blocked x.g.id x.p.mask (some .glb) (grantCells gs 4) true = false →
        ((∀ e ∈ gs, x.passWord u e.1 e.2 = (x.src b e.1).toNat) → x.p.hold ≠ .waitmem →
          exec (.waitmem sc a b) s = .next (moveOn x (u.acquire x.g x.p.mask sc))) ∧
        ((∃ e ∈ gs, x.passWord u e.1 e.2 ≠ (x.src b e.1).toNat) →
          exec (.waitmem sc a b) s = .next (heldWith x ((u.acquire x.g x.p.mask sc).modSplit x.g.id x.p.id fun p =>
            { p with recheck := false, parkedAt := u.ns }) .waitmem)) ∧
        (x.g.region = none → (∀ e ∈ u.l2, e.die = x.g.die → e.bytes = []) →
          ∀ e ∈ gs, ∀ k h, e.2.place = .cell k h → x.passWord u e.1 e.2 = u.readMem k 4)))) ∧
  (∀ (u : State) (gid : Nat) (lanes : LaneMask) (sc : Scope) (g : Group), u.group? gid = some g →
    ((∃ f ∈ g.flights, f.id < g.nextFlight ∧ f.lanes &&& lanes ≠ 0 ∧ f.loose = true ∧ ∃ q, f.path = some q ∧ isCovered q = true) →
      ∃ h, (u.release gid lanes sc).group? gid = some h ∧ (u.release gid lanes sc).releasedFor h lanes true = false) ∧
    (∀ f ∈ g.flights, ∀ q, f.id < g.nextFlight → f.lanes &&& lanes ≠ 0 → f.path = some q → isCovered q = true →
      sc = .pnl ∨ sc = .sys → (∃ p ∈ u.fabricOut, p.owner = some (gid, f.id)) →
      ∃ h, (u.release gid lanes sc).group? gid = some h ∧ (u.release gid lanes sc).releasedFor h lanes true = false) ∧
    (u.release gid lanes sc).mem = u.mem ∧ (u.acquire g lanes sc).mem = u.mem ∧
    (sc ≠ .grp → ∀ e ∈ (u.acquire g lanes sc).l1, g.ownLine e = false)) ∧
  (∀ (u : State) (gid : Nat) (lanes : LaneMask) (p q : Path) (h : Group), (u.pfence gid lanes p q).group? gid = some h →
    ∀ o ∈ h.olds, o.lanes &&& lanes ≠ 0 → (∃ e ∈ o.sources, e.1 = p ∧ h.flight? e.2 = none) →
      ∀ k, o.hides lanes (some q) k = false)

/-- BTSET of a translated pointer waits to fill its slot; TAGSET sets the granules' tags, once the data that accesses under the old ones
read is fixed; TAGGET waits to return them. -/
def Obligations.SlotsAndTags : Prop :=
  ∀ (s s' : State) (x : Ctx),
    (∀ k a b xl, Issues (.btset k a b) s x → ((x.src64 a x.scalarLane).toNat / 2 ^ 57 % 8 = 0) →
      translate x.s x.g.ctx x.g.die ((x.src64 a x.scalarLane).toNat % 2 ^ 57) {} (some x.g.coreNum) = .ok (s', xl) →
      exec (.btset k a b) s = .next (moveOn x (s'.modGroup x.g.id fun g => (x.attached g).addFlight
        (flightOf x (some .glb) x.c.flag (.results [] none (some (k.val,
          { base := x.src64 a x.scalarLane, phys := xl.pa, t := bit xl.leaf 5, r := bit xl.leaf 2, w := bit xl.leaf 3 && !bit xl.leaf 6,
            rep := bit xl.leaf 6, d := bit xl.leaf 13, coh := bits xl.leaf 8 2, lease := xl.expiry, limit := min (x.src b x.scalarLane).toNat xl.toEnd }))))))) ∧
    (∀ d a l gr k home, Issues (.tagset d a) s x → x.activeLanes = [l] →
      x.lanes x.s x.activeLanes (fun l => x.src64 a l) 32 32 { w := true } false false = .ok (s', [(l, gr)]) →
      gr.place = .cell k home → gr.copies = [] →
      exec (.tagset d a) s = .next (moveOn x
        (((((s'.harden x.g.id x.p.id 2).fixOver k 32).writeTag k (BitVec.ofNat 4 (x.src d l).toNat)).bump.fetchLines x.g.die true
          [(l, gr)]).modGroup x.g.id fun g => underWay x .performed g [] (linesOf [(l, gr)])))) ∧
    (∀ d a gs, Issues (.tagget d a) s x → acts (.tagget d a) x.c = true →
      x.lanes x.s (x.lanesFor d) (fun l => x.src64 a l) 32 32 { r := true } false (isScalar d) = .ok (s', gs) → allCells gs →
      exec (.tagget d a) s = .next (moveOn x ((s'.fetchLines x.g.die false gs).bump.modGroup x.g.id (awaiting x
        (x.outOn (gs.map fun e => e.1) d fun l => [match (grantOf gs l).map fun gr => gr.place with
          | some (Place.cell k _) => BitVec.ofNat 32 (s'.tagAt k).toNat
          | _ => 0]) none none [] [])))) ∧
    (∀ (k : Nat) (v : BitVec 4), (s.writeTag k v).tagAt k = v ∧
      (∀ j, j / 32 ≠ k / 32 → (s.writeTag k v).tagAt j = s.tagAt j) ∧ (s.writeTag k v).mem = s.mem)

/-! ### System registers and the handler's instructions -/

/-- SRD of a register that the split may read writes what the number names (and latches SR_GTIME's other half); SWR writes the
value of a, in its lowest active lane, to the register; either of a refused number raises ILLEGAL_OPERAND with the number.
Numbers 0x00–0x09 are open to every thread, 0x10–0x17 written in handler mode only, 0x18 and 0x19 never written, 0x20 and
0x22–0x29 written by system code only, 0x2A and 0x2B system code's alone, all others refused. What a written system register
reads back as: the bits its map lets a program write, and the others as they are fixed; SR_FSTAT's written ones clear;
SR_QLIMIT.SHIFT, SR_LEASE.MAX and SR_HOLD.LIMIT are brought into their ranges. A write of a system register leaves memory, the
other groups and every context but the one it reaches as they were, and the general registers of its own group. -/
def Obligations.SystemRegisterAccess : Prop :=
  ((∀ (d : Operand) (r : SrNum) (s : State) (x : Ctx), Issues (.srd d r) s x → acts (.srd d r) x.c = true →
      exec (.srd d r) s = .next (moveOn x (onGroup x fun g =>
        (written (x.out d fun _ => [srWord x.s x.g x.p r.val]) g).modSplit x.p.id (latchTime x.s r.val)))) ∧
    (∀ (d : Operand) (r : SrNum) (s : State) (x : Ctx), Issues (.swr d r) s x → acts (.swr d r) x.c = true →
      exec (.swr d r) s = .next (moveOn x (x.s.writeSr x.g x.p.id r.val (x.src d x.firstLane)))) ∧
    (∀ (d : Operand) (r : SrNum) (s : State) (g : Group) (p : Split) (c : Clause), s.issuer = some (g, p, c) →
      ((Instr.srd d r).wf = true → srAllowed r.val false g p = false →
        exec (.srd d r) s = .next (s.raise g.id p.id { trap .illegalOperand with tval := BitVec.ofNat 32 r.val })) ∧
      ((Instr.swr d r).wf = true → srAllowed r.val true g p = false →
        exec (.swr d r) s = .next (s.raise g.id p.id { trap .illegalOperand with tval := BitVec.ofNat 32 r.val }))) ∧
    (∀ (n : Nat) (g : Group) (p : Split),
      (srAllowed n false g p = true ↔ n ≤ 0x09 ∨ (0x10 ≤ n ∧ n ≤ 0x19) ∨ n = 0x20 ∨ (0x22 ≤ n ∧ n ≤ 0x29) ∨
        (0x2A ≤ n ∧ n ≤ 0x2B ∧ g.system = true)) ∧
      (srAllowed n true g p = true ↔ n ≤ 0x09 ∨ (0x10 ≤ n ∧ n ≤ 0x17 ∧ p.handler = true) ∨
        ((n = 0x20 ∨ (0x22 ≤ n ∧ n ≤ 0x2B)) ∧ g.system = true)))) ∧
  ((∀ (s : State) (g : Group) (p : Split) (n : Nat) (v : Word),
        s.group? g.id = some g → g.split? p.id = some p → g.reached < s.contexts.length →
        ∃ h, (s.writeSr g p.id n v).group? g.id = some h ∧
          let r := srWord (s.writeSr g p.id n v) h p n
          (n = 0x00 → r = BitVec.ofNat 32 (g.fstat &&& ~~~(BitVec.ofNat 5 v.toNat)).toNat) ∧
          (n = 0x01 ∨ n = 0x02 ∨ n = 0x13 ∨ n = 0x14 ∨ n = 0x15 ∨ n = 0x16 → r = v) ∧
          (n = 0x03 → r = BitVec.ofNat 32 (v.toNat % 2 ^ 24) ∧ ∃ q, h.split? p.id = some q ∧ q.wdog = v.toNat % 2 ^ 24) ∧
          (n = 0x04 → (v.toNat % 64 < 16 → r = 16) ∧ (16 ≤ v.toNat % 64 ∧ v.toNat % 64 ≤ 40 → r = BitVec.ofNat 32 (v.toNat % 64)) ∧
            (41 ≤ v.toNat % 64 ∧ v.toNat % 64 ≤ 62 → r = 40) ∧ (v.toNat % 64 = 63 → r = 63)) ∧
          (n = 0x05 → r.toNat % 2 ^ 16 = v.toNat % 2 ^ 16 ∧ r.toNat / 2 ^ 16 = g.vstat.toNat / 2 ^ 16) ∧
          (n = 0x06 ∨ n = 0x08 → r = v &&& 0xFFFFFF80) ∧ (n = 0x07 ∨ n = 0x09 → r = v &&& 0xF1FFFFFF) ∧
          (n = 0x10 → r = v &&& 0xFFFFFFFC) ∧ (n = 0x11 → r = v &&& 0x01FFFFFF) ∧
          (n = 0x12 → r = (g.causeReg &&& 0xFFFFFF7F) ||| (v &&& 0x80)) ∧ (n = 0x17 → r = v &&& 0x00F803FF) ∧
          (n = 0x20 → h.target = v.toNat / 2 ^ 16 % 64 ∧
            ((s.writeSr g p.id n v).context g.reached).dbg = bit v.toNat 30 ∧
            ((s.writeSr g p.id n v).context g.reached).bkhalt = bit v.toNat 29) ∧
          (n = 0x22 → r = v &&& 0xFFFFFFFD) ∧ (n = 0x23 → r = v &&& 0x01FFFFFF) ∧
          (n = 0x24 → r = v &&& 0xFFFFFE00) ∧ (n = 0x25 ∨ n = 0x29 → r = v &&& 0x000FFFFF) ∧
          (n = 0x26 → r = BitVec.ofNat 32 (max 2 (min 64 (v.toNat % 128)))) ∧
          (n = 0x27 → r = BitVec.ofNat 32 (max 10 (v.toNat % 65536))) ∧
          (n = 0x28 → r = v &&& 0xFFFFFFE1)) ∧
    (∀ (s : State) (g : Group) (p : Split) (n : Nat) (v : Word), s.group? g.id = some g →
        (s.writeSr g p.id n v).mem = s.mem ∧ (s.writeSr g p.id n v).tags = s.tags ∧
        otherGroups s (s.writeSr g p.id n v) g.id ∧
        (n < 0x18 ∨ 0x2A ≤ n → (s.writeSr g p.id n v).contexts = s.contexts) ∧
        (∀ c, c ≠ g.reached → (s.writeSr g p.id n v).context c = s.context c) ∧
        ∃ h, (s.writeSr g p.id n v).group? g.id = some h ∧ h.regs = g.regs ∧ h.scalars = g.scalars ∧ h.preds = g.preds ∧
          h.ports = g.ports ∧ h.flights = g.flights ∧ h.calls = g.calls))

/-- NOP only moves on; HALTALL halts the package at this cycle; BKPT with an active lane halts it in a context with DBG and
BKHALT, and raises BREAKPOINT with its code at the next header otherwise; with none active it moves on; KILL retires the lanes
of its split and the held ones, and ends handler mode. MAPPG is a release and leaves its result in SR_TVAL: where it starts no frame,
the walk's; with a frame, the compare-and-swap's, at once or when it issues again: won, the entry is written and 0; lost to another
present entry, the frame becomes the die's spare and 1. One act of the die runs at a time, and an uncorrectable error in the table or
the pool freezes the die. TRAP with an active lane raises SOFTWARE_TRAP with a's value in the lowest active lane, at the header after
its clause, after it has had its effect. TRAP takes its operand from the lowest active lane (log 26); whether MAPPG's compare-and-swap
waits is free (log 6). -/
def Obligations.ControlOfTheMachine : Prop :=
  (∀ (s : State) (x : Ctx),
      (Issues .nop s x → exec .nop s = .next (moveOn x x.s)) ∧
      (Issues .haltall s x → exec .haltall s = .next (moveOn x x.s.halt)) ∧
      (x.s.halt.halted = true ∧ x.s.halt.haltedAt = x.s.cycle ∧ x.s.halt.groups = x.s.groups ∧ x.s.halt.mem = x.s.mem ∧
        x.s.halt.contexts = x.s.contexts) ∧
      (∀ code : SrNum, Issues (.bkpt code) s x →
        (x.anyActive = false → exec (.bkpt code) s = .next (moveOn x x.s)) ∧
        (x.anyActive = true → (x.s.context x.g.ctx).dbg = true → (x.s.context x.g.ctx).bkhalt = true →
          exec (.bkpt code) s = .next (x.s.halt.goHeader x.g.id x.p.id x.c.next)) ∧
        (x.anyActive = true → ((x.s.context x.g.ctx).dbg = false ∨ (x.s.context x.g.ctx).bkhalt = false) →
          exec (.bkpt code) s = .next (s.raise x.g.id x.p.id
            { trap .breakpoint with tval := BitVec.ofNat 32 code.val, hdrAt := some x.c.next }))) ∧
      (∀ k : Handler, Issues .kill s x → x.g.handler = some k →
        exec .kill s = .next (((onGroup x fun g => ({ g with handler := none }).abandon k.flight).killSplit x.g.id x.p.id k.held).deliver x.g.id) ∧
        ∃ h, ((onGroup x fun g => ({ g with handler := none }).abandon k.flight).killSplit x.g.id x.p.id k.held).group? x.g.id = some h ∧
          h.handler = none ∧ h.retired = x.g.retired ||| (x.p.mask ||| k.held)) ∧
      (∀ a b, Issues (.mappg a b) s x →
        let u := x.s.release x.g.id x.p.mask .pnl
        let done := fun (r : State × Nat) => moveOn x (r.1.modGroup x.g.id fun g => { g with tval := BitVec.ofNat 32 r.2 })
        let mine := u.mapping.find? fun (j : MapJob) => j.group = x.g.id && j.split = x.p.id
        let start := u.mapStart x.g.ctx x.g.die (x.src64 a x.firstLane).toNat (x.src b x.firstLane).toNat
        (acts (.mappg a b) x.c = false → exec (.mappg a b) s = .next (moveOn x x.s)) ∧
        (acts (.mappg a b) x.c = true →
          (∀ j, mine = some j → exec (.mappg a b) s =
            .next (done (State.compareSwap { u with mapping := removeFirst u.mapping j } j.die j.leaf j.new j.frame))) ∧
          (mine = none → (∃ j ∈ u.mapping, j.die = x.g.die) → exec (.mappg a b) s = .next (s.holdSplit x.g.id x.p.id .map)) ∧
          (mine = none → (∀ j ∈ u.mapping, j.die ≠ x.g.die) →
            (∀ n, start = .result n → exec (.mappg a b) s = .next (done (u, n))) ∧
            (∀ t leaf new f, start = .frame t leaf new f → u.loose.slow = false →
              exec (.mappg a b) s = .next (done (t.compareSwap x.g.die leaf new f))) ∧
            (∀ t leaf new f, start = .frame t leaf new f → u.loose.slow = true →
              exec (.mappg a b) s = .next (heldWith x
                { t with mapping := t.mapping ++ [⟨x.g.id, x.p.id, x.g.die, leaf, new, f⟩] } .map)) ∧
            (start = .error →
              exec (.mappg a b) s = .next (s.raise x.g.id x.p.id { trap .uncorrectable with freezes := some x.g.die }))))) ∧
      (∀ ctx die va flags, canonical va = false → x.s.mapStart ctx die va flags = .result 3) ∧
      (∀ die leaf new f,
        (bit (x.s.physRead die leaf 8) 0 = true →
          x.s.compareSwap die leaf new f = (x.s.modDie die fun e => { e with spare := some f }, 1)) ∧
        (bit (x.s.physRead die leaf 8) 0 = false → x.s.compareSwap die leaf new f = (x.s.physWrite die leaf 8 new, 0)))) ∧
  (∀ (a : Operand) (s : State) (x : Ctx), Issues (.trap a) s x → x.anyActive = true →
      exec (.trap a) s = .next (x.s.raise x.g.id x.p.id
        { trap .softwareTrap with tval := x.src a x.firstLane, hdrAt := some x.c.next }))

/-- VBEGIN with no long-latency work outstanding opens a region that checkpoints the named registers of the split's lanes, the
predicates, the call depths and the pending rejoin address; VEND performs an unhardened region's writes and closes it as committed, and
closes a hardened one as hardened; an abort puts the checkpoint back, memory as it is, and the split at VBEGIN's header, with the call
stacks of its lanes cut to their depths. A store of an unhardened region's split, once the split's earlier accesses of its bytes are
performed, adds its bytes to the region's version while the limits allow; memory keeps every byte the address checks left, but what the
group had still to write. -/
def Obligations.VersionedRegions : Prop :=
  ((∀ (fr : FirstReg) (n : RegCount) (s : State) (x : Ctx), Issues (.vbegin fr n) s x → x.g.outstanding x.p.mask = false →
      exec (.vbegin fr n) s = .next (moveOn x (onGroup x fun g =>
        ({ g with region := some (x.checkpoint fr.val n.val) }).modSplit x.p.id fun p => { p with opener := true })) ∧
      (∀ k l, k < n.val → inMask x.p.mask l = true → l < 32 →
        sread (x.checkpoint fr.val n.val).regs ((x.p.wb + fr.val + k) * 32 + l) = x.g.reg (x.p.wb + fr.val + k) l) ∧
      (x.checkpoint fr.val n.val).preds = x.g.preds ∧ (x.checkpoint fr.val n.val).join = x.p.join ∧
      (x.checkpoint fr.val n.val).header = x.c.at_ ∧ (x.checkpoint fr.val n.val).wb = x.p.wb ∧
      (x.checkpoint fr.val n.val).lanes = x.p.mask ∧
      ∀ l, (x.checkpoint fr.val n.val).depths.getD l 0 = (x.g.calls.getD l []).length) ∧
    (∀ (fr : FirstReg) (n : RegCount) (s : State) (x : Ctx), Issues (.vbegin fr n) s x → x.g.outstanding x.p.mask = true →
      exec (.vbegin fr n) s = .next (s.holdSplit x.g.id x.p.id .flag)) ∧
    (∀ (s : State) (x : Ctx) (r : Region), Issues .vend s x → x.g.region = some r → x.p.opener = true →
      (r.hard = false → ∃ t h, exec .vend s = .next t ∧ t.group? x.g.id = some h ∧ h.region = none ∧ h.last = 1 ∧
        h.regs = x.g.regs ∧ h.scalars = x.g.scalars ∧ h.preds = x.g.preds ∧
        ∀ k, ¬ rejoinByte x.g k → ¬ pendingByte x.g k → k / 2 ^ 64 % 8 ≠ 5 → t.byteAt k = ((r.version.find? fun e => e.1 = k).map fun e => e.2).getD (x.s.byteAt k)) ∧
      (r.hard = true → exec .vend s = .next (moveOn x (onGroup x fun g => g.closeRegion 3)))) ∧
    (∀ (s : State) (x : Ctx), Issues .vend s x → (x.g.region = none ∨ x.p.opener = false) → exec .vend s = .next (moveOn x x.s)) ∧
    (∀ (s : State) (g : Group) (p : Split) (r : Region), s.group? g.id = some g → g.split? p.id = some p → g.region = some r →
      r.hard = false → p.opener = true →
      (s.abortRegion g.id p.id).mem = s.mem ∧
      ∃ h q, (s.abortRegion g.id p.id).group? g.id = some h ∧ h.split? p.id = some q ∧ h.region = none ∧ h.last = 2 ∧
        q.pc = r.header ∧ q.clause = none ∧ q.wb = r.wb ∧ q.pwb = none ∧ q.join = r.join ∧ q.opener = false ∧
        (∀ k l, k < r.count → inMask r.lanes l = true → l < 32 →
          h.reg (r.wb + r.first + k) l = sread r.regs ((r.wb + r.first + k) * 32 + l)) ∧
        (∀ n l, (inMask r.lanes l = false ∨ n < r.wb + r.first ∨ r.wb + r.first + r.count ≤ n) → l < 32 → h.reg n l = g.reg n l) ∧
        (∀ n l, n < 7 → l < 32 → inMask r.lanes l = true → h.pred n l = inMask (sread r.preds n) l) ∧
        (∀ n l, n < 7 → l < 32 → inMask r.lanes l = false → h.pred n l = g.pred n l) ∧
        (∀ l, inMask r.lanes l = true →
          h.calls.getD l [] = (g.calls.getD l []).drop ((g.calls.getD l []).length - r.depths.getD l 0)) ∧
        (∀ l, inMask r.lanes l = false → h.calls.getD l [] = g.calls.getD l []))) ∧
  (∀ (s s' : State) (x : Ctx) (r : Region) (w : SWidth) (d a b : Operand) (gs : List (Nat × Grant)),
      Issues (.st w d a b) s x →
      x.lanes x.s x.activeLanes (fun l => x.src64 a l + sext64 (x.src b l)) (storeSize w) (storeSize w) { w := true } true false
        = .ok (s', gs) →
      allCells gs → x.g.region = some r → x.p.opener = true → r.hard = false →
      let ws := remaining s'.tick LaneWrite.place (grantWrites gs (x.storeData w d))
      let cells := ws.map LaneWrite.cell ++ grantCells (gs.filter fun e => e.2.repl) ((ws.head?.map fun w => w.bytes.length).getD 0)
      let u := s'.orderFor x.g x.p.mask x.i.path cells
      let v := versionAdd u r.version ws
      (u.blocked x.g.id x.p.mask x.i.path cells false = true → exec (.st w d a b) s = .next (heldWith x u .path)) ∧
      (u.blocked x.g.id x.p.mask x.i.path cells false = false →
        versionLines v ≤ 2048 → u.dieVersionLines x.g.die + (versionLines v - versionLines r.version) ≤ 131072 →
        ∃ t h, exec (.st w d a b) s = .next t ∧ t.group? x.g.id = some h ∧ h.region = some { r with
            version := v, homes := r.homes ++ (ws.filterMap LaneWrite.home).filter fun h => h.repl || h.coh = 0 } ∧
          (∀ k, ¬ rejoinByte x.g k → ¬ pendingByte x.g k → t.byteAt k = s'.byteAt k)))

/-! ### Launches, barriers and places -/

/-- LAUNCH.G makes one child of the lowest active lane's record, LAUNCH.L one of every active lane's in ascending order, with
the launching group's context and the lane's argument, once every active lane's address is checked and every queue has room; a
full queue holds the split, and an uncorrectable error in a record faults. Both are releases. PHASEEND waits until every covered access
that its lanes issued is performed, then posts the value of its lanes to the phase slot. The record's bytes at issue name the queue
(log 30). -/
def Obligations.LaunchAndPhaseend : Prop :=
  (∀ (s : State) (x : Ctx) (a b : Operand) (s' : State) (gs : List (Nat × Grant)) (i : Instr) (lanes : List Nat),
    (i = .launchG a b ∧ lanes = [x.firstLane] ∨ i = .launchL a b ∧ lanes = x.activeLanes) → Issues i s x →
    (x.anyActive = false → exec i s = .next (moveOn x x.s)) ∧
    (x.anyActive = true →
      x.lanes x.s x.activeLanes (fun l => x.src64 a l) 128 128 { r := true } true false = .ok (s', gs) →
      let u := (s'.harden x.g.id x.p.id 4).release x.g.id x.p.mask .pnl
      let cs := lanes.filterMap fun l => ((recordBytes u gs).find? fun e => e.1 = l).map fun e =>
        ({ ctx := x.g.ctx, addr := x.src64 a l, arg := x.src b l, host := x.g.isHost,
           fromDie := if x.g.isHost then none else some x.g.die, bytes := e.2, after := some (x.g.id, u.nextFlight x.g.id) } : Child)
      (∀ t, recordPoison? u gs = some t → exec i s = .next (s.raise x.g.id x.p.id t)) ∧
      (recordPoison? u gs = none →
        ((∀ c ∈ cs, u.queueRoom (fieldAt c.bytes 26 1) (cs.filter fun e => fieldAt e.bytes 26 1 = fieldAt c.bytes 26 1).length = true) →
          exec i s = .next (moveOn x { u.bump with children := u.children ++ cs })) ∧
        ((∃ c ∈ cs, u.queueRoom (fieldAt c.bytes 26 1) (cs.filter fun e => fieldAt e.bytes 26 1 = fieldAt c.bytes 26 1).length = false) →
          exec i s = .next (s.holdSplit x.g.id x.p.id .queue))))) ∧
  (∀ (s s' : State) (x : Ctx) (o : PhaseOp) (a : Operand), Issues (.phaseend o a) s x →
    (x.anyActive = false → exec (.phaseend o a) s = .next (moveOn x x.s)) ∧
    (x.anyActive = true → (x.s.recordOf x.g).phase = 0 →
      exec (.phaseend o a) s = .next (moveOn x (x.s.harden x.g.id x.p.id 4))) ∧
    let u := x.atRelease 4
    (x.anyActive = true → (x.s.recordOf x.g).phase ≠ 0 → x.releaseOpen u = true →
      exec (.phaseend o a) s = .next (heldWith x u .path)) ∧
    (∀ h, u.group? x.g.id = some h → (∀ f ∈ h.flights, f.id < h.nextFlight) → x.releaseOpen u = false →
      ∀ f ∈ h.flights, f.lanes &&& x.p.mask ≠ 0 → u.coveredOpen h f true = false) ∧
    (∀ k home ks, x.anyActive = true → (x.s.recordOf x.g).phase ≠ 0 → x.releaseOpen u = false →
      hwPlace u x.g.ctx x.g.die (x.s.recordOf x.g).phase.toNat { r := true, w := true } = .ok (s', .cell k home, ks) →
      s'.poisoned k 4 = false →
      exec (.phaseend o a) s = .next (moveOn x
        (s'.writeKeys (k :: ks) (bytesOf 4 (phaseCombine o (s'.readMem k 4) (x.phaseValue o a)))))))

/-- BAR, CBAR and REGROUP harden, arrive and are held; BAR of a host-core thread goes on at once. When every lane of every group
of the workgroup that has not exited stands at the barrier, BAR_RELEASE passes each group, CBAR_RELEASE the cluster's, and
REGROUP_COMPLETE redistributes the lanes; a split that passes is past its word with the watchdog count refilled. Which registers
REGROUP moves when groups merge follows the model's order of movers (log 33). -/
def Obligations.Barriers : Prop :=
  (∀ (s : State) (x : Ctx),
    (∀ id, Issues (.bar id) s x → x.g.isHost = false →
      exec (.bar id) s = .next (heldWith x (x.s.harden x.g.id x.p.id 4) (.bar id.val))) ∧
    (∀ id, Issues (.bar id) s x → x.g.isHost = true →
      exec (.bar id) s = .next (moveOn x (((x.s.harden x.g.id x.p.id 4).refill x.g.id x.p.id).acquire x.g x.p.mask .wg))) ∧
    (∀ id, Issues (.cbar id) s x →
      exec (.cbar id) s = .next (heldWith x (x.s.harden x.g.id x.p.id 4) (.cbar id.val))) ∧
    (∀ id d fr n, Issues (.regroup id d fr n) s x → badRegroup x.s x.g x.p id.val = false →
      exec (.regroup id d fr n) s = .next (heldWith x (x.s.harden x.g.id x.p.id 4) (.regroup id.val))) ∧
    (∀ id d fr n, Issues (.regroup id d fr n) s x → badRegroup x.s x.g x.p id.val = true →
      exec (.regroup id d fr n) s = .next (s.raise x.g.id x.p.id (trap .illegalForm)))) ∧
  (∀ (s : State) (h : Hold) (gs : List Nat), s.barReady? = some (h, gs) →
    exec .barRelease s = .next (gs.foldl (fun s gid => s.passBarrier h gid) s)) ∧
  (∀ (s : State) (h : Hold) (gs : List Nat), s.cbarReady? = some (h, gs) →
    exec .cbarRelease s = .next (gs.foldl (fun s gid => s.passBarrier h gid) s)) ∧
  (∀ (s : State) (gs : List Group), s.regroupReady? = some gs →
    exec .regroupComplete s = .next (gs.zipIdx.foldl (fun s e =>
      let mine := ((gs.flatMap Group.movers).drop (32 * e.2)).take 32
      (s.modGroup e.1.id fun _ => if mine.isEmpty then e.1.dismissed else e.1.afterRegroup mine).acquire e.1 0xFFFFFFFF .wg) s)) ∧
  (∀ (s : State) (h : Hold) (gid : Nat) (g : Group) (p : Split) (c : Clause),
    s.group? gid = some g → g.splits = [p] → p.hold = h → p.clause = some c → c.idx + 1 < c.words.length → c.only = false →
    ∃ g' q, (s.passBarrier h gid).group? gid = some g' ∧ g'.split? p.id = some q ∧ q.hold = .none ∧ q.wdog = g.budget.toNat ∧
      q.clause = some { c with idx := c.idx + 1 })

/-- PLACE writes each lane the place word that its operand names, and raises PLACE_RANGE with the mask of the lanes whose
operand names none. -/
def Obligations.Places : Prop :=
  ∀ (s : State) (x : Ctx) (i : Instr) (d a : Operand) (f : Nat → Option Nat),
    Issues i s x →
    (i = .placeCl d a ∧ f = (fun l => x.s.placeCl x.g (signed 32 (x.val false a l))) ∨
     i = .placeDie d a ∧ f = (fun l => x.s.placeAt x.g
        (((x.s.coords x.g).1 : Int) + signed 16 (x.val false a l % 2 ^ 16)) (((x.s.coords x.g).2 : Int) + signed 16 (x.val false a l / 2 ^ 16 % 2 ^ 16))) ∨
     i = .placeRect d a ∧ f = (fun l => x.s.placeAt x.g
        (signed 16 (x.val false a l % 2 ^ 16)) (signed 16 (x.val false a l / 2 ^ 16 % 2 ^ 16))) ∨
     i = .placeFab d a ∧ f = (fun l => x.s.placeFab x.g (signed 32 (x.val false a l)))) →
    ((∀ l ∈ x.lanesFor d, (f l).isSome = true) →
      ∃ t h, exec i s = .next t ∧ t.group? x.g.id = some h ∧ Wrote x d true (fun l => (f l).getD 0) 0 h ∧ storesNothing x t) ∧
    ((∃ l ∈ x.lanesFor d, f l = none) → exec i s = .next (s.raise x.g.id x.p.id { trap .placeRange with
      tval := if isScalar d then 1 else maskOf ((x.lanesFor d).filter fun l => (f l).isNone), byLanes := true }))

/-! ### Ports, copies and gathers -/

/-- QBIND binds a free port to a code no other port has, and raises QUEUE_MISUSE with the port otherwise; QCOUNT gives the
number of entries; QDRAIN and QUNBIND discard them, and end once nothing pushes there any more, QUNBIND with the port unbound;
of an unbound port these raise QUEUE_UNBOUND; until then the split is held, its port empty and what earlier instructions still push there
discarded. A push puts its entry behind the others of its port; the fifth word of a command to the copy engine takes the next number among
the group's instructions. -/
def Obligations.Ports : Prop :=
  ∀ (s : State) (x : Ctx) (d : Operand),
    (∀ ep, Issues (.qbind d ep) s x →
      ((x.g.ports.getD (portNum d) {}).code = none → x.g.portOf ep = none →
        exec (.qbind d ep) s = .next (moveOn x (onGroup x fun g => { g with ports := setAt g.ports (portNum d) { code := some ep } }))) ∧
      (((x.g.ports.getD (portNum d) {}).code ≠ none ∨ x.g.portOf ep ≠ none) →
        exec (.qbind d ep) s = .next (s.raise x.g.id x.p.id { cause := .queueMisuse, tval := BitVec.ofNat 32 (portNum d) }))) ∧
    (∀ a, Issues (.qcount d a) s x →
      ((x.g.ports.getD (portNum a) {}).code ≠ none →
        exec (.qcount d a) s = .next (moveOn x (onGroup x (written (x.outOn [x.scalarLane] d fun _ =>
          [BitVec.ofNat 32 (x.g.ports.getD (portNum a) {}).entries.length]))))) ∧
      ((x.g.ports.getD (portNum a) {}).code = none →
        exec (.qcount d a) s = .next (s.raise x.g.id x.p.id { cause := .queueUnbound, tval := BitVec.ofNat 32 (portNum a) }))) ∧
    (∀ i, i = .qdrain d ∨ i = .qunbind d → Issues i s x →
      ((x.g.ports.getD (portNum d) {}).code = none →
        exec i s = .next (s.raise x.g.id x.p.id { cause := .queueUnbound, tval := BitVec.ofNat 32 (portNum d) })) ∧
      (∀ code, (x.g.ports.getD (portNum d) {}).code = some code → x.p.hold ≠ .drain → x.g.pushing (some code) x.g.nextFlight = false →
        ∃ t h, exec i s = .next t ∧ t.group? x.g.id = some h ∧ storesNothing x t ∧
          (h.ports.getD (portNum d) {}).entries = [] ∧ (h.ports.getD (portNum d) {}).partialCmd = [] ∧
          (h.ports.getD (portNum d) {}).code = (if i = .qdrain d then some code else none) ∧
          (∀ n, n ≠ portNum d → h.ports.getD n {} = x.g.ports.getD n {}) ∧
          h.regs = x.g.regs ∧ h.scalars = x.g.scalars ∧ h.preds = x.g.preds) ∧
      (∀ code, (x.g.ports.getD (portNum d) {}).code = some code → x.p.hold ≠ .drain → x.g.pushing (some code) x.g.nextFlight = true →
        x.g.engineFaultFor x.p = none →
        ∃ t h q, exec i s = .next t ∧ t.group? x.g.id = some h ∧ storesNothing x t ∧ h.split? x.p.id = some q ∧ q.hold = .drain ∧
          (h.ports.getD (portNum d) {}).entries = [] ∧ (h.ports.getD (portNum d) {}).partialCmd = [] ∧
          (h.ports.getD (portNum d) {}).drain = x.g.nextFlight) ∧
      (∀ code, (x.g.ports.getD (portNum d) {}).code = some code → x.p.hold = .drain →
        (x.g.pushing (some code) (x.g.ports.getD (portNum d) {}).drain = true → x.g.engineFaultFor x.p = none →
          exec i s = .next (heldWith x x.s .drain)) ∧
        (x.g.pushing (some code) (x.g.ports.getD (portNum d) {}).drain = false →
          ∃ t h, exec i s = .next t ∧ t.group? x.g.id = some h ∧ storesNothing x t ∧
            (h.ports.getD (portNum d) {}).code = (if i = .qdrain d then some code else none)))) ∧
    (∀ (g : Group) (n : Nat) (e : Entry), n < g.ports.length →
      let p := g.ports.getD n {}
      let h := g.pushPort n e
      h.regs = g.regs ∧ h.scalars = g.scalars ∧ h.preds = g.preds ∧ h.flights = g.flights ∧
      (∀ m, m ≠ n → h.ports.getD m {} = g.ports.getD m {}) ∧
      (p.code ≠ some .cpycmd → h.nextFlight = g.nextFlight ∧ h.ports.getD n {} = { p with entries := p.entries ++ [e] }) ∧
      (p.code = some .cpycmd → (p.partialCmd.length + p.entries.length) % 5 ≠ 4 →
        h.nextFlight = g.nextFlight ∧ h.ports.getD n {} = { p with entries := p.entries ++ [e] }) ∧
      (p.code = some .cpycmd → (p.partialCmd.length + p.entries.length) % 5 = 4 →
        h.nextFlight = g.nextFlight + 1 ∧ h.ports.getD n {} = { p with entries := p.entries ++ [{ e with note := g.nextFlight + 1 }] }))

/-- CPYL, CPYT and CPYM whose descriptor passes its checks go out on path CPY after an unhardened region hardens; a check that
fails raises its fault at once; COPY_UNIT performs the next unit of a copy, after whose last it only has its completion to come,
CPYCMD_COMMAND takes a word, and ENGINE_FAULT stops a copy whose next unit faults, and drops a unit that another package denies. GATH
of lanes that pass their address checks reads an element of each lane per entry and goes out on path GAT; an unbound GATHER port and a
bad element descriptor raise their faults; GATHER_PUSH pushes its entries in order, as they were read at issue or, after a stop, read
again. With no active lane nothing is copied or gathered and no counter rises. The units of a copy are performed in the order of their
indices by the model's choice (log 67). -/
def Obligations.Copies : Prop :=
  ((∀ (s : State) (x : Ctx) (i : Instr) (kind : Nat) (a : Operand), Issues i s x → copyOf i = some (kind, a) →
      (x.anyActive = false → exec i s = .next (moveOn x x.s)) ∧
      (x.anyActive = true → (x.copyDesc kind a).check x.s x.g = none →
        exec i s = .next (moveOn x ((x.s.harden x.g.id x.p.id 3).modGroup x.g.id (underWay x (x.copyDesc kind a).work)))) ∧
      (∀ t, x.anyActive = true → (x.copyDesc kind a).check x.s x.g = some t →
        exec i s = .next (s.raise x.g.id x.p.id { t with tval := 1, byLanes := true }))) ∧
    (∀ (s s' : State) (g : Group) (f : Flight) (d : CopyDesc) (u : Nat × Nat × Nat),
      s.pick s.copies = some (g, f, d) → unitAt d.toGlobal d.pieces f.progress = some u →
      (copyUnit s g f d u = .ok s' →
        exec .copyUnit s = .next (s'.unitDone g f (unitAt d.toGlobal d.pieces (f.progress + 1)).isNone)) ∧
      (∀ t, copyUnit s g f d u = .error (some t) → s.orphan? = none →
        (t.denied = false → exec .engineFault s = .next (s.stopFlight g f t)) ∧
        (t.denied = true → exec .engineFault s =
          .next (s.unitDenied g f t (unitAt d.toGlobal d.pieces (f.progress + 1)).isNone)))) ∧
    (∀ (s : State) (g : Group) (n : Nat) (e : Entry), s.pick s.commands = some (g, n, e) → s.group? g.id = some g →
      ∃ t, exec .cpycmdCommand s = .next t ∧
        ((g.ports.getD n {}).partialCmd.length < 4 → ∃ h, t.group? g.id = some h ∧
          (h.ports.getD n {}).entries = (g.ports.getD n {}).entries.drop 1 ∧
          (h.ports.getD n {}).partialCmd = (g.ports.getD n {}).partialCmd ++ [e.word])) ∧
    (∀ (d : CopyDesc), d.rows = 1 → d.pieces = [(d.gaddr % 2 ^ 64, d.laddr, d.len)])) ∧
  ((∀ (s : State) (x : Ctx) (a b : Operand), Issues (.gath a b) s x →
      let desc := (x.src b x.firstLane).toNat
      let count := desc / 2 ^ 8 % 32 + 1
      let ea := fun i : Nat × Nat => x.src64 a i.1 + BitVec.ofNat 64 (i.2 * (desc / 2 ^ 16 % 2 ^ 16))
      (x.anyActive = false → exec (.gath a b) s = .next (moveOn x x.s)) ∧
      (x.anyActive = true → x.g.portOf .gather = none →
        exec (.gath a b) s = .next (s.raise x.g.id x.p.id { cause := .queueUnbound, tval := 0 })) ∧
      (x.anyActive = true → x.g.portOf .gather ≠ none → badElem desc = true →
        exec (.gath a b) s = .next (s.raise x.g.id x.p.id { trap .illegalOperand with tval := x.active, byLanes := true })) ∧
      (∀ (w : LWidth) (s' : State) (gs : List ((Nat × Nat) × Grant)),
        x.anyActive = true → x.g.portOf .gather ≠ none → badElem desc = false → elemWidth (desc % 8) = some w →
        eachItem x.s (gatherItems x.activeLanes count) (fun i => i.1) ea false (fun s i =>
          access s x.g.agent (ea i).toNat (loadBytes w) (loadBytes w) { r := true }) = .ok (s', gs) →
        (∀ e ∈ gs, ∃ k h, e.2.place = .cell k h) →
        let lanes := gs.map fun e => (e.1.1, e.2)
        let u := (s'.harden x.g.id x.p.id 3).orderFor x.g x.p.mask x.i.path (grantCells lanes (loadBytes w))
        (u.blocked x.g.id x.p.mask x.i.path (grantCells lanes (loadBytes w)) true = true →
          exec (.gath a b) s = .next (heldWith x u .path)) ∧
        ∀ h, u.group? x.g.id = some h → u.blocked x.g.id x.p.mask x.i.path (grantCells lanes (loadBytes w)) true = false →
        ∃ es, exec (.gath a b) s = .next (moveOn x ((lanes.foldl (fun s e => if e.2.tagged then s.noteLine x.g e.2 else s)
            (u.fetchLines x.g.die false lanes)).bump.modGroup x.g.id fun g =>
            underWay x (.gather es { bases := x.activeLanes.map fun l => (l, x.src64 a l), width := w, count, stride := desc / 2 ^ 16 % 2 ^ 16 })
              g [] [] (u.poisonOf lanes (loadBytes w)))) ∧
          es.length = count ∧
          ∀ k, k < count → ∃ e, es[k]? = some e ∧ e.mask = x.active ∧
            ∀ l, l < 32 → e.words.getD l 0 = (((gs.find? fun e => e.1 = (l, k)).map fun e =>
              (loadWords w (u.readGrant h x.p x.i.path l e.2 (loadBytes w))).headD 0).getD 0))) ∧
    (∀ (s s' : State) (g h g' : Group) (f : Flight) (e : Entry) (es : List Entry) (d : GatherDesc),
      s.pick s.gathers = some (g, f, es, d) → f.fault = none → gatherEntry s g f es d = .ok (s', e) → s'.group? g.id = some h →
      h.enginePush .gather f.id e = some g' →
      exec .gatherPush s = .next ((s'.modGroup g.id fun _ => g'.modFlight f.id fun f => { f with work := .gather (es.drop 1) d }).unitDone
        g f (decide (d.count ≤ f.progress + 1)))) ∧
    (∀ (s : State) (g : Group) (f : Flight) (e : Entry) (t : List Entry) (d : GatherDesc), gatherEntry s g f (e :: t) d = .ok (s, e)))

/-! ### The matrix unit -/

/-- A matrix instruction with an active lane whose checks pass joins the core's queue of 32 and counts on path MAT; a full queue
holds it; a tile at or beyond ACCUM raises REG_RANGE with its number, whether or not a lane is active; an instruction that needs a
format and has none raises FORMAT_BLOCK with VAL 0x100; with no active lane one whose tile is in range does nothing. MFMT
captures its block and counts on MAT; MSEED sets the seed; MSTAT waits for the tile's status. MFMT waits for an earlier MDRAIN or MTRQ
of the split's lanes that has its block still to write (log 34). -/
def Obligations.MatrixInstructions : Prop :=
  (∀ (i : Instr) (s : State) (x : Ctx) (j : MatrixJob), Issues i s x → x.anyActive = true → matrixJob i x j →
    (x.s.matrixFull x.g = false →
      exec i s = .next (moveOn x (onGroup x (underWay x (.matrix { j with seed := x.g.seed }))))) ∧
    (x.s.matrixFull x.g = true → exec i s = .next (s.holdSplit x.g.id x.p.id .port))) ∧
  (∀ (i : Instr) (s : State) (x : Ctx) (t : Tile), Issues i s x → matrixTile i = some t →
    (x.g.isHost = false → (x.s.recordOf x.g).accum ≤ t.val) →
    exec i s = .next (s.raise x.g.id x.p.id { trap .regRange with tval := BitVec.ofNat 32 t.val })) ∧
  (∀ (i : Instr) (s : State) (x : Ctx) (t : Tile), Issues i s x → x.anyActive = false → matrixTile i = some t →
    (∀ d, i ≠ .mstat d t) → x.s.tileFault x.g t.val = none → exec i s = .next (moveOn x x.s)) ∧
  (∀ (s : State) (x : Ctx) (mc : MultiCast) (t : Tile) (a b : Operand), Issues (.mmaAcc mc t a b) s x → x.anyActive = true →
    x.s.tileFault x.g t.val = none → x.g.fmt = none →
    exec (.mmaAcc mc t a b) s = .next (s.raise x.g.id x.p.id { trap .formatBlock with tval := 0x100 })) ∧
  (∀ (s : State) (x : Ctx) (a : Operand) (k : Nat), Issues (.mfmt a) s x → x.anyActive = true → x.g.isHost = false →
    x.addrOf a % 32 = 0 → x.s.clu x.g (x.addrOf a) 0 32 = some k → x.s.matrixFull x.g = false → x.draining k = false →
    let f := (List.range 32).map fun i => x.s.byteFor x.g x.p x.i.path (k + i)
    (FBlock.bad f = none →
      exec (.mfmt a) s = .next (moveOn x (onGroup x fun g => underWay x .performed { g with fmt := some f }))) ∧
    (∀ n, FBlock.bad f = some n →
      exec (.mfmt a) s = .next (s.raise x.g.id x.p.id { trap .formatBlock with tval := BitVec.ofNat 32 n }))) ∧
  (∀ (s : State) (x : Ctx) (a : Operand), Issues (.mseed a) s x →
    exec (.mseed a) s = .next (moveOn x (onGroup x fun g => { g with seed := x.src64 a x.scalarLane }))) ∧
  (∀ (s : State) (x : Ctx) (n : Fin 16) (t : Tile), Issues (.mstat (.s n) t) s x → x.s.tileFault x.g t.val = none →
    x.s.matrixFull x.g = false →
    exec (.mstat (.s n) t) s = .next (moveOn x (onGroup x fun g => (x.attached g).addFlight
      { flightOf x x.i.path x.c.flag (.mstat t.val (some n.val)) with issued := x.s.cycle, unitAt := x.s.cycle })))

/-- MATRIX_EXECUTE runs the oldest matrix instruction of a group, MDRAIN_ROW a row of its drain or an entry of its port. MCLR
clears the rows of its lanes, MSTAT takes the tile's status and clears it; an integer product is the exact sum modulo 2^32, a
row of an MMA is written whole; a line whose trailer is wrong stops the instruction. Engine units run in issue order and read
memory when they run (log 6). -/
def Obligations.MatrixExecution : Prop :=
  (∀ (s : State) (g : Group) (f : Flight) (j : MatrixJob),
    s.pick (s.matrixHeads.filter fun e => !e.2.work.isDrain) = some (g, f) → f.work = .matrix j →
    (j.kind = 2 → exec .matrixExecute s = .next
      ((((lanesOf f.mask).foldl (fun s i => s.writeRow g j.tile i (List.replicate 32 0)) s).setStatus g j.tile 0).modGroup g.id fun g =>
        g.modFlight f.id fun f => { f with unitAt := s.cycle, work := .performed })) ∧
    (j.kind = 3 → exec .matrixExecute s = .next ((s.mloadRow g f j).unitDone g f (decide (laneCountOf f.mask ≤ f.progress + 1)))) ∧
    (j.kind ≤ 1 → s.mmaBad g f j = none →
      exec .matrixExecute s = .next ((s.runMma g f j).modGroup g.id fun g => g.modFlight f.id fun f =>
        { f with unitAt := (s.runMma g f j).cycle, work := .performed })) ∧
    (∀ a, j.kind ≤ 1 → s.mmaBad g f j = some a → exec .matrixExecute s = .next (s.stopFlight g f (trailerFault a))) ∧
    (j.kind = 6 → s.badLine g (mtrqSource j.fmt) j.a 32 0xFFFFFFFF = none →
      exec .matrixExecute s = .next ((s.mtrqRow g f j f.progress).unitDone g f (decide (31 ≤ f.progress))))) ∧
  (∀ (s : State) (g : Group) (f : Flight) (t : Nat) (dst : Option Nat),
    s.pick (s.matrixHeads.filter fun e => !e.2.work.isDrain) = some (g, f) → f.work = .mstat t dst →
    exec .matrixExecute s = .next (s.runMstat g f t dst)) ∧
  (∀ (s : State) (g : Group) (f : Flight) (j : MatrixJob),
    s.pick (s.mrowHeads ++ s.matrixHeads.filter fun e => e.2.work.isDrain) = some (g, f) → f.work = .matrix j →
    (j.kind = 4 → exec .mdrainRow s = .next
      ((s.storeRow g f j ((lanesOf f.mask).getD f.progress 0)).unitDone g f (decide (laneCountOf f.mask ≤ f.progress + 1)))) ∧
    (j.kind = 5 → exec .mdrainRow s = .next (s.formMrow g f j))) ∧
  (∀ (s : State) (g g' : Group) (f : Flight) (e : Entry) (t : List Entry),
    s.pick (s.mrowHeads ++ s.matrixHeads.filter fun e => e.2.work.isDrain) = some (g, f) → f.work = .mrow (e :: t) →
    g.enginePush .mrow f.id e = some g' →
    exec .mdrainRow s = .next ((s.modGroup g.id fun _ => g'.modFlight f.id fun f => { f with work := .mrow t }).unitDone g f t.isEmpty)) ∧
  (∀ (s : State) (g : Group) (f : Flight) (j : MatrixJob) (l : Nat), lanesOf f.mask = [l] → l < 32 →
    ∀ c, c < 32 → (s.runMma g f j).accum g j.tile l c = (s.mmaElem g j l c).1 % 2 ^ 32) ∧
  (∀ (s : State) (g : Group) (j : MatrixJob) (r c : Nat), (FBlock.operand j.fmt false).fmt = 8 →
    (s.mmaElem g j r c).1 = wrap 32 (((if j.kind = 1 then 0 else s.accum g j.tile r c : Nat) : Int) +
      ((List.range (FBlock.k j.fmt)).map fun n =>
        signed 8 (s.element g (FBlock.operand j.fmt false) j.a r n) * signed 8 (s.element g (FBlock.operand j.fmt true) j.b c n)).sum))

/-! ### Rendering -/

/-- EMITV stores the components of each active lane's vertex, one lane's where several name the same; EMITP forms a packet for every square
that an active lane's primitive touches, unless it is dropped, with its turn, square, vertices and number among those to its owner, and
counts the primitives among the group's 256; EMITEND, a release, waits until what it covers is performed and closes the group with one
marker for every die of the rectangle; TLOAD and TSTORE go out with the words of the lanes that act, or raise SCR_BOUNDS with the mask of
those that name a word outside; TNEXT holds its split; TDONE goes out when its square is drained and nothing stands on RND, and holds until
then. With no active lane EMITV, EMITP, TLOAD and TSTORE only take their turn. The 512-entry hold is untimed (log 31); which lane's vertex
remains where lanes collide is free (log 11). -/
def Obligations.RenderingInstructions : Prop :=
  (∀ (s : State) (x : Ctx) (d a : Operand), Issues (.emitv d a) s x →
    (x.anyActive = false → exec (.emitv d a) s = .next (moveOn x (passes { x with s := x.s.bump }))) ∧
    (x.anyActive = true →
      ∃ t h e, exec (.emitv d a) s = .next t ∧ t.group? x.g.id = some h ∧ otherGroups x.s t x.g.id ∧ memoryKept x.s t x.g ∧
        e ∈ h.flights ∧ e.id = x.g.nextFlight ∧ e.path = some .rnd ∧ e.work = .performed ∧
        h.regs = x.g.regs ∧ h.scalars = x.g.scalars ∧ h.preds = x.g.preds ∧ h.prims = x.g.prims ∧
        (∀ l ∈ x.activeLanes, ∃ k ∈ x.activeLanes, (x.src a k).toNat % 256 = (x.src a l).toNat % 256 ∧
          ∀ c, c < 4 → h.vert ((x.src a l).toNat % 256) c = x.nth d c k) ∧
        (∀ l ∈ x.activeLanes, (∀ k ∈ x.activeLanes, (x.src a k).toNat % 256 = (x.src a l).toNat % 256 → k = l) →
          ∀ c, c < 4 → h.vert ((x.src a l).toNat % 256) c = x.nth d c l) ∧
        (∀ v c, c < 4 → (∀ l ∈ x.activeLanes, v ≠ (x.src a l).toNat % 256) → h.vert v c = x.g.vert v c))) ∧
  (∀ (s : State) (x : Ctx) (a b : Operand) (p : Pass), Issues (.emitp a b) s x → x.s.passOf x.g = some p →
    (256 < x.g.prims + x.activeLanes.length → exec (.emitp a b) s = .next (s.raise x.g.id x.p.id (trap .illegalForm))) ∧
    (x.g.prims ≤ 256 → x.anyActive = false → exec (.emitp a b) s = .next (moveOn x (passes x))) ∧
    (x.g.prims + x.activeLanes.length ≤ 256 → x.anyActive = true → x.s.unaccepted x.g.die < 512 →
      let m := x.activeLanes.foldl (fun m l => emitLane (x.s.emitter x.g p)
        ((List.range 3).map fun k => (List.range 4).map fun c => x.g.vert ((x.src a l).toNat / 2 ^ (8 * k) % 256) c)
        (x.src b l).toNat m) { prims := x.g.prims, sent := x.g.sent, packets := [] }
      m.prims = x.g.prims + x.activeLanes.length ∧
      exec (.emitp a b) s = .next (moveOn x (x.emission ((onGroup x fun g =>
        { g with prims := m.prims, sent := m.sent }).addSorts m.packets) m.packets.length))) ∧
    (x.g.prims + x.activeLanes.length ≤ 256 → x.anyActive = true → 512 ≤ x.s.unaccepted x.g.die →
      exec (.emitp a b) s = .next (s.holdSplit x.g.id x.p.id .work))) ∧
  (∀ (e : Emitter) (v : Verts) (flags : Nat) (m : Emit),
    let r := emitLane e v flags m
    let turn := (e.draw * 2 ^ 20 + e.index * 2 ^ 8 + m.prims) % 2 ^ 32
    r.prims = m.prims + 1 ∧
    (dropped v (bit flags 0) e.pass.width e.pass.height = true → r.packets = m.packets ∧ r.sent = m.sent) ∧
    (dropped v (bit flags 0) e.pass.width e.pass.height = false →
      ∃ ps, r.packets = m.packets ++ ps ∧ ps.length = (squaresOf e.pass v).length ∧
        (∀ (k : Nat) (q : SortPacket), ps[k]? = some q → ∃ c, (squaresOf e.pass v)[k]? = some c ∧ q.owner = e.pass.ownerOf c.1 c.2 ∧
          q.pass = e.pass.id ∧ q.src = e.die ∧ q.close = false ∧ q.turn = turn ∧ q.group = e.group ∧ q.flight = e.flight ∧
          q.bytes = packetBytes turn (c.2 * e.pass.sqx + c.1) (flags % 2 ^ 16) v
            ((e.attrBase + e.attrStride * (256 * e.index + m.prims)) % 2 ^ 64) ∧
          q.num = m.sent.getD q.owner 0 + ((ps.take k).filter fun o => o.owner = q.owner).length) ∧
        ∀ o, r.sent.getD o 0 = m.sent.getD o 0 + (ps.filter fun q => q.owner = o).length)) ∧
  (∀ (s : State) (x : Ctx) (p : Pass), Issues .emitend s x → x.s.passOf x.g = some p → x.s.unaccepted x.g.die < 512 →
    let u := x.atRelease 4
    let ms := closeMarkers (x.s.emitter x.g p) x.g.sent
    (x.releaseOpen u = true → exec .emitend s = .next (heldWith x u .path)) ∧
    (x.releaseOpen u = false → exec .emitend s = .next (moveOn x (x.emission ((u.modGroup x.g.id fun g =>
      { g with closed := true }).addSorts ms) (p.rectf * p.rectr)))) ∧
    ms.length = p.rectf * p.rectr ∧
    ∀ k q, ms[k]? = some q → q.owner = k ∧ q.close = true ∧ q.src = x.g.die ∧ q.num = x.g.sent.getD k 0 % 2 ^ 32 ∧
      q.turn = (x.s.drawOf x.g * 2 ^ 20 + x.s.taskIndex x.g * 2 ^ 8) % 2 ^ 32) ∧
  (∀ (s : State) (x : Ctx) (d a : Operand) (q : Square) (p : Pass) (act bad : List Nat), Issues (.tload d a) s x →
    x.tileLanes ((x.tloadLanes d).filter fun l => x.g.actsOn l && inMask x.active l) a = some (q, p, act, bad) →
    (acts (.tload d a) x.c = false → exec (.tload d a) s = .next (moveOn x (passes { x with s := onGroup x x.attached }))) ∧
    (acts (.tload d a) x.c = true → bad = [] → exec (.tload d a) s = .next (moveOn x (onGroup x fun g => (x.attached g).addFlight (flightOf x x.i.path x.c.flag
      (.tload ((x.tloadLanes d).map fun l => (l, if act.contains l then some (x.src a l).toNat else none)) d x.p.wb
        (vectorShape x.i)))))) ∧
    (bad ≠ [] → exec (.tload d a) s = .next (s.raise x.g.id x.p.id { trap .scrBounds with tval := maskOf bad, byLanes := true }))) ∧
  (∀ (s : State) (x : Ctx) (d a : Operand) (q : Square) (p : Pass) (act bad : List Nat), Issues (.tstore d a) s x →
    x.tileLanes x.activeLanes a = some (q, p, act, bad) →
    (acts (.tstore d a) x.c = false → exec (.tstore d a) s = .next (moveOn x (passes x))) ∧
    (acts (.tstore d a) x.c = true → bad = [] → exec (.tstore d a) s = .next (moveOn x (onGroup x (underWay x
      (.tstore (act.map fun l => (l, (x.src a l).toNat, x.src d l))))))) ∧
    (bad ≠ [] → exec (.tstore d a) s = .next (s.raise x.g.id x.p.id { trap .scrBounds with tval := maskOf bad, byLanes := true }))) ∧
  (∀ (s : State) (x : Ctx), Issues .tnext s x → exec .tnext s = .next (heldWith x x.s .tnext)) ∧
  (∀ (s : State) (x : Ctx) (q : Square), Issues .tdone s x → x.s.squareOf x.g = some q →
    (q.drained = true → x.g.pathCount .rnd = 0 → exec .tdone s = .next (moveOn x
      ((((x.s.harden x.g.id x.p.id 3).modSquare x.g.wg fun q => { q with tdone := true }).addOrder x.g.id 0 .rel true).modGroup x.g.id
        (underWay x .writeout)))) ∧
    ((q.drained = false ∨ x.g.pathCount .rnd ≠ 0) → exec .tdone s = .next (s.holdSplit x.g.id x.p.id .work)))

/-- The events of a pass: SORT_SEND sends the first packet formed, PRIM and CLOSE take one that has arrived or refuse it FULL, SQUARE_START places
a square, BATCH_DISPATCH starts the next batch of one, TNEXT_RELEASE begins its next sub-pass, TDONE_WRITEOUT writes a row.
Which of several waiting items an event takes is the model's field chosen (log 16). -/
def Obligations.RenderingEvents : Prop :=
  ∀ s : State,
    (∀ p, s.sendable? = some p →
      exec .sortSend s = .next ({ s with sorts := s.sorts.map fun (q : SortPacket) => if q.id = p.id then { q with sent := true } else q }.send
        (s.sortPacket p)) ∧
      (s.sortPacket p).type = (if p.close then 0x11 else 0x10) ∧ (s.sortPacket p).addr = p.num ∧ (s.sortPacket p).payload = p.bytes) ∧
    (∀ i type p q t, (i = .prim ∧ type = 0x10 ∨ i = .close ∧ type = 0x11) → s.takePacket (s.packetsOf type) = some (p, t) →
      (t.sorts.find? fun q => q.id = p.tag) = some q →
      (∀ u, t.takesSort q = true → t.acceptSort q = .ok u → exec i s = .next u) ∧
      (t.takesSort q = false → exec i s = .next (t.nack p 1))) ∧
    (∀ l q f p pid s' seed, s.decision = some (.square l q f) → l.pass = some pid → s.pass? pid = some p →
      readSeed s l q.die = .ok (s', seed) →
      exec .squareStart s = .next ((({ s' with lastQueue := l.record.queue }.addSquare l p q f seed).nowPlaced l.id q.sid q.die).modLaunch
        l.id fun e => { e with state := .running })) ∧
    (∀ w q p l k s' b, s.pick s.dispatching = some (w, q, p, l, k) →
      nextBatch s p q w.die (q.total - q.next) q.next q.block = .ok (s', some b) →
      ∃ t, exec .batchDispatch s = .next t ∧ t.nextId = s'.nextId + 1 ∧
        t.groups = s'.groups ++ [batchGroup p q b (newGroup s'.nextId w.id l.ctx w.die w.core k (w.slots.getD k 0) l q.sid w.rseed)]) ∧
    (∀ g p, s.pick s.nexts = some (g, p) → s.controls g = true → s.lastSub g = false →
      exec .tnextRelease s = .next ((s.modSquare g.wg fun q => { q with sub := q.sub + 1, next := 0, block := 0 }).advance g.id p.id 1)) ∧
    (∀ g f q p s', s.pick s.writeouts = some (g, f, q, p) → writeoutUnit s g f q p f.progress = .ok s' →
      ((List.range p.planes).filter p.outPlane).length * p.side > f.progress →
      exec .tdoneWriteout s = .next (s'.unitDone g f false))

/-! ### Textures, grids and rays -/

/-- TEXS, TEXL and TEXF with an aligned, sound descriptor and texels that pass their address checks wait for their four
channels; HGFETCH waits for each lane's entry, as a load does; MARCH with a sound descriptor goes out on path RAY in its order of acceptance,
and MARCH_BATCH writes its next batch into the ring, pushes its entry, and goes on to the sample that follows or ends its MARCH. Results
the spec leaves open within its bounds are free values (log 4). -/
def Obligations.TexturesAndMarches : Prop :=
  (∀ (i : Instr) (s s' : State) (x : Ctx) (f : TexForm) (d a b : Operand) (k : Nat) (gs : List (Texel × Grant)),
    Issues i s x → texOf i = some (f, d, a, b) →
    (acts i x.c = false → exec i s = .next (moveOn x (passes { x with s := onGroup x x.attached }))) ∧
    (x.anyActive = true → x.g.isHost = false → (x.src b x.firstLane).toNat % 32 = 0 →
      x.s.clusterReach x.g (x.src b x.firstLane).toNat 32 = .key k → (TexDesc.mk (x.s.bytesAt k 32)).bad = none →
      eachItem x.s (texelItems x f ⟨x.s.bytesAt k 32⟩ a) (fun i => i.lane) (fun i => i.addr) false (fun s i =>
        access s x.g.agent i.addr.toNat (TexDesc.mk (x.s.bytesAt k 32)).texel 1 { r := true }) = .ok (s', gs) →
      (∀ e ∈ gs, ∃ k h, e.2.place = .cell k h) →
      let e := TexDesc.mk (x.s.bytesAt k 32)
      let lanes := gs.map fun (q : Texel × Grant) => (q.1.lane, q.2)
      let u := (s'.harden x.g.id x.p.id 3).orderFor x.g x.p.mask x.i.path (grantCells lanes e.texel)
      (u.blocked x.g.id x.p.mask x.i.path (grantCells lanes e.texel) true = true → exec i s = .next (heldWith x u .path)) ∧
      ∀ h, u.group? x.g.id = some h → u.blocked x.g.id x.p.mask x.i.path (grantCells lanes e.texel) true = false →
      ∃ f' : Nat → List Word, (∀ l, x.laneTex f e a l = .zero → f' l = [0, 0, 0, 0]) ∧
        (∀ l ts, x.laneTex f e a l = .texels ts → f' l = (List.range 4).map (channelOf e.fmt
          ((gs.filter fun (q : Texel × Grant) => q.1.lane = l).map fun (q : Texel × Grant) =>
            (q.1.weight, u.readGrant h x.p x.i.path l q.2 e.texel)))) ∧
        exec i s = .next (moveOn x ((lanes.foldl (fun s e => if e.2.tagged then s.noteLine x.g e.2 else s)
          (u.fetchLines x.g.die false lanes)).bump.modGroup x.g.id (awaiting x
            { ds := (x.outOn x.activeLanes d f').ds } none (u.poisonOf lanes e.texel) [] []))))) ∧
  (∀ (s s' : State) (x : Ctx) (d a b : Operand) (gs : List (Nat × Grant)), Issues (.hgfetch d a b) s x →
    (acts (.hgfetch d a b) x.c = false → exec (.hgfetch d a b) s = .next (moveOn x (passes { x with s := onGroup x x.attached }))) ∧
    (acts (.hgfetch d a b) x.c = true →
      let level := (x.src b x.scalarLane).toNat
      4 ≤ level / 16 % 32 → level / 16 % 32 ≤ 20 → level < 512 →
      x.lanes x.s (x.lanesFor d) (x.hgAddr a level) 4 4 { r := true } true (isScalar d) = .ok (s', gs) →
      LoadIssued (.hgfetch d a b) s (s'.harden x.g.id x.p.id 3) x .n32 d gs)) ∧
  (∀ (s : State) (x : Ctx) (a : Operand), Issues (.march a) s x → x.anyActive = false →
    exec (.march a) s = .next (moveOn x (passes x))) ∧
  (∀ (s : State) (x : Ctx) (a : Operand) (k : Nat), Issues (.march a) s x → x.anyActive = true → x.g.portOf .msample ≠ none →
    x.addrOf a % 64 = 0 → x.s.clu x.g (x.addrOf a) 0 64 = some k →
    let d : MarchDesc := ⟨x.s.bytesAt k 64⟩
    (x.s.clu x.g d.ring 0 (d.nbuf * 2304)).isSome = true → d.bad = none →
    let u := x.s.harden x.g.id x.p.id 3
    exec (.march a) s = .next (moveOn x ({ u with nextId := u.nextId + 1 }.modGroup x.g.id
      (underWay x (.march d.bytes 0 u.nextId d.first 0 x.g.rpool))))) ∧
  (∀ (s s' s'' : State) (m : March) (xs : List Sample) (more : Option (Nat × Nat)) (rows : List (List Byte)) (g' : Group),
    s.pick (s.marchHeads.filter March.room) = some m → takeSamples s m.g m.d m.pool m.slot m.step 32 = .ok (s', xs, more) →
    sampleRows s' m.g m.d xs = .ok (s'', rows) → m.g.enginePush .msample m.f.id (m.entry xs.length more.isNone) = some g' →
    s.group? m.g.id = some m.g →
    (m.entry xs.length more.isNone).mask = 1 ∧
    (m.entry xs.length more.isNone).words.getD 0 0 =
      BitVec.ofNat 32 (m.f.progress % m.d.nbuf + 16 * xs.length + if more = none then 2 ^ 31 else 0) ∧
    ∃ t h e, exec .marchBatch s = .next t ∧
      t.mem = (s''.cluWrite m.g m.f m.d.ring (2304 * (m.f.progress % m.d.nbuf)) (batchBytes xs rows)).mem ∧
      t.group? m.g.id = some h ∧ e ∈ h.flights ∧ e.id = m.f.id ∧ e.progress = m.f.progress + 1 ∧
      (more = none → e.work = .performed) ∧
      (∀ k n, more = some (k, n) → ∃ popped, e.work = .march m.d.bytes popped m.order k n m.pool) ∧
      (∀ n, m.g.portOf .msample = some n → m.g.empty = false → (m.g.ports.getD n {}).drain ≤ m.f.id →
        (h.ports.getD n {}).entries = (m.g.ports.getD n {}).entries ++ [m.entry xs.length more.isNone]) ∧
      ((m.g.portOf .msample = none ∨ m.g.empty = true) → h.ports = m.g.ports))

/-- TRACE, RESUME, COMMIT and RPFREE take their lanes in ascending order, each as one act on its slot, after an unhardened
region hardens, and go out on path RAY until the lines of their records are acknowledged; RESUME and COMMIT are releases, which wait first
until what they cover is performed; TRACE and RESUME are held while the unit has no room; RPALLOC waits to return the slots it took.
RAY_DONE, RAY_SUSPEND and RAY_FAULT walk a ray to its end and take it out of the unit, its fault going to the group of its TRACE;
RAY_BATCH_PUSH pushes a batch when the writes to its records are performed, RAY_ABANDON drops abandoned rays. Which ray a walk takes next is the model's field chosen (log 16); box and triangle tests of operands that are no number
are free (log 4). -/
def Obligations.RayInstructions : Prop :=
  (∀ (i : Instr) (s : State) (x : Ctx) (a : Operand) (f : SlotIssue → State → Group → Nat → Nat → Except Stop State),
    Issues i s x → slotAct i x = some (a, f) → (addsRays i = true → x.raysFull = false) →
    (x.anyActive = false → exec i s = .next (moveOn x (passes x))) ∧
    let u := if releasesFirst i then x.atRelease 3 else x.s.harden x.g.id x.p.id 3
    let slots := x.activeLanes.map fun l => (l, (x.src a l).toNat)
    let lanes := slotLanes u x.g.id ⟨x.issueMask, x.p.id, x.g.nextFlight⟩ slots (f ⟨x.issueMask, x.p.id, x.g.nextFlight⟩)
    (x.anyActive = true → releasesFirst i = true → x.releaseOpen u = true → exec i s = .next (heldWith x u .path)) ∧
    (x.anyActive = true → (releasesFirst i = true → x.releaseOpen u = false) →
      (∀ t, lanes = some t → exec i s = .next (moveOn x ((t.claim u x.g.id (u.nextFlight x.g.id)).modGroup x.g.id fun g =>
        underWay x .performed g [] (poolLines t x.g (slots.map fun e => e.2))))) ∧
      (lanes = none → exec i s = .next (heldWith x (if releasesFirst i then u else x.s) .map)))) ∧
  (∀ (i : Instr) (s : State) (x : Ctx), Issues i s x → addsRays i = true → x.raysFull = true →
    exec i s = .next (s.holdSplit x.g.id x.p.id .port)) ∧
  (∀ (s t : State) (x : Ctx) (d : Operand) (ns : List (Nat × Nat)), Issues (.rpalloc d) s x → acts (.rpalloc d) x.c = true →
    rpallocLanes (x.s.harden x.g.id x.p.id 3) x.g.id (x.lanesFor d) = (t, ns, none) →
    let u := x.s.harden x.g.id x.p.id 3
    exec (.rpalloc d) s = .next (moveOn x ((t.claim u x.g.id (u.nextFlight x.g.id)).modGroup x.g.id (awaiting x
      (x.outOn (x.lanesFor d) d fun l => [((ns.find? fun e => e.1 = l).map fun e => BitVec.ofNat 32 e.2).getD 0]) none none []
      (poolLines t x.g (ns.map fun e => e.2)))))) ∧
  (∀ (s s' : State) (g : Group) (r : RayWalk) (w : Walk), s.pick s.walkers = some (g, r) →
    (walkRay s g r = .exit s' w → exec .rayDone s = .next ((s'.setRay g.id r none).reportHit g r.pool r.slot r.issue)) ∧
    (walkRay s g r = .suspend s' w → exec .raySuspend s = .next ((s'.setRay g.id r none).reportIsect g r.pool r.slot r.issue)) ∧
    (walkRay s g r = .go s' w → exec .rayDone s = .next (s'.setRay g.id r (some { w.r with unitAt := s'.cycle }))) ∧
    (∀ t u, walkRay s g r = .fault s' w t → rayFaulted s' g r w t = some u → exec .rayFault s = .next u) ∧
    (∀ t, walkRay s g r = .fault s' w t → rayFaulted s' g r w t = none → exec .rayFault s = .next s)) ∧
  (∀ s : State, exec .rayAbandon s = .next { s with groups := s.groups.map fun g =>
    { g with rays := g.rays.filter fun r => !r.abandoned } }) ∧
  (∀ (s : State) (g g' : Group) (isect : Bool) (b : RayBatch), s.pick s.batches = some (g, isect, b) →
    (s.batchOpen g b = true → exec .rayBatchPush s = .next s) ∧
    (s.batchOpen g b = false → g.enginePush (if isect then .rayisect else .rayhit) g.nextFlight b.entry = some g' →
      32 ≤ b.slots.length → exec .rayBatchPush s = .next (s.modGroup g.id fun _ =>
        if isect then { g' with isectBatch := { slots := b.slots.drop 32, since := s.cycle } }
        else { g' with hitBatch := { slots := b.slots.drop 32, since := s.cycle } })))

/-! ### Tokens and collectives -/

/-- STXT with an active lane takes a FREE entry of its die's table, makes it PENDING with its count of stores, writes the token
to d and goes out on path FAB; with none active it writes 0; with no entry FREE it is held. STXW sends a lane whose token is
null or landed as a plain store, carries a pending one and reports one that is failed or lost as TOKEN_EXPIRED; TKWAIT goes on when
every token has landed, as an acquire, raises TOKEN_EXPIRED when one has failed or is lost, and parks otherwise; TKSTAT waits for the
states; COLL goes out once its checks pass. With no active lane STXW and COLL only take their turn. TKWAIT knows a token of its own die
at once and asks the home of any other, once, with WATCH (log 40); the order of lanes that store to one place is free (log 11). -/
def Obligations.TokensAndCollectives : Prop :=
  (∀ (s s' : State) (x : Ctx) (d a b : Operand) (gs : List (Nat × Grant)), Issues (.stxt d a b) s x →
    (x.anyActive = false → exec (.stxt d a b) s = .next (moveOn x (onGroup x (written (x.outOn [x.scalarLane] d fun _ => [0]))))) ∧
    (x.anyActive = true → x.lanes x.s x.activeLanes (fun l => x.src64 a l) 4 4 { w := true } true false = .ok (s', gs) →
      (s'.freeToken? x.g.die = none → exec (.stxt d a b) s = .next (s.holdSplit x.g.id x.p.id .queue)) ∧
      (∀ k, s'.freeToken? x.g.die = some k →
        let u := (s'.harden x.g.id x.p.id 2).bump
        let e := u.tokenEntry x.g.die k
        let t := tokenWord u.pkgid x.g.die k e.gen.toNat
        let v := u.putToken x.g.die k { e with
          state := 1, count := gs.length, anyDenied := false, watchers := [],
          history := e.history &&& ~~~(BitVec.ofNat 64 (2 ^ e.gen.toNat)) }
        exec (.stxt d a b) s = .next (moveOn x
          ((x.sendStores v true gs (fun l => x.src64 a l) (fun l => x.src b l) fun _ => t).modGroup x.g.id fun g =>
            (g.applyOut (x.outOn [x.scalarLane] d fun _ => [t])).addFlight
              (flightOf x x.i.path none (.tokens gs.length))))))) ∧
  (∀ (s s' : State) (x : Ctx) (d a b : Operand) (gs : List (Nat × Grant)), Issues (.stxw d a b) s x →
    (x.anyActive = false → exec (.stxw d a b) s = .next (moveOn x (passes x))) ∧
    (x.anyActive = true → x.lanes x.s x.activeLanes (fun l => x.src64 a l) 4 4 { w := true } true false = .ok (s', gs) →
      let r := fun l => x.s.resolveToken x.g (x.src b l) l
      let go := gs.filter fun e => r e.1 ≠ .broken
      exec (.stxw d a b) s = .next (moveOn x
        ((x.sendStores (s'.harden x.g.id x.p.id 2).bump false go (fun l => x.src64 a l) (fun l => x.src d l)
          fun l => if r l = .plain then 0 else x.src b l).modGroup x.g.id fun g =>
            (gs.filter fun e => r e.1 = .broken).foldl (fun h e => h.expire g.nextFlight x.issueMask 1 (x.src64 a e.1))
              (g.addFlight (flightOf x x.i.path none (if go.isEmpty then .performed else .tokens go.length))))))) ∧
  (∀ (s : State) (x : Ctx) (a : Operand), Issues (.tkwait a) s x →
    let ts := ((x.tokenLanes a).map fun l => x.src a l).filter tokV
    let u := ts.foldl x.askToken (if x.p.hold = .token then x.s else x.doneWaiting x.s)
    ((∃ t ∈ ts, x.waitState u t = some 3) →
      exec (.tkwait a) s = .next (s.raise x.g.id x.p.id { trap .tokenExpired with tval := 1 })) ∧
    ((∀ t ∈ ts, x.waitState u t ≠ some 3) → (∃ t ∈ ts, x.waitState u t ≠ some 2) →
      exec (.tkwait a) s = .next (heldWith x (if x.p.hold = .token then u else
        u.modSplit x.g.id x.p.id fun p => { p with parkedAt := u.ns }) .token)) ∧
    ((∀ t ∈ ts, x.waitState u t = some 2) →
      let v := if ts = [] then u else (x.doneWaiting u).acquire x.g x.p.mask .sys
      exec (.tkwait a) s = .next (moveOn x (if x.p.hold = .token then
        v.modSplit x.g.id x.p.id fun p => { p with wdog := x.g.budget.toNat } else v)))) ∧
  (∀ (s : State) (x : Ctx) (t : Word), tokPkg t = s.pkgid →
    (tokDie t = x.g.die → x.waitState s t = some (s.tokenState t).1) ∧
    (x.waitState s t = none →
      let u := x.askToken s t
      ({ die := x.g.die, group := x.g.id, split := x.p.id, token := t } : TokenWait) ∈ u.waits ∧ x.waitState u t = some 1 ∧
      u.mem = s.mem ∧ u.groups = s.groups ∧
      ∃ p ∈ u.packets, p.type = 0x21 ∧ p.src = x.g.die ∧ p.dst = tokDie t ∧ p.addr = t.toNat)) ∧
  (∀ (s : State) (x : Ctx) (d a : Operand), Issues (.tkstat d a) s x → acts (.tkstat d a) x.c = true →
    (∀ l ∈ x.lanesFor d, tokV (x.src a l) = true → tokPkg (x.src a l) = x.s.pkgid) →
    exec (.tkstat d a) s = .next (moveOn x (onGroup x (awaiting x (x.out d fun l =>
      [BitVec.ofNat 32 (x.s.tokenStatus (x.src a l) l)]) none none [] [])))) ∧
  (∀ (i : Instr) (s : State) (x : Ctx) (o : CollOp) (pkg : Bool) (d : CollDesc) (peer : Option Nat),
    Issues i s x → collOf i x = some (o, pkg, d, peer) →
    (x.anyActive = false → exec i s = .next (moveOn x (passes x))) ∧
    (x.anyActive = true → x.collFault pkg d peer = none →
      exec i s = .next (moveOn x ((if pkg then x.s.harden x.g.id x.p.id 3 else x.s).modGroup x.g.id
        (underWay x (.coll (CollOp.code o) pkg d.laddr d.ctl d.dst (peer.getD 0)))))) ∧
    (∀ t, x.anyActive = true → x.collFault pkg d peer = some t → exec i s = .next (s.raise x.g.id x.p.id t)))

/-! ### Events -/

/-- Scheduling and timing: an issue opportunity goes to the split chosen, a starving or yielded-to split gets its own; a
deferred split starts; a spent or overdue count raises WATCHDOG with its sub-cause; a parked WAITMEM looks again; a token wait
beyond SR_HOLD raises TOKEN_EXPIRED; expired translations go. Faults of contexts: a fault that waited is delivered; a fatal
fault's record is written and its context stops; a ticket resumes or kills the split that it names, or ends its context; a
master freezes and stays frozen, its contexts' work with it. Which of several ready splits or waiting items is taken is the
model's field chosen (log 16). -/
def Obligations.SchedulingEvents : Prop :=
  (∀ s : State,
      (∀ dp e, let u := s.noteWaits
        u.pick ((u.splitsWhere u.runnable).map fun e => e.1.datapath).eraseDups = some dp →
        u.chooseSplit ((u.splitsWhere u.runnable).filter fun e => e.1.datapath = dp) = some e →
        ∃ t, exec .issueSelect s = .next t ∧ t.cur = some (e.1.id, e.2.id) ∧ t.granted = true ∧ t.mem = s.mem) ∧
      (∀ e, (sortBy (fun e => e.2.waited) s.starving).head? = some e →
        exec .issueStarvation s = .next (s.select e.1.id e.2.id)) ∧
      (∀ g p q, s.rival? = some (g, p, q) →
        exec .headerYield s = .next ((s.modSplit g.id p.id fun p => { p with headers := 0 }).select g.id q.id)) ∧
      (∀ g d, s.deferredReady? = some (g, d) → exec .deferredSplitStart s = .next (s.putGroup (g.startDeferred d))) ∧
      (∀ g p, s.spent? = some (g, p) → exec .watchdogBudget s = .next (s.raise g.id p.id (trap .watchdog))) ∧
      (∀ e es, s.overdue = e :: es → s.halted = false →
        exec .watchdogQueue s = .next (s.raise e.1.id e.2.id { trap .watchdog with tval := 1 })) ∧
      (∀ gid pid p g n, s.parked? gid pid = some p → s.group? gid = some g → g.holdLimit = some n → s.halted = false →
        exec (.watchdogMemwait gid pid) s = .next
          ({ s with cycle := max s.cycle (p.holdSince + n + 1) }.raise gid pid { trap .watchdog with tval := 2 })) ∧
      (∀ gid pid p, s.parked? gid pid = some p →
        exec (.waitmemWake gid pid) s = .next (s.modSplit gid pid fun p => { p with recheck := true }) ∧
        (s.halted = false → exec (.waitmemRecheck gid pid) s = .next
          ({ s with ns := max s.ns (p.parkedAt + 4000) }.modSplit gid pid fun p => { p with recheck := true }))) ∧
      (∀ g p, s.overWaiting? = some (g, p) → s.halted = false →
        exec .tkwaitHoldExpiry s = .next (s.raise g.id p.id (trap .tokenExpired))) ∧
      (∃ t, exec .leaseExpiry s = .next t ∧ (s.tlb ≠ [] → ∀ u ∈ t.tlb, u ∈ s.tlb ∧ t.ns < u.expiry) ∧ s.ns ≤ t.ns ∧
        t.mem = s.mem ∧ t.groups = s.groups) ∧
      (∃ t, exec .scratchDrain s = .next t ∧ t.mem = s.mem ∧ t.groups = s.groups ∧ t.workgroups = s.workgroups)) ∧
  (∀ s : State,
      (∀ g, s.groups.find? s.deliverable = some g → exec .handlerEntry s = .next (s.deliver g.id)) ∧
      (∀ r rest, s.fatals = r :: rest →
        let u := { s with fatals := rest }.writeRecord r.ctx r
        exec .fatalFault s = .next (if (u.context r.ctx).stopped then u else u.stopContext r.ctx)) ∧
      (∀ g p, s.ticketSplit? s.chosen = some (g, p) →
        exec .ticketResume s = .next ((s.putGroup (g.unpark p)).deliver g.id) ∧
        exec .ticketKill s = .next (((s.modGroup g.id fun g => g.abandon (p.pend.bind fun t => t.flight)).killSplit g.id p.id 0).deliver g.id)) ∧
      (s.ticketSplit? s.chosen = none → exec .ticketResume s = .next s ∧ exec .ticketKill s = .next s) ∧
      (∀ t, s.closeLaunches (if (s.context (s.chosen % 64)).stopped then 4 else 3) (s.openLaunches (s.chosen % 64)) = .ok t →
        ∃ u, exec .ticketEndContext s = .next u ∧ ∀ g ∈ u.groups, g.ctx ≠ s.chosen % 64) ∧
      (∃ t, exec .freeze s = .next t ∧ (s.chosen % 64, Master.ofCode (s.chosen / 64)) ∈ t.frozen) ∧
      (∀ d m, (d, m) ∈ s.frozen → s.freezeMaster d m = s))

/-- Launches: a queue's oldest child, once what its issuer issued before it is performed and its enabled queue has fewer than DEPTH launches
pending, is accepted or refused by its record, read in its context; a workgroup or a graph starts where the distributor decides, a group that
is over leaves, a launch that is done writes STATUS 1 with its SEQ and leaves, workgroups are saved and restored. The walker: a
cursor at a node of each kind does what R193 gives that kind: a KERNEL node starts its fork's cursor once, then makes its child and waits, COND goes to NEXT or ALT
by the slot, WHILE counts its passes and goes to NEXT until the slot is 0 or CAP is reached, then to ALT with ARG 0 and CAPHIT as the rule
says, JOIN ends the cursor of every arrival but the last and goes on with that one,
END ends the cursor; a malformed node ends the graph FAULTED. Pre-emption marks, then saves when quiet (log 33); NEXT of a
KERNEL node is taken at its first fetch (log 30). -/
def Obligations.LaunchEvents : Prop :=
  (∀ s : State,
      (s.nextChild? = none → exec .childAccept s = .next s) ∧
      (∀ c ∈ s.children, s.childReady c = true → s.children.find? (fun d => d.queue = c.queue) = some c →
        ∃ d, s.nextChild? = some d) ∧
      (∀ c, s.nextChild? = some c → c ∈ s.children ∧ s.childReady c = true ∧
        s.children.find? (fun d => d.queue = c.queue) = some c) ∧
      (∀ c t, s.nextChild? = some c → s.acceptChild c = .ok t → exec .childAccept s = .next t) ∧
      (∀ c s' bs, s.nextChild? = some c →
        let q := fieldAt c.bytes 26 1
        let r := { parseRecord bs with queue := q }
        hwReadAll { s with children := removeFirst s.children c } (s.childCtx c q) s.active c.addr.toNat 2 = .ok (s', bs) →
        s'.refusal c r bs = 0 → r.task = false → r.pixel = false →
        exec .childAccept s = .next (s'.enqueue c r none [])) ∧
      (∀ l p, s.decision = some (.place l p) → exec .workgroupResident s = .next (s.doPlace l p)) ∧
      (∀ l, s.decision = some (.graph l) → exec .workgroupResident s = .next (s.startGraph l)) ∧
      (∀ g, s.overGroup? = some g → exec .groupEnd s = .next
        ({ (s.closeAtEnd g).endBatch g with groups := ((s.closeAtEnd g).endBatch g).groups.filter fun h => h.id ≠ g.id }.endWorkgroup g.wg)) ∧
      (∀ l t, s.doneLaunch? = some l → l.record.pixel = false →
        s.complete l.ctx s.active l.record.completion l.seq 0 1 = .ok t →
        exec .completionWrite s = .next (t.finishLaunch l.id 1)) ∧
      (∀ ctx die addr seq reason status s' k home ks, addr ≠ 0 → addr.toNat % 8 = 0 →
        hwPlace s ctx die addr.toNat { w := true } = .ok (s', .cell k home, ks) →
        s.complete ctx die addr seq reason status =
          .ok (s'.writeKeys (k :: ks) (bytesOf 8 (status + 256 * reason + 2 ^ 32 * seq.toNat)))) ∧
      (∀ ws, s.saveable? = some ws → exec .preempt s = .next (ws.foldl State.saveWorkgroup s)) ∧
      (∀ l ds w, s.saveable? = none → (∀ w ∈ s.workgroups, w.stopping = true → w.saved = true) →
        s.decision = some (.preempt l ds) → s.victim? l ds = some w →
        exec .preempt s = .next ((s.together w).foldl State.beginStop s)) ∧
      (∀ es, s.restore? = some es → exec .restore s = .next (es.foldl State.restoreOne s))) ∧
  (∀ (s s' s'' t t' : State) (g : Graph) (c : Cursor) (b : NodeBytes),
      (∀ kind i, (kind, i) ∈ [(1, Instr.graphNodeKernel), (2, .graphNodeCond), (3, .graphNodeWhile), (4, .graphNodeJoin), (0, .graphNodeEnd)] →
        s.pick (s.cursorsAt kind) = some (g, c) → s.fetchNode g c = .ok (s', b) → badNode b = true →
        exec i s = .next (s'.endGraph g 4)) ∧
      (s.pick (s.cursorsAt 1) = some (g, c) → s.fetchNode g c = .ok (s', b) → badNode b = false →
        bit (nodeFlags b) 1 = true → c.forked = false →
        (g.cursors.length < 8 → exec .graphNodeKernel s =
          .next ((s'.modCursor g c fun c => { c with forked := true }).fork g b)) ∧
        (8 ≤ g.cursors.length → exec .graphNodeKernel s = .next (s'.endGraph g 4))) ∧
      (s.pick (s.cursorsAt 1) = some (g, c) → s.fetchNode g c = .ok (s', b) → badNode b = false →
        nodeLaunch b % 128 = 0 → (bit (nodeFlags b) 1 = false ∨ c.forked = true) →
        ∀ bytes, hwReadAll s' (s'.graphLaunch g).ctx s'.active (nodeLaunch b) 2 = .ok (s'', bytes) →
          (s''.queueRoom (fieldAt bytes 26 1) 1 = false → exec .graphNodeKernel s = .next s'') ∧
          (s''.queueRoom (fieldAt bytes 26 1) 1 = true →
          ∃ u, exec .graphNodeKernel s = .next u ∧ u.children = s''.children ++
            [{ ctx := (s'.graphLaunch g).ctx, addr := BitVec.ofNat 64 (nodeLaunch b), arg := BitVec.ofNat 32 (nodeArg b), host := true,
               fromDie := none, bytes, graph := some (g.id, c.id) }])) ∧
      (s.pick (s.cursorsAt 2) = some (g, c) → s.fetchNode g c = .ok (s', b) → badNode b = false →
        ∀ v, s'.takeSlot g b = .ok (s'', v) →
          exec .graphNodeCond s = .next (s''.modCursor g c fun c => { c with node := if v ≠ 0 then nodeNext b else nodeAlt b })) ∧
      (s.pick (s.cursorsAt 3) = some (g, c) → s.fetchNode g c = .ok (s', b) → badNode b = false →
        ∀ v, s'.takeSlot g b = .ok (s'', v) → v ≠ 0 → nodeArg b < nodeCap b → s''.putNode g c 24 4 (nodeArg b + 1) = .ok t →
          exec .graphNodeWhile s = .next (t.modCursor g c fun c => { c with node := nodeNext b })) ∧
      (s.pick (s.cursorsAt 3) = some (g, c) → s.fetchNode g c = .ok (s', b) → badNode b = false →
        ∀ v, s'.takeSlot g b = .ok (s'', v) → (v = 0 ∨ nodeCap b ≤ nodeArg b) →
          s''.putNode g c 1 1 (if v ≠ 0 ∧ bit (nodeFlags b) 7 = false then nodeFlags b + 128 else nodeFlags b) = .ok t →
          t.putNode g c 24 4 0 = .ok t' →
          exec .graphNodeWhile s = .next (t'.modCursor g c fun c => { c with node := nodeAlt b })) ∧
      (s.pick (s.cursorsAt 4) = some (g, c) → s.fetchNode g c = .ok (s', b) → badNode b = false →
        (nodeArg b + 1) % 2 ^ 32 = nodeJoin b → s'.putNode g c 24 4 0 = .ok t →
          exec .graphNodeJoin s = .next (t.modCursor g c fun c => { c with node := nodeNext b })) ∧
      (s.pick (s.cursorsAt 4) = some (g, c) → s.fetchNode g c = .ok (s', b) → badNode b = false →
        (nodeArg b + 1) % 2 ^ 32 ≠ nodeJoin b → s'.putNode g c 24 4 ((nodeArg b + 1) % 2 ^ 32) = .ok t → t.endCursor g c = .ok t' →
          exec .graphNodeJoin s = .next t') ∧
      (s.pick (s.cursorsAt 0) = some (g, c) → s.fetchNode g c = .ok (s', b) → badNode b = false → s'.endCursor g c = .ok t →
          exec .graphNodeEnd s = .next t) ∧
      (∀ st, s.pick s.doneCursors = some (g, c, st) →
        (st ≠ 1 → exec .graphKernelDone s = .next (s.endGraph g st)) ∧
        (st = 1 → ∃ u, exec .graphKernelDone s = .next u ∧ u.groups = s.groups ∧ u.mem = s.mem ∧
          u.launches = s.launches.filter fun l => some l.id ≠ c.launch)))

/-- The mesh and the memory system. A home answers RD and RDO with the line, or has the owner answer: a shared reader joins the sharers,
a writer becomes the owner, every other holder is told to drop the line, and a line that is recalled or counted is NACK BUSY; an INV
drops the line of its die, writes an owned one back, is acknowledged at once, and overtakes a fill; ACK and DATA complete the writer's
count; DATA answers the loads that wait and is installed unless an INV overtook it; the owner serves FWD. A WR writes the home's bytes
and then its copies, the last ATOM of a read-modify-write performs it. NACK FULL resends after a doubling backoff, BUSY after 64 cycles,
REFUSED not at all. Two quiet halves of a region merge. CTRL reads and writes registers. An aborted or completed migration ends as R402
says. Token stores: an arrival performs a plain store and holds a carrying one; RELEASE performs what is held for its token, FAIL
discards it, POLL asks again after 1 µs; LANDED and DENIED complete a lane; REFUSE waits out a doubling backoff; a store held beyond
its limit is discarded; an entry landed or failed for 2^12 cycles retires under the next generation; a COLL ends when every unit has been
combined or denied. The mesh's details and its packet choices are the model's (logs 6, 16, 20, 39, 40 and 75). -/
def Obligations.MemorySystemEvents : Prop :=
  (∀ s : State,
      (∀ i ∈ [Instr.rd, .rdo, .ack, .wb, .nack, .nackResend, .directoryMerge, .ctrl],
        ∃ t, exec i s = .next t ∧ t.mem = s.mem ∧ t.tags = s.tags ∧ t.groups = s.groups) ∧
      (∀ i ∈ [Instr.inv, .fwd], ∃ t, exec i s = .next t ∧ t.mem = s.mem ∧ t.tags = s.tags ∧
        t.groups.map (fun g => { g with flights := [] }) = s.groups.map fun g => { g with flights := [] })) ∧
  (∀ (s u : State) (p : MeshPacket),
      let line := lineOf p.addr
      let data (v : State) (die n : Nat) : State := v.send
        { type := 7, cls := 8, src := die, dst := p.asker, tag := p.tag, aux := n, addr := line, len := 128,
          payload := v.lineBytes die line, asker := p.asker, count := n, owns := p.owns, plain := p.plain, skip := p.skip }
      let fwd (v : State) (owner n : Nat) : State := v.send
        { type := 8, src := p.dst, dst := owner, tag := p.tag, addr := line, asker := p.asker, count := n, owns := p.owns, skip := p.skip }
      let busy : State := { u with packets := u.packets ++ [{ p with refused := true, resendAt := 0 }] }.send
        { type := 0xA, cls := p.cls % 4 + 8, src := p.dst, dst := p.src, tag := p.tag, aux := 2, addr := p.addr }
      let owner := (u.dirRegion p.dst line).other? p.asker
      (s.takePacket (s.packetsOf 1) = some (p, u) →
        (p.plain = true → exec .rd s = .next (data u p.dst 0)) ∧
        (p.plain = false → u.recalling p.dst line = true → exec .rd s = .next busy) ∧
        (p.plain = false → u.recalling p.dst line = false → ∃ v,
          exec .rd s = .next (owner.elim (data v p.dst 0) fun o => fwd v o 0) ∧ v.l2 = s.l2 ∧
          (owner = none → p.dst < u.dies.length → (u.die p.dst).directory.length < 2 ^ 20 → p.asker < 52 →
            ∃ r ∈ (v.die p.dst).directory, r.covers line = true ∧ p.asker ∈ r.holders))) ∧
      (s.takePacket (s.packetsOf 2) = some (p, u) →
        ((u.recalling p.dst line = true ∨ u.counts p.asker line = true) → exec .rdo s = .next busy) ∧
        (u.recalling p.dst line = false → u.counts p.asker line = false →
          let others := (((u.dirRegion p.dst line).holders ++ u.replicaHolders line).filter fun d => d ≠ p.asker).eraseDups
          let told := others.filter fun d => some d ≠ owner
          ∃ v, exec .rdo s = .next (owner.elim (data v p.dst told.length) fun o => fwd v o told.length) ∧ v.l2 = s.l2 ∧
            (p.asker < 52 → ({ die := p.asker, line, expect := none, got := 0, writer := p.asker } : AckCount) ∈ v.acks) ∧
            (∀ d ∈ told, ∃ q ∈ v.packets, q.type = 5 ∧ q.src = p.dst ∧ q.dst = d ∧ q.addr = line ∧ q.asker = p.asker) ∧
            (others = [] → p.dst < u.dies.length → (u.die p.dst).directory.length < 2 ^ 20 → p.asker < 52 →
              ∃ r ∈ (v.die p.dst).directory, r.covers line = true ∧ r.owned = true ∧ r.holders = [p.asker]))) ∧
      (s.takePacket ((s.packetsOf 5).filter s.invReady) = some (p, u) → ∃ t, exec .inv s = .next t ∧
        (∀ e ∈ t.l2, ¬(e.die = p.dst ∧ e.line = line)) ∧ (∀ q ∈ t.packets, q.filling p.dst line = true → q.skip = true) ∧
        (∃ q ∈ t.packets, q.type = 6 ∧ q.src = p.dst ∧ q.dst = (if p.asker = 52 then p.src else p.asker) ∧ q.addr = line ∧ q.asker = p.asker) ∧
        (∀ e, u.l2Line? p.dst line = some e → e.own = true → ∃ q ∈ t.packets, q.type = 9 ∧ q.src = p.dst ∧ q.dst = p.src ∧ q.addr = line)) ∧
      (s.takePacket (s.packetsOf 6) = some (p, u) →
        let mine (a : AckCount) : Bool := a.die = p.dst && a.line = line && a.writer = p.asker
        exec .ack s = .next { u with acks := (u.acks.map fun a => if mine a then { a with got := a.got + 1 } else a).filter fun a =>
          !(mine a && a.expect = some a.got) }) ∧
      (s.takePacket (s.packetsOf 7) = some (p, u) → ∃ t, exec .data s = .next t ∧
        (p.plain = true → t = u.answer p.tag p.payload) ∧
        (p.plain = false → p.owns = false → t.groups = (u.answer p.tag p.payload).groups ∧ t.acks = u.acks) ∧
        (∀ k home, p.plain = false → p.skip = false → u.placeOf p.dst line = .cell k home →
          ∃ e ∈ t.l2, e.die = p.dst ∧ e.line = line ∧ e.key = k ∧ e.own = p.owns) ∧
        (p.plain = false → p.owns = true → ∀ a ∈ t.acks, a.die = p.dst → a.line = line → a.writer = p.dst →
          a.expect = some p.aux ∧ a.got ≠ p.aux)) ∧
      (s.takePacket ((s.packetsOf 8).filter fun q => !s.counts q.dst (lineOf q.addr)) = some (p, u) → ∃ t, exec .fwd s = .next t ∧
        (∃ q ∈ t.packets, q.type = 7 ∧ q.src = p.dst ∧ q.dst = p.asker ∧ q.tag = p.tag ∧ q.aux = p.count ∧ q.addr = line ∧
          q.payload = u.lineBytes p.dst line ∧ q.owns = p.owns) ∧
        (p.owns = true → ∀ e ∈ t.l2, ¬(e.die = p.dst ∧ e.line = line)) ∧
        (p.owns = false → ∀ e ∈ t.l2, e.die = p.dst → e.line = line → e.own = false)) ∧
      (s.takePacket (s.packetsOf 9) = some (p, u) → exec .wb s = .next u)) ∧
  (∀ (s u : State) (p : MeshPacket),
      (∀ k home c h, s.takePacket (s.packetsOf 3) = some (p, u) → u.writePlace p.dst p.addr = .cell k home →
        u.placeOf p.dst p.addr = .cell c h →
        let bs := p.payload.take p.len
        ∃ t, exec .wr s = .next t ∧
          (home = p.dst → t = (u.performAsked p k bs).forwardCopies p bs ∧ t.bytesAt k bs.length = bs) ∧
          (home ≠ p.dst → t.bytesAt c bs.length = bs ∧
            ∃ q ∈ t.packets, q.type = 6 ∧ q.src = p.dst ∧ q.dst = p.src ∧ q.addr = lineOf p.addr ∧ q.asker = p.asker)) ∧
      (∀ e, u.regionOf p.addr = some e → e.target ≠ 4 → e.mode = 1 → ∀ bs, ∀ d ∈ (setBits 56 e.dieset).drop 1,
        ∃ q ∈ (u.forwardCopies p bs).packets, q.type = 3 ∧ q.src = p.dst ∧ q.dst = d ∧ q.addr = p.addr ∧ q.payload = bs) ∧
      (∀ g f a, s.takePacket (s.packetsOf 4) = some (p, u) → u.askedAtom? p.tag = some (g, f, a) →
        ((∃ q ∈ u.packets, q.type = 4 ∧ q.src = p.src ∧ q.tag = p.tag) → exec .atom s = .next u) ∧
        ((∀ q ∈ u.packets, ¬(q.type = 4 ∧ q.src = p.src ∧ q.tag = p.tag)) → ∃ t, exec .atom s = .next t ∧
          t.readMem a.key 4 = (a.combine (u.readMem a.key 4)).2 % 2 ^ 32 ∧
          ∃ q ∈ t.packets, q.type = 7 ∧ q.dst = p.asker ∧ q.tag = p.tag ∧ q.payload = u.lineBytes p.dst (lineOf p.addr))) ∧
      (∀ k home op, s.takePacket (s.packetsOf 4) = some (p, u) → u.askedAtom? p.tag = none → u.writePlace p.dst p.addr = .cell k home →
        AtomicOp.ofCode? (fieldAt p.payload 0 1) = some op → ∃ t, exec .atom s = .next t ∧
          t.readMem k 4 = (atomCombine op (u.readMem k 4) [(fieldAt p.payload 4 4, fieldAt p.payload 8 4)]).2 % 2 ^ 32) ∧
      (s.takePacket (s.packetsOf 0xA) = some (p, u) →
        let mine (q : MeshPacket) : Bool := q.refused && q.resendAt = 0 && q.src = p.dst && q.tag = p.tag && q.addr = p.addr
        let again (q : MeshPacket) : MeshPacket :=
          if mine q = false then q
          else if p.aux = 1 then { q with resendAt := u.cycle + q.backoff, backoff := min 1024 (2 * q.backoff) }
          else { q with resendAt := u.cycle + 64 }
        exec .nack s = .next { u with packets := if p.aux = 3 then u.packets.filter (fun q => !mine q) else u.packets.map again }) ∧
      (∀ q, s.resendDue? = some q → exec .nackResend s =
        .next ({ s with packets := s.packets.erase q }.send { q with refused := false, resendAt := 0 })) ∧
      (∀ d a b, s.mergeable? = some (d, a, b) → d < s.dies.length → ∃ t, exec .directoryMerge s = .next t ∧
        ∃ r ∈ (t.die d).directory, r.base = a.base ∧ r.size = 2 * a.size ∧ r.owned = a.owned ∧ r.sharers = a.sharers) ∧
      (s.takePacket (s.packetsOf 0x30) = some (p, u) →
        (bit p.cls 3 = true → exec .ctrl s = .next u) ∧
        (bit p.cls 3 = false → p.len = 0 →
          exec .ctrl s = .next (u.send { type := 0x30, cls := 8, src := p.dst, dst := p.src, tag := p.tag, addr := p.addr, len := 4,
                                         payload := bytesOf 4 (u.controlRead p.addr 4) })) ∧
        (bit p.cls 3 = false → p.len ≠ 0 → ∃ t w, exec .ctrl s = .next t ∧ t.controlWrites = u.controlWrites ++ [w] ∧
          w.table = Config.controlTable p.addr ∧ w.index = Config.controlIndex p.addr ∧ w.die = p.dst ∧ w.sys = true ∧
          w.value = ofBytes (p.payload.take p.len) ∧ w.part = some (Config.controlOffset p.addr, p.len) ∧
          w.origin = some (p.src, p.tag, p.addr))) ∧
      (∀ r, s.migrating? = some r →
        let q := s.commandRing r
        let cmd := s.physRead r (q.ring + 8 * (q.head % q.cap)) 8
        let v := s.physWrite r ((s.die r).migbase + 12) 4 ((q.head + 1) % q.cap)
        let pte := v.physRead r cmd 8
        let e := v.physRead r pte 8
        (s.commandPoisoned r = true → exec .migrationCommand s = .next (s.freezeMaster r .migration)) ∧
        (s.commandPoisoned r = false → leafRefused e = true → exec .migrationCommand s = .next (v.physWrite r (cmd + 18) 1 2)) ∧
        (s.commandPoisoned r = false → leafRefused e = false → ∃ t m, exec .migrationCommand s = .next t ∧ t.groups = s.groups ∧
          t.migrations = s.migrations ++ [m] ∧ t.mem = (v.physWrite r pte 8 (if bit e 3 then e - 8 else e)).mem ∧ m.rim = r ∧
          m.cmd = cmd ∧ m.pte = pte ∧ m.dest = v.physRead r (cmd + 8) 8 ∧ m.old = BitVec.ofNat 64 e ∧ m.start = s.ns)) ∧
      (∀ m, s.copying? = some m →
        (s.copyPoisoned m = false → exec .migrationCopy s = .next (s.endMigration m)) ∧
        (s.copyPoisoned m = true → exec .migrationCopy s = .next (s.freezeMaster m.rim .migration)))) ∧
  (∀ s : State,
      (∀ p u h, s.takePacket (s.packetsOf 0x20) = some (p, u) →
        u.held.find? (fun h => h.phase = .sent && h.pkg.isNone && h.id + 1 = p.tag) = some h →
        exec .tstorePacket s = .next (u.arriveStore h)) ∧
      (∀ p u, s.takePacket (s.packetsOf 0x21) = some (p, u) → (u.tokenState (tokenOf p)).1 = 2 → p.ctx = 0 →
        exec .watch s = .next (u.sendToken 0x22 0 p.dst u.pkgid p.src (tokenOf p).toNat)) ∧
      (∀ p u, s.takePacket (s.releases 0) = some (p, u) → ∃ t, exec .release s = .next t ∧
        (∀ w ∈ t.waits, w.die = p.dst → w.token = tokenOf p → w.phase = .landed) ∧
        t.mem = ((u.heldFor p).foldl State.releaseStore u).mem ∧ t.groups = ((u.heldFor p).foldl State.releaseStore u).groups ∧
        t.held = ((u.heldFor p).foldl State.releaseStore u).held) ∧
      (∀ p u, s.takePacket (s.releases 1) = some (p, u) →
        (∀ h, p.tag ≠ 0 → u.held.find? (fun h => h.carriedBy p && (h.phase = .broken || h.phase = .away)) = some h →
          exec .fail s = .next (u.discarded h 1)) ∧
        (p.tag = 0 → ∃ t, exec .fail s = .next t ∧ (∀ w ∈ t.waits, w.die = p.dst → w.token = tokenOf p → w.phase = .failed) ∧
          t.held = ((u.heldFor p).foldl (fun s h => s.discard h 1) u).held ∧
          t.packets = ((u.heldFor p).foldl (fun s h => s.discard h 1) u).packets)) ∧
      (∀ p u, s.takePacket (s.releases 2) = some (p, u) → ∃ t, exec .poll s = .next t ∧ t.mem = s.mem ∧
        (∀ h, u.heldFor p = [h] → ∀ e ∈ t.held, e.id = h.id → e.phase = .polling ∧ e.nextAt = s.ns + 1000) ∧
        (∀ w ∈ u.waits, w.die = p.dst → w.token = tokenOf p → w.phase = .asked →
          { w with phase := .polling, nextAt := s.ns + 1000 } ∈ t.waits)) ∧
      (∀ h, (s.held.find? fun h => h.phase = .polling && decide (h.nextAt ≤ s.ns)) = some h →
        exec .watchRepoll s = .next ((s.modHeld h.id fun h => { h with phase := .held }).toHome 0x21 0 h.dst h.token)) ∧
      (∀ w, (s.held.find? fun h => h.phase = .polling && decide (h.nextAt ≤ s.ns)) = none →
        (s.waits.find? fun w => w.phase = .polling && decide (w.nextAt ≤ s.ns)) = some w → ∃ t, exec .watchRepoll s = .next t ∧
          { w with phase := .asked } ∈ t.waits ∧ t.mem = s.mem ∧ t.groups = s.groups) ∧
      (∀ p u h, s.takePacket (s.releases 3) = some (p, u) →
        u.held.find? (fun h => h.carriedBy p && (h.phase = .landed || h.phase = .away)) = some h → h.issue = false →
        exec .landed s = .next ((u.dropHeld h.id).modGroup h.group fun g => g.laneDone h.flight)) ∧
      (∀ p u h, s.takePacket (s.releases 4) = some (p, u) → u.held.find? (fun h => h.carriedBy p && h.phase = .away) = some h →
        h.issue = false → h.tagged = false →
        exec .denied s = .next ((u.bump.dropHeld h.id).modGroup h.group fun g =>
          (g.modFlight h.flight fun f => f.deny h.lane h.va).laneDone h.flight)) ∧
      (∀ p u h, s.takePacket (s.releases 5) = some (p, u) →
        u.held.find? (fun h => h.carriedBy p && (h.phase = .expired || h.phase = .away)) = some h →
        exec .expired s = .next (u.discarded h 0)) ∧
      (∀ p u h, s.takePacket (s.packetsOf 0x23) = some (p, u) →
        u.held.find? (fun h => h.carriedBy p && (h.phase = .away || (h.phase = .refused && h.nextAt = 0))) = some h →
        exec .refuse s = .next (u.modHeld h.id fun h =>
          { h with phase := .refused, nextAt := u.cycle + h.backoff, backoff := min 16384 (2 * h.backoff) })) ∧
      (∀ h, (s.held.find? fun h => h.phase = .refused && h.nextAt ≠ 0 && decide (h.nextAt ≤ s.cycle)) = some h →
        exec .refuseResend s = .next ((s.modHeld h.id fun h => { h with phase := if h.away.isSome then .away else .sent }).dispatch h)) ∧
      (∀ h, s.overHeld? = some h → s.halted = false →
        exec .tokenHoldExpiry s = .next (if h.phase = .refused then s.discarded h 0 else s.discard h 0)) ∧
      (∀ d k e, s.retirable? = some (d, k, e) → d < s.dies.length → ∃ t, exec .tokenRetire s = .next t ∧
        (t.tokenEntry d k).state = 0 ∧ (t.tokenEntry d k).gen = e.gen + 1 ∧ (t.tokenEntry d k).history = e.history) ∧
      (∀ t, s.notices.findSome? s.pushNotice = some t → exec .collTransfer s = .next t) ∧
      (∀ c, s.notices.findSome? s.pushNotice = none → s.collEnded? = some c → exec .collTransfer s = .next (s.endColl c)) ∧
      (∀ t, s.notices.findSome? s.pushNotice = none → s.collEnded? = none →
        s.pick ((s.packets.filter fun p => p.isColl && s.arriving p).map s.arriveUnit ++ s.colls.map s.stepColl) = some t →
        exec .collTransfer s = .next t))

/-- The control space, the fabric and the management port. A write of a thread without SR_CTX.SYS has no effect; one with it
changes what its table says, with the bytes it leaves out as they stood, or is refused, and its CTRL access is answered. Flits and packets are received; a request of each OP is answered; a reset, a
takeover, a clock or thermal event does what its rule says. How control-space accesses arrive, the layout of TELEMETRY and what
a reset keeps of the model's own fields are the model's choices (logs 32, 42, 43 and 44). -/
def Obligations.ManagementEvents : Prop :=
  ∀ s : State,
    (∀ (w : ControlWrite) (f : ControlWrite → State → Option State),
      (w.sys = false → s.effect w f = s.answerWrite w false) ∧
      (w.sys = true → f (w.whole s) s = none → s.effect w f = s.answerWrite w true) ∧
      (∀ t, w.sys = true → f (w.whole s) s = some t → s.effect w f = t.answerWrite w false)) ∧
    (∀ w u, s.takeWrite plainTable = some (w, u) →
      exec .controlRegisterWrite s = .next (u.effect w fun w s => some (s.writeRegister w))) ∧
    (∀ w u, s.takeWrite (fun w => w.table = 6 && w.index = 0) = some (w, u) →
      exec .ringctlWrite s = .next (u.effect w fun w s => s.commitRing w.value)) ∧
    (∀ w u, s.takeWrite (fun w => w.table = 2) = some (w, u) →
      exec .routeWrite s = .next (u.effect w fun w s => s.writeRoute w)) ∧
    (∀ w u, s.takeWrite (fun w => w.table = 1) = some (w, u) → w.sys = true → u.regions.length ≤ 64 → w.index < 64 →
      ∃ t, exec .regionWrite s = .next t ∧ t.regions[w.index]? = some (RegionEntry.ofNat (w.whole u).value)) ∧
    (∀ w u, s.takeWrite (fun w => w.table = 4) = some (w, u) →
      exec .poolbaseWrite s = .next (u.effect w fun w s => some (s.placePool w.die w.value))) ∧
    (∀ w u, s.takeWrite (fun w => w.table = 5) = some (w, u) →
      exec .migbaseWrite s = .next (u.effect w fun w s => some (s.modDie w.die fun d => { d with migbase := w.value }))) ∧
    (∀ w u, s.takeWrite (fun w => w.table = 7) = some (w, u) →
      exec .selectWrite s = .next (u.effect w fun w s => some (s.modIsland w.index fun i => i.selected w.value))) ∧
    (∀ w u, s.takeWrite (fun w => w.table = 8) = some (w, u) →
      exec .stepEntryWrite s = .next (u.effect w fun w s => s.writeStep w)) ∧
    (∀ a as, s.eackIn = a :: as → exec .fabricPacket s = .next ({ s with eackIn := as }.acknowledge a)) ∧
    (∀ h p, s.eackIn = [] → s.ready? = some (h, p) → exec .fabricPacket s = .next (s.performTurn h p)) ∧
    (∀ p, s.eackIn = [] → s.ready? = none → s.pick s.fabricIn = some p → p.dpkg = s.pkgid →
      exec .fabricPacket s = .next ({ s with fabricIn := removeFirst s.fabricIn p }.acceptFabric p)) ∧
    (∀ i k, (i, k) ∈ [(Instr.flitData, 1), (.flitIdle, 0), (.flitCtrl, 3), (.keymark, 2)] →
      ∀ f, s.pick (s.flitsOf k) = some f → exec i s = .next (s.receive f)) ∧
    (∀ n, s.pick (s.flitsOf 2) = none → s.switching? = some n → exec .keymark s = .next (s.sendKeymark n)) ∧
    (∀ n, s.spentLink? = some n → ((s.link s.chosen).up = true → s.chosen < 128 → (s.link s.chosen).fails < 3) →
      exec .linkDown s = .next (s.linkDown n)) ∧
    (s.chosen < 128 → (s.link s.chosen).up = true → (3 ≤ (s.link s.chosen).fails ∨ s.spentLink? = none) →
      exec .linkDown s = .next (s.linkDown s.chosen)) ∧
    (s.chosen < 128 → (s.link s.chosen).up = false → exec .linkUp s = .next (s.linkUp s.chosen)) ∧
    (s.frozen.contains (48, .control) = false → exec .heartbeat s = .next { s with heartbeat := s.ns }) ∧
    (∀ t, s.standbyDue = true → { s with active := 50 }.endGraphs = .ok t →
      exec .standbyTakeover s = .next t.reportTakeover) ∧
    (∃ t, exec .coldReset s = .next t ∧ t.mem = [] ∧ t.groups = [] ∧ t.bootCount = s.bootCount + 1) ∧
    (s.chosen % 64 < 52 → ∃ t, exec .warmReset s = .next t ∧ (∀ g ∈ t.groups, g.die ≠ s.chosen % 64) ∧ t.mem = s.mem) ∧
    (∀ i k, (i, k) ∈ [(Instr.mgmtIdentity, 1), (.mgmtAttest, 2), (.mgmtTelemetry, 3), (.mgmtBlackbox, 4), (.mgmtHalt, 5), (.mgmtResume, 6),
        (.mgmtSaveread, 7), (.mgmtWarmreset, 8), (.mgmtColdreset, 9)] → ∀ m, s.pick (s.mgmtRequests k) = some m →
      (m.bad = true → exec i s = .next (s.respond m 1 [])) ∧
      (m.bad = false → s.resetting = true → exec i s = .next (s.respond m 2 []))) ∧
    (∀ m, s.pick (s.mgmtRequests 1) = some m → m.bad = false → s.resetting = false → exec .mgmtIdentity s = .next (s.respond m 0 ((List.range 29920).map (identityByte s.ident)))) ∧
    (∀ m, s.pick (s.mgmtRequests 2) = some m → m.bad = false → s.resetting = false → m.die < 52 → exec .mgmtAttest s = .next
      (s.respond m 0 (s.report m ++ (List.range 29792).map (Config.signatureByte (ofBytes (s.report m)))))) ∧
    (∀ m, s.pick (s.mgmtRequests 3) = some m → m.bad = false → s.resetting = false → exec .mgmtTelemetry s = .next (s.bump.respond m 0 s.telemetry)) ∧
    (∀ m, s.pick (s.mgmtRequests 4) = some m → m.bad = false → s.resetting = false → m.die < 52 →
      exec .mgmtBlackbox s = .next (s.respond m 0 ((((s.die m.die).box.drop m.index).take 64).flatMap BoxEvent.bytes))) ∧
    (∀ m, s.pick (s.mgmtRequests 5) = some m → m.bad = false → s.resetting = false → ∃ t, exec .mgmtHalt s = .next t ∧ t.halted = true) ∧
    (∀ m, s.pick (s.mgmtRequests 6) = some m → m.bad = false → s.resetting = false → s.halted = true → ∃ t, exec .mgmtResume s = .next t ∧ t.halted = false) ∧
    (∀ m, s.pick (s.mgmtRequests 7) = some m → m.bad = false → s.resetting = false → s.halted = true → m.die < 52 → exec .mgmtSaveread s = .next
      (s.respond m 0 ((((s.saves.filter fun a => a.die = m.die).flatMap fun a => a.bytes).drop m.index).take 1400))) ∧
    (∀ m, s.pick (s.mgmtRequests 8) = some m → m.bad = false → s.resetting = false → m.die < 52 → ∃ t, exec .mgmtWarmreset s = .next t ∧
      t.agenda = s.agenda ++ [{ chosen := m.die + 64, event := .warmReset }]) ∧
    (∀ m, s.pick (s.mgmtRequests 9) = some m → m.bad = false → s.resetting = false → ∃ t, exec .mgmtColdreset s = .next t ∧
      t.agenda = s.agenda ++ [{ event := .coldReset }]) ∧
    (s.chosen < 640 → s.chosen < s.islands.length → (s.island s.chosen).lost = false → ∃ t, exec .clockRefLoss s = .next t ∧
      (t.island s.chosen).lost = true ∧ (t.island s.chosen).running = 0) ∧
    (s.chosen < s.islands.length → ∃ t, exec .clockRefReturn s = .next t ∧ (t.island s.chosen).lost = false ∧ t.mem = s.mem) ∧
    (s.chosen < 640 → s.chosen < s.islands.length → (s.island s.chosen).lost = false → (s.island s.chosen).fallback = true →
      ∃ t, exec .fallbackClear s = .next t ∧ (t.island s.chosen).fallback = false ∧
        (t.island s.chosen).select = (s.island s.chosen).stored.getD (s.island s.chosen).select) ∧
    (∃ t, exec .droopStretch s = .next t ∧ t.cycle = s.cycle ∧ t.mem = s.mem ∧ t.groups = s.groups) ∧
    (∃ t, exec .thermalTrip s = .next t ∧ (64 ≤ s.chosen → t.powered = false) ∧ t.mem = s.mem ∧ t.groups = s.groups) ∧
    (∃ t, exec .patrolScrub s = .next t ∧ t.mem = s.mem ∧ t.groups = s.groups)
end

