-- ==== Sys2Proof/Laws/Encoding.lean ====
section
/-! SUPPORT. Each code names what it encodes, and the fields of a packed word. -/

namespace Sys2Proof

theorem finCode_val (n : Nat) (x : Fin n) : finCode? n x.val = some x := by
  unfold finCode?; rw [dif_pos x.isLt]

theorem Operand.code_lt (o : Operand) : o.code < 128 := by
  cases o <;> simp only [Operand.code] <;> omega

theorem Operand.ofCode_code (o : Operand) : Operand.ofCode? o.code = some o := by
  cases o with
  | v n => exact dif_pos n.isLt
  | s n => revert n; decide
  | q n => revert n; decide
  | _ => rfl

/-- The fields of a packed word (R27). -/
theorem fields_pack (op m d a b : Nat) (ho : op < 128) (hm : m < 16) (hd : d < 128) (ha : a < 128) (hb : b < 128) :
    opOf (pack op m d a b) = op ∧ mOf (pack op m d a b) = m ∧ dOf (pack op m d a b) = d ∧ aOf (pack op m d a b) = a ∧
    bOf (pack op m d a b) = b := by
  have h : (pack op m d a b).toNat = op * 2 ^ 25 + m * 2 ^ 21 + d * 2 ^ 14 + a * 2 ^ 7 + b := by
    simp only [pack, BitVec.toNat_ofNat]
    exact Nat.mod_eq_of_lt (by omega)
  simp only [opOf, mOf, dOf, aOf, bOf, h]
  omega

theorem decode_pack (op m d a b : Nat) (ho : op < 128) (hm : m < 16) (hd : d < 128) (ha : a < 128) (hb : b < 128) :
    decode (pack op m d a b) = decodeFields op m d a b := by
  obtain ⟨h1, h2, h3, h4, h5⟩ := fields_pack op m d a b ho hm hd ha hb
  simp only [decode, h1, h2, h3, h4, h5]

/-- A branch offset's word, through its three fields. -/
theorem packOffset_eq (op m : Nat) (off : BitVec 21) :
    packOffset op m off = pack op m (off.toNat / 2 ^ 14) (off.toNat / 2 ^ 7 % 128) (off.toNat % 128) := by
  unfold packOffset pack
  refine congrArg (BitVec.ofNat 32) ?_
  omega

theorem offset_fields (off : BitVec 21) : offsetOf (off.toNat / 2 ^ 14) (off.toNat / 2 ^ 7 % 128) (off.toNat % 128) = off := by
  apply BitVec.eq_of_toNat_eq
  simp only [offsetOf, BitVec.toNat_ofNat]
  have := off.isLt
  omega

theorem decode_packOffset (op m : Nat) (off : BitVec 21) (ho : op < 128) (hm : m < 16) :
    decode (packOffset op m off) = decodeFields op m (off.toNat / 2 ^ 14) (off.toNat / 2 ^ 7 % 128) (off.toNat % 128) := by
  rw [packOffset_eq]
  have := off.isLt
  exact decode_pack _ _ _ _ _ ho hm (by omega) (by omega) (by omega)

theorem Wide.ofCode_code (x : Wide) : Wide.ofCode? x.code = some x := by cases x <;> rfl
theorem Wide.code_lt (x : Wide) : x.code < 2 := by cases x <;> decide
theorem Sgn.ofCode_code (x : Sgn) : Sgn.ofCode? x.code = some x := by cases x <;> rfl
theorem Sgn.code_lt (x : Sgn) : x.code < 2 := by cases x <;> decide
theorem IType.ofCode_code (x : IType) : IType.ofCode? x.code = some x := by cases x <;> rfl
theorem IType.code_lt (x : IType) : x.code < 4 := by cases x <;> decide
theorem AType.ofCode_code (x : AType) : AType.ofCode? x.code = some x := by cases x <;> rfl
theorem AType.code_lt (x : AType) : x.code < 6 := by cases x <;> decide
theorem Rel.ofCode_code (x : Rel) : Rel.ofCode? x.code = some x := by cases x <;> rfl
theorem Rel.code_lt (x : Rel) : x.code < 4 := by cases x <;> decide
theorem Rnd.ofCode_code (x : Rnd) : Rnd.ofCode? x.code = some x := by cases x <;> rfl
theorem Rnd.code_lt (x : Rnd) : x.code < 4 := by cases x <;> decide
theorem QRnd.ofCode_code (x : QRnd) : QRnd.ofCode? x.code = some x := by cases x <;> rfl
theorem QRnd.code_lt (x : QRnd) : x.code < 5 := by cases x <;> decide
theorem PlopOp.ofCode_code (x : PlopOp) : PlopOp.ofCode? x.code = some x := by cases x <;> rfl
theorem PlopOp.code_lt (x : PlopOp) : x.code < 7 := by cases x <;> decide
theorem Idp4Sign.ofCode_code (x : Idp4Sign) : Idp4Sign.ofCode? x.code = some x := by cases x <;> rfl
theorem Idp4Sign.code_lt (x : Idp4Sign) : x.code < 4 := by cases x <;> decide
theorem LWidth.ofCode_code (x : LWidth) : LWidth.ofCode? x.code = some x := by cases x <;> rfl
theorem LWidth.code_lt (x : LWidth) : x.code < 7 := by cases x <;> decide
theorem SWidth.ofCode_code (x : SWidth) : SWidth.ofCode? x.code = some x := by cases x <;> rfl
theorem SWidth.code_lt (x : SWidth) : x.code < 7 := by cases x <;> decide
theorem AtomicOp.ofCode_code (x : AtomicOp) : AtomicOp.ofCode? x.code = some x := by cases x <;> rfl
theorem AtomicOp.code_lt (x : AtomicOp) : x.code < 13 := by cases x <;> decide
theorem RedOp.ofCode_code (x : RedOp) : RedOp.ofCode? x.code = some x := by cases x <;> rfl
theorem RedOp.code_lt (x : RedOp) : x.code < 13 := by cases x <;> decide
theorem Scope.ofCode_code (x : Scope) : Scope.ofCode? x.code = some x := by cases x <;> rfl
theorem Scope.code_lt (x : Scope) : x.code < 6 := by cases x <;> decide
theorem FenceKind.ofCode_code (x : FenceKind) : FenceKind.ofCode? x.code = some x := by cases x <;> rfl
theorem FenceKind.code_lt (x : FenceKind) : x.code < 4 := by cases x <;> decide
theorem PrefLevel.ofCode_code (x : PrefLevel) : PrefLevel.ofCode? x.code = some x := by cases x <;> rfl
theorem PrefLevel.code_lt (x : PrefLevel) : x.code < 2 := by cases x <;> decide
theorem NanMode.ofCode_code (x : NanMode) : NanMode.ofCode? x.code = some x := by cases x <;> rfl
theorem NanMode.code_lt (x : NanMode) : x.code < 2 := by cases x <;> decide
theorem HFmt.ofCode_code (x : HFmt) : HFmt.ofCode? x.code = some x := by cases x <;> rfl
theorem HFmt.code_lt (x : HFmt) : x.code < 2 := by cases x <;> decide
theorem FFmt.ofCode_code (x : FFmt) : FFmt.ofCode? x.code = some x := by cases x <;> rfl
theorem FFmt.code_lt (x : FFmt) : x.code < 3 := by cases x <;> decide
theorem QFmt.ofCode_code (x : QFmt) : QFmt.ofCode? x.code = some x := by cases x <;> rfl
theorem QFmt.code_lt (x : QFmt) : x.code < 10 := by cases x <;> decide
theorem EnginePort.ofCode_code (x : EnginePort) : EnginePort.ofCode? x.code = some x := by cases x <;> rfl
theorem EnginePort.code_lt (x : EnginePort) : x.code < 19 := by cases x <;> decide
theorem ShflMode.ofCode_code (x : ShflMode) : ShflMode.ofCode? x.code = some x := by cases x <;> rfl
theorem ShflMode.code_lt (x : ShflMode) : x.code < 4 := by cases x <;> decide
theorem ScanOp.ofCode_code (x : ScanOp) : ScanOp.ofCode? x.code = some x := by cases x <;> rfl
theorem ScanOp.code_lt (x : ScanOp) : x.code < 8 := by cases x <;> decide
theorem PhaseOp.ofCode_code (x : PhaseOp) : PhaseOp.ofCode? x.code = some x := by cases x <;> rfl
theorem PhaseOp.code_lt (x : PhaseOp) : x.code < 3 := by cases x <;> decide
theorem CollOp.ofCode_code (x : CollOp) : CollOp.ofCode? x.code = some x := by cases x <;> rfl
theorem CollOp.code_lt (x : CollOp) : x.code < 4 := by cases x <;> decide
theorem PredReg.ofCode_code (x : PredReg) : PredReg.ofCode? (Sys2Proof.PredReg.code x) = some x := finCode_val _ x
theorem PredReg.code_lt (x : PredReg) : Sys2Proof.PredReg.code x < 8 := x.isLt
theorem BtSlot.ofCode_code (x : BtSlot) : BtSlot.ofCode? (Sys2Proof.BtSlot.code x) = some x := finCode_val _ x
theorem BtSlot.code_lt (x : BtSlot) : Sys2Proof.BtSlot.code x < 8 := x.isLt
theorem PathNo.ofCode_code (x : PathNo) : PathNo.ofCode? (Sys2Proof.PathNo.code x) = some x := finCode_val _ x
theorem PathNo.code_lt (x : PathNo) : Sys2Proof.PathNo.code x < 11 := x.isLt
theorem Tile.ofCode_code (x : Tile) : Tile.ofCode? (Sys2Proof.Tile.code x) = some x := finCode_val _ x
theorem Tile.code_lt (x : Tile) : Sys2Proof.Tile.code x < 64 := x.isLt
theorem FirstReg.ofCode_code (x : FirstReg) : FirstReg.ofCode? (Sys2Proof.FirstReg.code x) = some x := finCode_val _ x
theorem FirstReg.code_lt (x : FirstReg) : Sys2Proof.FirstReg.code x < 96 := x.isLt
theorem RegCount.ofCode_code (x : RegCount) : RegCount.ofCode? (Sys2Proof.RegCount.code x) = some x := finCode_val _ x
theorem RegCount.code_lt (x : RegCount) : Sys2Proof.RegCount.code x < 97 := x.isLt
theorem SrNum.ofCode_code (x : SrNum) : SrNum.ofCode? (Sys2Proof.SrNum.code x) = some x := finCode_val _ x
theorem SrNum.code_lt (x : SrNum) : Sys2Proof.SrNum.code x < 128 := x.isLt
theorem Level.ofCode_code (x : Level) : Level.ofCode? (Sys2Proof.Level.code x) = some x := finCode_val _ x
theorem Level.code_lt (x : Level) : Sys2Proof.Level.code x < 8 := x.isLt
theorem BarId.ofCode_code (x : BarId) : BarId.ofCode? (Sys2Proof.BarId.code x) = some x := finCode_val _ x
theorem BarId.code_lt (x : BarId) : Sys2Proof.BarId.code x < 16 := x.isLt
theorem CbarId.ofCode_code (x : CbarId) : CbarId.ofCode? (Sys2Proof.CbarId.code x) = some x := finCode_val _ x
theorem CbarId.code_lt (x : CbarId) : Sys2Proof.CbarId.code x < 4 := x.isLt
theorem Shift.ofCode_code (x : Shift) : Shift.ofCode? (Sys2Proof.Shift.code x) = some x := finCode_val _ x
theorem Shift.code_lt (x : Shift) : Sys2Proof.Shift.code x < 16 := x.isLt
theorem Elem.ofCode_code (x : Elem) : Elem.ofCode? (Sys2Proof.Elem.code x) = some x := finCode_val _ x
theorem Elem.code_lt (x : Elem) : Sys2Proof.Elem.code x < 8 := x.isLt
theorem ICond.ofCode_code (x : ICond) : ICond.ofCode? x.code = some x := by
  obtain ⟨r, u, w⟩ := x; cases r <;> cases u <;> cases w <;> rfl
theorem ICond.code_lt (x : ICond) : x.code < 16 := by obtain ⟨r, u, w⟩ := x; cases r <;> cases u <;> cases w <;> decide
theorem PredSel.ofCode_code (x : PredSel) : PredSel.ofCode? x.code = some x := by
  obtain ⟨p, i⟩ := x; revert p i; decide
theorem PredSel.code_lt (x : PredSel) : x.code < 16 := by obtain ⟨p, i⟩ := x; revert p i; decide
/-- The inverted p7 has no code of its own (R38). -/
theorem XferPred.ofCode_code (x : XferPred) (h : ¬ (x.p = 7 ∧ x.inv = true)) : XferPred.ofCode? x.code = some x := by
  obtain ⟨p, i⟩ := x; revert p i; decide
theorem XferPred.code_lt (x : XferPred) : x.code < 16 := by obtain ⟨p, i⟩ := x; revert p i; decide
theorem FCond.ofCode_code (x : FCond) : FCond.ofCode? x.code = some x := by
  obtain ⟨r, u⟩ := x; cases r <;> cases u <;> rfl
theorem FCond.code_lt (x : FCond) : x.code < 8 := by obtain ⟨r, u⟩ := x; cases r <;> cases u <;> decide
theorem CvtFmts.ofCode_code (x : CvtFmts) : CvtFmts.ofCode? x.code = some x := by
  obtain ⟨r, u⟩ := x; cases r <;> cases u <;> rfl
theorem CvtFmts.code_lt (x : CvtFmts) : x.code < 16 := by obtain ⟨r, u⟩ := x; cases r <;> cases u <;> decide
theorem IntCvt.ofCode_code (x : IntCvt) : IntCvt.ofCode? x.code = some x := by
  obtain ⟨r, u, w⟩ := x; cases r <;> cases u <;> cases w <;> rfl
theorem IntCvt.code_lt (x : IntCvt) : x.code < 16 := by obtain ⟨r, u, w⟩ := x; cases r <;> cases u <;> cases w <;> decide
theorem PackMode.ofCode_code (x : PackMode) : PackMode.ofCode? x.code = some x := by
  obtain ⟨r, f⟩ := x; cases r <;> cases f <;> rfl
theorem PackMode.code_lt (x : PackMode) : x.code < 16 := by obtain ⟨r, f⟩ := x; cases r <;> cases f <;> decide
theorem MultiCast.ofCode_code (x : MultiCast) : MultiCast.ofCode? x.code = some x := by
  obtain ⟨r, f⟩ := x; cases r <;> cases f <;> rfl
theorem MultiCast.code_lt (x : MultiCast) : x.code < 4 := by obtain ⟨r, f⟩ := x; cases r <;> cases f <;> decide
theorem ScanMode.ofCode_code (x : ScanMode) : ScanMode.ofCode? x.code = some x := by
  obtain ⟨o, e⟩ := x; cases o <;> cases e <;> rfl
theorem ScanMode.code_lt (x : ScanMode) : x.code < 16 := by obtain ⟨o, e⟩ := x; cases o <;> cases e <;> decide

/-- A header's word decodes to the header (R28). -/
theorem decodeHeader_encode (h : Header) (hw : (Instr.clauseHeader h).wf = true) : decodeHeader (encodeHeader h) = some h := by
  obtain ⟨n1, wait, setx, sety, sense, pred⟩ := h
  have h1 := n1.isLt
  have h2 := wait.isLt
  have h3 := setx.isLt
  have h4 := sety.isLt
  have h5 := pred.isLt
  have h6 : sense.toNat ≤ 1 := by cases sense <;> decide
  have e : (encodeHeader ⟨n1, wait, setx, sety, sense, pred⟩).toNat
      = 0xD * 2 ^ 28 + n1.val * 2 ^ 24 + wait.toNat * 2 ^ 12 + setx.val * 2 ^ 8 + sety.val * 2 ^ 4 + sense.toNat * 8 + pred.val := by
    simp only [encodeHeader, BitVec.toNat_ofNat]
    exact Nat.mod_eq_of_lt (by omega)
  have f1 : Fin.ofNat 16 ((encodeHeader ⟨n1, wait, setx, sety, sense, pred⟩).toNat / 2 ^ 24) = n1 := by
    apply Fin.eq_of_val_eq; simp only [Fin.ofNat, e]; omega
  have f2 : BitVec.ofNat 12 ((encodeHeader ⟨n1, wait, setx, sety, sense, pred⟩).toNat / 2 ^ 12) = wait := by
    apply BitVec.eq_of_toNat_eq; simp only [BitVec.toNat_ofNat, e]; omega
  have f3 : Fin.ofNat 16 ((encodeHeader ⟨n1, wait, setx, sety, sense, pred⟩).toNat / 2 ^ 8) = setx := by
    apply Fin.eq_of_val_eq; simp only [Fin.ofNat, e]; omega
  have f4 : Fin.ofNat 16 ((encodeHeader ⟨n1, wait, setx, sety, sense, pred⟩).toNat / 2 ^ 4) = sety := by
    apply Fin.eq_of_val_eq; simp only [Fin.ofNat, e]; omega
  have f5 : Fin.ofNat 8 ((encodeHeader ⟨n1, wait, setx, sety, sense, pred⟩).toNat) = pred := by
    apply Fin.eq_of_val_eq; simp only [Fin.ofNat, e]; omega
  have f6 : decide ((encodeHeader ⟨n1, wait, setx, sety, sense, pred⟩).toNat / 8 % 2 = 1) = sense := by
    rw [e]
    cases sense
    · simp; omega
    · simp; omega
  have f7 : (encodeHeader ⟨n1, wait, setx, sety, sense, pred⟩).toNat / 2 ^ 28 = 0xD := by rw [e]; omega
  unfold decodeHeader
  simp only [f1, f2, f3, f4, f5, f6]
  rw [if_pos ⟨f7, hw⟩]

end Sys2Proof
end

