-- ==== Sys2Proof/Laws/Store.lean ====
section
/-! SUPPORT. The sparse store: what a read gives after a write, and that every operation keeps the canonical form. -/

namespace Sys2Proof.Machine

open Sys2Proof

/-! ### Reading -/

theorem sread_nil {w : Nat} (k : Nat) : sread ([] : Store w) k = 0 := rfl

theorem sread_absent {w : Nat} (st : Store w) (k : Nat) (h : ∀ e ∈ st, e.1 ≠ k) : sread st k = 0 := by
  induction st with
  | nil => rfl
  | cons e t ih =>
    rw [sread, if_neg (h e (by simp))]
    exact ih fun e' he => h e' (by simp [he])

theorem sread_filter_keep {w : Nat} (p : Nat × BitVec w → Bool) (st : Store w) (k : Nat) (h : ∀ v, p (k, v) = true) :
    sread (st.filter p) k = sread st k := by
  induction st with
  | nil => rfl
  | cons e t ih =>
    obtain ⟨a, x⟩ := e
    by_cases hp : p (a, x) = true
    · rw [List.filter_cons_of_pos hp, sread, sread, ih]
    · rw [List.filter_cons_of_neg hp, ih, sread, if_neg]
      rintro rfl
      exact hp (h x)

theorem sread_filter_drop {w : Nat} (p : Nat × BitVec w → Bool) (st : Store w) (k : Nat) (h : ∀ v, p (k, v) = false) :
    sread (st.filter p) k = 0 := by
  apply sread_absent
  rintro ⟨a, x⟩ he rfl
  simp [h x] at he

theorem sread_sremove {w : Nat} (st : Store w) (k j : Nat) :
    sread (sremove st k) j = if j = k then 0 else sread st j := by
  unfold sremove
  split
  · next h => exact sread_filter_drop _ _ _ fun v => by simp [h]
  · next h => exact sread_filter_keep _ _ _ fun v => by simp [h]

theorem sread_sinsert {w : Nat} (st : Store w) (k : Nat) (v : BitVec w) (h : ∀ e ∈ st, e.1 ≠ k) (j : Nat) :
    sread (sinsert st k v) j = if j = k then v else sread st j := by
  induction st with
  | nil =>
    simp only [sinsert, sread, eq_comm (a := k)]
  | cons e t ih =>
    obtain ⟨a, x⟩ := e
    have ha : a ≠ k := h (a, x) (by simp)
    have ht := ih fun e' he => h e' (by simp [he])
    simp only [sinsert]
    split
    · simp only [sread, ht]
      by_cases hj : a = j
      · subst hj; simp [ha]
      · simp [hj]
    · simp only [sread, eq_comm (a := k)]

/-- A read after a write: the value written at its key, what stood there at every other. -/
theorem sread_swrite {w : Nat} (st : Store w) (k : Nat) (v : BitVec w) (j : Nat) :
    sread (swrite st k v) j = if j = k then v else sread st j := by
  unfold swrite
  split
  · next h => rw [sread_sremove, h]
  · rw [sread_sinsert]
    · split
      · rfl
      · next h => rw [sread_sremove, if_neg h]
    · intro e he
      simpa [sremove] using (List.mem_filter.mp he).2

@[simp] theorem sread_swrite_same {w : Nat} (st : Store w) (k : Nat) (v : BitVec w) : sread (swrite st k v) k = v := by
  rw [sread_swrite, if_pos rfl]

theorem sread_swrite_ne {w : Nat} (st : Store w) (k : Nat) (v : BitVec w) (j : Nat) (h : j ≠ k) :
    sread (swrite st k v) j = sread st j := by
  rw [sread_swrite, if_neg h]

/-- Bytes stored from a key upward: each stands at its key, and every other key keeps its value. -/
theorem sread_storeBytes (bs : List Byte) (m : Store 8) (k j : Nat) :
    sread (storeBytes m k bs) j = if k ≤ j ∧ j < k + bs.length then bs.getD (j - k) 0 else sread m j := by
  induction bs generalizing m k with
  | nil =>
    simp only [storeBytes, List.length_nil]
    rw [if_neg (by omega)]
  | cons b t ih =>
    rw [storeBytes, ih, sread_swrite, List.length_cons]
    by_cases hj : j = k
    · subst hj
      rw [if_neg (by omega), if_pos rfl, if_pos (by omega)]
      simp
    · by_cases h1 : k + 1 ≤ j ∧ j < k + 1 + t.length
      · rw [if_pos h1, if_pos (by omega)]
        obtain ⟨n, rfl⟩ : ∃ n, j = k + 1 + n := ⟨j - (k + 1), by omega⟩
        rw [show k + 1 + n - (k + 1) = n by omega, show k + 1 + n - k = n + 1 by omega, List.getD_cons_succ]
      · rw [if_neg h1, if_neg hj, if_neg (by omega)]

theorem sread_sclear {w : Nat} (st : Store w) (lo n j : Nat) :
    sread (sclear st lo n) j = if lo ≤ j ∧ j < lo + n then 0 else sread st j := by
  unfold sclear
  split
  · next h => exact sread_filter_drop _ _ _ fun v => by simp [h]
  · next h => exact sread_filter_keep _ _ _ fun v => by simp; omega

/-! ### The canonical form -/

theorem sabove_iff {w : Nat} (st : Store w) (lo : Nat) (h : st.Pairwise fun a b => a.1 < b.1) :
    sabove lo st = true ↔ ∀ e ∈ st, lo < e.1 := by
  cases st with
  | nil => simp [sabove]
  | cons e t =>
    obtain ⟨a, x⟩ := e
    simp only [sabove, decide_eq_true_eq, List.mem_cons, forall_eq_or_imp, iff_self_and]
    intro ha e' he
    have := (List.pairwise_cons.mp h).1 e' he
    simp only at this
    omega

/-- The canonical form, said of all entries at once. -/
theorem swf_iff {w : Nat} (st : Store w) :
    swf st = true ↔ (∀ e ∈ st, e.2 ≠ 0) ∧ st.Pairwise fun a b => a.1 < b.1 := by
  induction st with
  | nil => simp [swf]
  | cons e t ih =>
    obtain ⟨a, x⟩ := e
    simp only [swf, Bool.and_eq_true, ih, List.pairwise_cons, List.mem_cons, forall_eq_or_imp, decide_eq_true_eq]
    constructor
    · rintro ⟨⟨hx, ha⟩, hz, hp⟩
      exact ⟨⟨hx, hz⟩, (sabove_iff t a hp).mp ha, hp⟩
    · rintro ⟨⟨hx, hz⟩, ha, hp⟩
      exact ⟨⟨hx, (sabove_iff t a hp).mpr ha⟩, hz, hp⟩

theorem swf_filter {w : Nat} (p : Nat × BitVec w → Bool) (st : Store w) (h : swf st = true) : swf (st.filter p) = true := by
  rw [swf_iff] at h ⊢
  exact ⟨fun e he => h.1 e (List.mem_filter.mp he).1, h.2.filter p⟩

theorem swf_sremove {w : Nat} (st : Store w) (k : Nat) (h : swf st = true) : swf (sremove st k) = true := swf_filter _ _ h

theorem mem_sinsert {w : Nat} (st : Store w) (k : Nat) (v : BitVec w) (e : Nat × BitVec w) :
    e ∈ sinsert st k v ↔ e = (k, v) ∨ e ∈ st := by
  induction st with
  | nil => simp [sinsert]
  | cons a t ih =>
    simp only [sinsert]
    split
    · rw [List.mem_cons, ih, List.mem_cons]; exact or_left_comm
    · rw [List.mem_cons]

theorem swf_sinsert {w : Nat} (st : Store w) (k : Nat) (v : BitVec w) (hv : v ≠ 0) (hk : ∀ e ∈ st, e.1 ≠ k) (h : swf st = true) :
    swf (sinsert st k v) = true := by
  rw [swf_iff] at h ⊢
  obtain ⟨hz, hp⟩ := h
  refine ⟨fun e he => ?_, ?_⟩
  · obtain rfl | he := (mem_sinsert st k v e).mp he
    · exact hv
    · exact hz e he
  · clear hz
    induction st with
    | nil => simp [sinsert]
    | cons a t ih =>
      have ht := ih (fun e he => hk e (by simp [he])) (List.pairwise_cons.mp hp).2
      have hat := (List.pairwise_cons.mp hp).1
      have hak := hk a (by simp)
      simp only [sinsert]
      split
      · next hlt =>
        refine List.pairwise_cons.mpr ⟨fun e he => ?_, ht⟩
        obtain rfl | he := (mem_sinsert t k v e).mp he
        · exact hlt
        · exact hat e he
      · next hge =>
        refine List.pairwise_cons.mpr ⟨fun e he => ?_, hp⟩
        obtain rfl | he := List.mem_cons.mp he
        · simp only; omega
        · have := hat e he
          simp only; omega

/-- A write keeps the canonical form. -/
theorem swf_swrite {w : Nat} (st : Store w) (k : Nat) (v : BitVec w) (h : swf st = true) : swf (swrite st k v) = true := by
  unfold swrite
  split
  · exact swf_sremove _ _ h
  · next hv =>
    refine swf_sinsert _ _ _ hv (fun e he => ?_) (swf_sremove _ _ h)
    simpa [sremove] using (List.mem_filter.mp he).2

theorem swf_storeBytes (bs : List Byte) (m : Store 8) (k : Nat) (h : swf m = true) : swf (storeBytes m k bs) = true := by
  induction bs generalizing m k with
  | nil => exact h
  | cons b t ih => exact ih _ _ (swf_swrite _ _ _ h)

theorem swf_sclear {w : Nat} (st : Store w) (lo n : Nat) (h : swf st = true) : swf (sclear st lo n) = true := swf_filter _ _ h

/-- Two canonical stores that read alike are the same data. -/
theorem store_ext {w : Nat} (a b : Store w) (ha : swf a = true) (hb : swf b = true) (h : ∀ k, sread a k = sread b k) : a = b := by
  have key : ∀ (st : Store w) (k : Nat) (x : BitVec w), swf st = true → ((k, x) ∈ st ↔ x ≠ 0 ∧ sread st k = x) := by
    intro st k x hs
    induction st with
    | nil => simp [sread]; exact fun hx he => hx he.symm
    | cons e t ih =>
      obtain ⟨a, y⟩ := e
      rw [swf_iff] at hs
      obtain ⟨hz, hp⟩ := hs
      have hp' := List.pairwise_cons.mp hp
      have iht := ih ((swf_iff t).mpr ⟨fun e he => hz e (by simp [he]), hp'.2⟩)
      simp only [List.mem_cons, Prod.mk.injEq, sread]
      by_cases hak : a = k
      · subst hak
        rw [if_pos rfl]
        constructor
        · rintro (⟨-, rfl⟩ | hm)
          · exact ⟨hz (a, x) (by simp), rfl⟩
          · exact absurd (hp'.1 _ hm) (by simp)
        · rintro ⟨-, rfl⟩
          exact .inl ⟨rfl, rfl⟩
      · rw [if_neg hak, ← iht]
        constructor
        · rintro (⟨rfl, -⟩ | hm)
          · exact absurd rfl hak
          · exact hm
        · exact .inr
  have hmem : ∀ e, e ∈ a ↔ e ∈ b := fun ⟨k, x⟩ => by rw [key a k x ha, key b k x hb, h k]
  have sa := ((swf_iff a).mp ha).2
  have sb := ((swf_iff b).mp hb).2
  have nd : ∀ st : Store w, st.Pairwise (fun a b => a.1 < b.1) → st.Nodup := fun st hs =>
    hs.imp fun {x y} hxy he => by rw [he] at hxy; exact absurd hxy (Nat.lt_irrefl _)
  exact List.Perm.eq_of_pairwise (fun x y _ _ h1 h2 => absurd h1 (by omega)) sa sb
    ((List.perm_ext_iff_of_nodup (nd a sa) (nd b sb)).mpr hmem)

/-! ### Bytes of memory -/

/-- The byte at a key after bytes are written from another upward. -/
theorem State.byteAt_writeMem (s : State) (k : Nat) (bs : List Byte) (j : Nat) :
    (s.writeMem k bs).byteAt j = if k ≤ j ∧ j < k + bs.length then bs.getD (j - k) 0 else s.byteAt j :=
  sread_storeBytes bs s.mem k j

theorem State.byteAt_writeMem_out (s : State) (k : Nat) (bs : List Byte) (j : Nat) (h : j < k ∨ k + bs.length ≤ j) :
    (s.writeMem k bs).byteAt j = s.byteAt j := by
  rw [State.byteAt_writeMem, if_neg (by omega)]

/-- The bytes written read back. -/
theorem State.bytesAt_writeMem (s : State) (k : Nat) (bs : List Byte) : (s.writeMem k bs).bytesAt k bs.length = bs := by
  apply List.ext_getElem
  · simp [State.bytesAt]
  · intro i h1 h2
    simp only [State.bytesAt, List.getElem_map, List.getElem_range]
    rw [State.byteAt_writeMem, if_pos (by omega), show k + i - k = i by omega, List.getD_eq_getElem?_getD,
      List.getElem?_eq_getElem h2]
    rfl

theorem State.bytesAt_writeMem_out (s : State) (k : Nat) (bs : List Byte) (j n : Nat) (h : j + n ≤ k ∨ k + bs.length ≤ j) :
    (s.writeMem k bs).bytesAt j n = s.bytesAt j n := by
  unfold State.bytesAt
  apply List.map_congr_left
  intro i hi
  have := List.mem_range.mp hi
  exact State.byteAt_writeMem_out s k bs (j + i) (by omega)

theorem bytesOf_length (n x : Nat) : (bytesOf n x).length = n := by
  induction n generalizing x with
  | zero => rfl
  | succ k ih => simp [bytesOf, ih]

/-- A number's bytes read back as the number, modulo their width. -/
theorem ofBytes_bytesOf (n x : Nat) : ofBytes (bytesOf n x) = x % 256 ^ n := by
  induction n generalizing x with
  | zero => simp [bytesOf, ofBytes, Nat.mod_one]
  | succ k ih =>
    simp only [bytesOf, ofBytes, ih, BitVec.toNat_ofNat]
    rw [Nat.pow_succ (n := 256) (m := k), Nat.mul_comm (256 ^ k) 256, Nat.mod_mul]

/-- A number written reads back, modulo its width. -/
theorem State.readMem_writeMem (s : State) (k n x : Nat) : (s.writeMem k (bytesOf n x)).readMem k n = x % 256 ^ n := by
  have h := State.bytesAt_writeMem s k (bytesOf n x)
  rw [bytesOf_length] at h
  rw [State.readMem, h, ofBytes_bytesOf]

/-! ### Memory and tags stay canonical -/

theorem State.wf_writeMem (s : State) (k : Nat) (bs : List Byte) (h : Memory.wf s.mem = true) :
    Memory.wf (s.writeMem k bs).mem = true := swf_storeBytes bs s.mem k h

theorem State.wf_writeTag (s : State) (k : Nat) (t : BitVec 4) (h : swf s.tags = true) : swf (s.writeTag k t).tags = true :=
  swf_swrite _ _ _ h

theorem State.wf_reset : Memory.wf State.reset.mem = true ∧ swf State.reset.tags = true := ⟨rfl, rfl⟩

end Sys2Proof.Machine
end

