-- ==== Sys2Proof/Laws/State.lean ====
section
/-! SUPPORT. What each update of the state and of a group leaves as it was: one equation per field, true by computation, so
that no proof unfolds a record update. -/

namespace Sys2Proof.Machine

open Sys2Proof

/-! ### Updates of the state -/

@[simp] theorem State.modGroup_ident (s : State) (gid : Nat) (f : Group → Group) : (s.modGroup gid f).ident = s.ident := rfl
@[simp] theorem State.modGroup_workgroups (s : State) (gid : Nat) (f : Group → Group) : (s.modGroup gid f).workgroups = s.workgroups := rfl
@[simp] theorem State.modGroup_launches (s : State) (gid : Nat) (f : Group → Group) : (s.modGroup gid f).launches = s.launches := rfl
@[simp] theorem State.modGroup_children (s : State) (gid : Nat) (f : Group → Group) : (s.modGroup gid f).children = s.children := rfl
@[simp] theorem State.modGroup_passes (s : State) (gid : Nat) (f : Group → Group) : (s.modGroup gid f).passes = s.passes := rfl
@[simp] theorem State.modGroup_contexts (s : State) (gid : Nat) (f : Group → Group) : (s.modGroup gid f).contexts = s.contexts := rfl
@[simp] theorem State.modGroup_dies (s : State) (gid : Nat) (f : Group → Group) : (s.modGroup gid f).dies = s.dies := rfl
@[simp] theorem State.modGroup_queues (s : State) (gid : Nat) (f : Group → Group) : (s.modGroup gid f).queues = s.queues := rfl
@[simp] theorem State.modGroup_regions (s : State) (gid : Nat) (f : Group → Group) : (s.modGroup gid f).regions = s.regions := rfl
@[simp] theorem State.modGroup_islands (s : State) (gid : Nat) (f : Group → Group) : (s.modGroup gid f).islands = s.islands := rfl
@[simp] theorem State.modGroup_mem (s : State) (gid : Nat) (f : Group → Group) : (s.modGroup gid f).mem = s.mem := rfl
@[simp] theorem State.modGroup_tags (s : State) (gid : Nat) (f : Group → Group) : (s.modGroup gid f).tags = s.tags := rfl
@[simp] theorem State.modGroup_poison (s : State) (gid : Nat) (f : Group → Group) : (s.modGroup gid f).poison = s.poison := rfl
@[simp] theorem State.modGroup_tlb (s : State) (gid : Nat) (f : Group → Group) : (s.modGroup gid f).tlb = s.tlb := rfl
@[simp] theorem State.modGroup_walks (s : State) (gid : Nat) (f : Group → Group) : (s.modGroup gid f).walks = s.walks := rfl
@[simp] theorem State.modGroup_l1 (s : State) (gid : Nat) (f : Group → Group) : (s.modGroup gid f).l1 = s.l1 := rfl
@[simp] theorem State.modGroup_l2 (s : State) (gid : Nat) (f : Group → Group) : (s.modGroup gid f).l2 = s.l2 := rfl
@[simp] theorem State.modGroup_mapping (s : State) (gid : Nat) (f : Group → Group) : (s.modGroup gid f).mapping = s.mapping := rfl
@[simp] theorem State.modGroup_acks (s : State) (gid : Nat) (f : Group → Group) : (s.modGroup gid f).acks = s.acks := rfl
@[simp] theorem State.modGroup_asks (s : State) (gid : Nat) (f : Group → Group) : (s.modGroup gid f).asks = s.asks := rfl
@[simp] theorem State.modGroup_waits (s : State) (gid : Nat) (f : Group → Group) : (s.modGroup gid f).waits = s.waits := rfl
@[simp] theorem State.modGroup_parts (s : State) (gid : Nat) (f : Group → Group) : (s.modGroup gid f).parts = s.parts := rfl
@[simp] theorem State.modGroup_sorts (s : State) (gid : Nat) (f : Group → Group) : (s.modGroup gid f).sorts = s.sorts := rfl
@[simp] theorem State.modGroup_replicas (s : State) (gid : Nat) (f : Group → Group) : (s.modGroup gid f).replicas = s.replicas := rfl
@[simp] theorem State.modGroup_migrations (s : State) (gid : Nat) (f : Group → Group) : (s.modGroup gid f).migrations = s.migrations := rfl
@[simp] theorem State.modGroup_held (s : State) (gid : Nat) (f : Group → Group) : (s.modGroup gid f).held = s.held := rfl
@[simp] theorem State.modGroup_packets (s : State) (gid : Nat) (f : Group → Group) : (s.modGroup gid f).packets = s.packets := rfl
@[simp] theorem State.modGroup_traces (s : State) (gid : Nat) (f : Group → Group) : (s.modGroup gid f).traces = s.traces := rfl
@[simp] theorem State.modGroup_fabricOut (s : State) (gid : Nat) (f : Group → Group) : (s.modGroup gid f).fabricOut = s.fabricOut := rfl
@[simp] theorem State.modGroup_controlWrites (s : State) (gid : Nat) (f : Group → Group) : (s.modGroup gid f).controlWrites = s.controlWrites := rfl
@[simp] theorem State.modGroup_links (s : State) (gid : Nat) (f : Group → Group) : (s.modGroup gid f).links = s.links := rfl
@[simp] theorem State.modGroup_lency (s : State) (gid : Nat) (f : Group → Group) : (s.modGroup gid f).lency = s.lency := rfl
@[simp] theorem State.modGroup_fatals (s : State) (gid : Nat) (f : Group → Group) : (s.modGroup gid f).fatals = s.fatals := rfl
@[simp] theorem State.modGroup_frozen (s : State) (gid : Nat) (f : Group → Group) : (s.modGroup gid f).frozen = s.frozen := rfl
@[simp] theorem State.modGroup_agenda (s : State) (gid : Nat) (f : Group → Group) : (s.modGroup gid f).agenda = s.agenda := rfl
@[simp] theorem State.modGroup_tick (s : State) (gid : Nat) (f : Group → Group) : (s.modGroup gid f).tick = s.tick := rfl
@[simp] theorem State.modGroup_cycle (s : State) (gid : Nat) (f : Group → Group) : (s.modGroup gid f).cycle = s.cycle := rfl
@[simp] theorem State.modGroup_ns (s : State) (gid : Nat) (f : Group → Group) : (s.modGroup gid f).ns = s.ns := rfl
@[simp] theorem State.modGroup_chosen (s : State) (gid : Nat) (f : Group → Group) : (s.modGroup gid f).chosen = s.chosen := rfl
@[simp] theorem State.modGroup_cur (s : State) (gid : Nat) (f : Group → Group) : (s.modGroup gid f).cur = s.cur := rfl
@[simp] theorem State.modGroup_granted (s : State) (gid : Nat) (f : Group → Group) : (s.modGroup gid f).granted = s.granted := rfl
@[simp] theorem State.modGroup_halted (s : State) (gid : Nat) (f : Group → Group) : (s.modGroup gid f).halted = s.halted := rfl
@[simp] theorem State.modGroup_loose (s : State) (gid : Nat) (f : Group → Group) : (s.modGroup gid f).loose = s.loose := rfl
@[simp] theorem State.modGroup_fair (s : State) (gid : Nat) (f : Group → Group) : (s.modGroup gid f).fair = s.fair := rfl
@[simp] theorem State.modGroup_firmware (s : State) (gid : Nat) (f : Group → Group) : (s.modGroup gid f).firmware = s.firmware := rfl
@[simp] theorem State.modGroup_measured (s : State) (gid : Nat) (f : Group → Group) : (s.modGroup gid f).measured = s.measured := rfl

@[simp] theorem State.modSplit_ident (s : State) (gid pid : Nat) (f : Split → Split) : (s.modSplit gid pid f).ident = s.ident := rfl
@[simp] theorem State.modSplit_workgroups (s : State) (gid pid : Nat) (f : Split → Split) : (s.modSplit gid pid f).workgroups = s.workgroups := rfl
@[simp] theorem State.modSplit_launches (s : State) (gid pid : Nat) (f : Split → Split) : (s.modSplit gid pid f).launches = s.launches := rfl
@[simp] theorem State.modSplit_children (s : State) (gid pid : Nat) (f : Split → Split) : (s.modSplit gid pid f).children = s.children := rfl
@[simp] theorem State.modSplit_passes (s : State) (gid pid : Nat) (f : Split → Split) : (s.modSplit gid pid f).passes = s.passes := rfl
@[simp] theorem State.modSplit_contexts (s : State) (gid pid : Nat) (f : Split → Split) : (s.modSplit gid pid f).contexts = s.contexts := rfl
@[simp] theorem State.modSplit_dies (s : State) (gid pid : Nat) (f : Split → Split) : (s.modSplit gid pid f).dies = s.dies := rfl
@[simp] theorem State.modSplit_queues (s : State) (gid pid : Nat) (f : Split → Split) : (s.modSplit gid pid f).queues = s.queues := rfl
@[simp] theorem State.modSplit_regions (s : State) (gid pid : Nat) (f : Split → Split) : (s.modSplit gid pid f).regions = s.regions := rfl
@[simp] theorem State.modSplit_islands (s : State) (gid pid : Nat) (f : Split → Split) : (s.modSplit gid pid f).islands = s.islands := rfl
@[simp] theorem State.modSplit_mem (s : State) (gid pid : Nat) (f : Split → Split) : (s.modSplit gid pid f).mem = s.mem := rfl
@[simp] theorem State.modSplit_tags (s : State) (gid pid : Nat) (f : Split → Split) : (s.modSplit gid pid f).tags = s.tags := rfl
@[simp] theorem State.modSplit_poison (s : State) (gid pid : Nat) (f : Split → Split) : (s.modSplit gid pid f).poison = s.poison := rfl
@[simp] theorem State.modSplit_tlb (s : State) (gid pid : Nat) (f : Split → Split) : (s.modSplit gid pid f).tlb = s.tlb := rfl
@[simp] theorem State.modSplit_walks (s : State) (gid pid : Nat) (f : Split → Split) : (s.modSplit gid pid f).walks = s.walks := rfl
@[simp] theorem State.modSplit_l1 (s : State) (gid pid : Nat) (f : Split → Split) : (s.modSplit gid pid f).l1 = s.l1 := rfl
@[simp] theorem State.modSplit_l2 (s : State) (gid pid : Nat) (f : Split → Split) : (s.modSplit gid pid f).l2 = s.l2 := rfl
@[simp] theorem State.modSplit_mapping (s : State) (gid pid : Nat) (f : Split → Split) : (s.modSplit gid pid f).mapping = s.mapping := rfl
@[simp] theorem State.modSplit_acks (s : State) (gid pid : Nat) (f : Split → Split) : (s.modSplit gid pid f).acks = s.acks := rfl
@[simp] theorem State.modSplit_asks (s : State) (gid pid : Nat) (f : Split → Split) : (s.modSplit gid pid f).asks = s.asks := rfl
@[simp] theorem State.modSplit_waits (s : State) (gid pid : Nat) (f : Split → Split) : (s.modSplit gid pid f).waits = s.waits := rfl
@[simp] theorem State.modSplit_parts (s : State) (gid pid : Nat) (f : Split → Split) : (s.modSplit gid pid f).parts = s.parts := rfl
@[simp] theorem State.modSplit_sorts (s : State) (gid pid : Nat) (f : Split → Split) : (s.modSplit gid pid f).sorts = s.sorts := rfl
@[simp] theorem State.modSplit_replicas (s : State) (gid pid : Nat) (f : Split → Split) : (s.modSplit gid pid f).replicas = s.replicas := rfl
@[simp] theorem State.modSplit_migrations (s : State) (gid pid : Nat) (f : Split → Split) : (s.modSplit gid pid f).migrations = s.migrations := rfl
@[simp] theorem State.modSplit_held (s : State) (gid pid : Nat) (f : Split → Split) : (s.modSplit gid pid f).held = s.held := rfl
@[simp] theorem State.modSplit_packets (s : State) (gid pid : Nat) (f : Split → Split) : (s.modSplit gid pid f).packets = s.packets := rfl
@[simp] theorem State.modSplit_traces (s : State) (gid pid : Nat) (f : Split → Split) : (s.modSplit gid pid f).traces = s.traces := rfl
@[simp] theorem State.modSplit_fabricOut (s : State) (gid pid : Nat) (f : Split → Split) : (s.modSplit gid pid f).fabricOut = s.fabricOut := rfl
@[simp] theorem State.modSplit_controlWrites (s : State) (gid pid : Nat) (f : Split → Split) : (s.modSplit gid pid f).controlWrites = s.controlWrites := rfl
@[simp] theorem State.modSplit_links (s : State) (gid pid : Nat) (f : Split → Split) : (s.modSplit gid pid f).links = s.links := rfl
@[simp] theorem State.modSplit_lency (s : State) (gid pid : Nat) (f : Split → Split) : (s.modSplit gid pid f).lency = s.lency := rfl
@[simp] theorem State.modSplit_fatals (s : State) (gid pid : Nat) (f : Split → Split) : (s.modSplit gid pid f).fatals = s.fatals := rfl
@[simp] theorem State.modSplit_frozen (s : State) (gid pid : Nat) (f : Split → Split) : (s.modSplit gid pid f).frozen = s.frozen := rfl
@[simp] theorem State.modSplit_agenda (s : State) (gid pid : Nat) (f : Split → Split) : (s.modSplit gid pid f).agenda = s.agenda := rfl
@[simp] theorem State.modSplit_tick (s : State) (gid pid : Nat) (f : Split → Split) : (s.modSplit gid pid f).tick = s.tick := rfl
@[simp] theorem State.modSplit_cycle (s : State) (gid pid : Nat) (f : Split → Split) : (s.modSplit gid pid f).cycle = s.cycle := rfl
@[simp] theorem State.modSplit_ns (s : State) (gid pid : Nat) (f : Split → Split) : (s.modSplit gid pid f).ns = s.ns := rfl
@[simp] theorem State.modSplit_chosen (s : State) (gid pid : Nat) (f : Split → Split) : (s.modSplit gid pid f).chosen = s.chosen := rfl
@[simp] theorem State.modSplit_cur (s : State) (gid pid : Nat) (f : Split → Split) : (s.modSplit gid pid f).cur = s.cur := rfl
@[simp] theorem State.modSplit_granted (s : State) (gid pid : Nat) (f : Split → Split) : (s.modSplit gid pid f).granted = s.granted := rfl
@[simp] theorem State.modSplit_halted (s : State) (gid pid : Nat) (f : Split → Split) : (s.modSplit gid pid f).halted = s.halted := rfl
@[simp] theorem State.modSplit_loose (s : State) (gid pid : Nat) (f : Split → Split) : (s.modSplit gid pid f).loose = s.loose := rfl
@[simp] theorem State.modSplit_fair (s : State) (gid pid : Nat) (f : Split → Split) : (s.modSplit gid pid f).fair = s.fair := rfl
@[simp] theorem State.modSplit_firmware (s : State) (gid pid : Nat) (f : Split → Split) : (s.modSplit gid pid f).firmware = s.firmware := rfl
@[simp] theorem State.modSplit_measured (s : State) (gid pid : Nat) (f : Split → Split) : (s.modSplit gid pid f).measured = s.measured := rfl

@[simp] theorem State.modWorkgroup_ident (s : State) (wid : Nat) (f : Workgroup → Workgroup) : (s.modWorkgroup wid f).ident = s.ident := rfl
@[simp] theorem State.modWorkgroup_groups (s : State) (wid : Nat) (f : Workgroup → Workgroup) : (s.modWorkgroup wid f).groups = s.groups := rfl
@[simp] theorem State.modWorkgroup_launches (s : State) (wid : Nat) (f : Workgroup → Workgroup) : (s.modWorkgroup wid f).launches = s.launches := rfl
@[simp] theorem State.modWorkgroup_children (s : State) (wid : Nat) (f : Workgroup → Workgroup) : (s.modWorkgroup wid f).children = s.children := rfl
@[simp] theorem State.modWorkgroup_passes (s : State) (wid : Nat) (f : Workgroup → Workgroup) : (s.modWorkgroup wid f).passes = s.passes := rfl
@[simp] theorem State.modWorkgroup_contexts (s : State) (wid : Nat) (f : Workgroup → Workgroup) : (s.modWorkgroup wid f).contexts = s.contexts := rfl
@[simp] theorem State.modWorkgroup_dies (s : State) (wid : Nat) (f : Workgroup → Workgroup) : (s.modWorkgroup wid f).dies = s.dies := rfl
@[simp] theorem State.modWorkgroup_queues (s : State) (wid : Nat) (f : Workgroup → Workgroup) : (s.modWorkgroup wid f).queues = s.queues := rfl
@[simp] theorem State.modWorkgroup_regions (s : State) (wid : Nat) (f : Workgroup → Workgroup) : (s.modWorkgroup wid f).regions = s.regions := rfl
@[simp] theorem State.modWorkgroup_islands (s : State) (wid : Nat) (f : Workgroup → Workgroup) : (s.modWorkgroup wid f).islands = s.islands := rfl
@[simp] theorem State.modWorkgroup_mem (s : State) (wid : Nat) (f : Workgroup → Workgroup) : (s.modWorkgroup wid f).mem = s.mem := rfl
@[simp] theorem State.modWorkgroup_tags (s : State) (wid : Nat) (f : Workgroup → Workgroup) : (s.modWorkgroup wid f).tags = s.tags := rfl
@[simp] theorem State.modWorkgroup_poison (s : State) (wid : Nat) (f : Workgroup → Workgroup) : (s.modWorkgroup wid f).poison = s.poison := rfl
@[simp] theorem State.modWorkgroup_tlb (s : State) (wid : Nat) (f : Workgroup → Workgroup) : (s.modWorkgroup wid f).tlb = s.tlb := rfl
@[simp] theorem State.modWorkgroup_walks (s : State) (wid : Nat) (f : Workgroup → Workgroup) : (s.modWorkgroup wid f).walks = s.walks := rfl
@[simp] theorem State.modWorkgroup_l1 (s : State) (wid : Nat) (f : Workgroup → Workgroup) : (s.modWorkgroup wid f).l1 = s.l1 := rfl
@[simp] theorem State.modWorkgroup_l2 (s : State) (wid : Nat) (f : Workgroup → Workgroup) : (s.modWorkgroup wid f).l2 = s.l2 := rfl
@[simp] theorem State.modWorkgroup_mapping (s : State) (wid : Nat) (f : Workgroup → Workgroup) : (s.modWorkgroup wid f).mapping = s.mapping := rfl
@[simp] theorem State.modWorkgroup_acks (s : State) (wid : Nat) (f : Workgroup → Workgroup) : (s.modWorkgroup wid f).acks = s.acks := rfl
@[simp] theorem State.modWorkgroup_asks (s : State) (wid : Nat) (f : Workgroup → Workgroup) : (s.modWorkgroup wid f).asks = s.asks := rfl
@[simp] theorem State.modWorkgroup_waits (s : State) (wid : Nat) (f : Workgroup → Workgroup) : (s.modWorkgroup wid f).waits = s.waits := rfl
@[simp] theorem State.modWorkgroup_parts (s : State) (wid : Nat) (f : Workgroup → Workgroup) : (s.modWorkgroup wid f).parts = s.parts := rfl
@[simp] theorem State.modWorkgroup_sorts (s : State) (wid : Nat) (f : Workgroup → Workgroup) : (s.modWorkgroup wid f).sorts = s.sorts := rfl
@[simp] theorem State.modWorkgroup_replicas (s : State) (wid : Nat) (f : Workgroup → Workgroup) : (s.modWorkgroup wid f).replicas = s.replicas := rfl
@[simp] theorem State.modWorkgroup_migrations (s : State) (wid : Nat) (f : Workgroup → Workgroup) : (s.modWorkgroup wid f).migrations = s.migrations := rfl
@[simp] theorem State.modWorkgroup_held (s : State) (wid : Nat) (f : Workgroup → Workgroup) : (s.modWorkgroup wid f).held = s.held := rfl
@[simp] theorem State.modWorkgroup_packets (s : State) (wid : Nat) (f : Workgroup → Workgroup) : (s.modWorkgroup wid f).packets = s.packets := rfl
@[simp] theorem State.modWorkgroup_traces (s : State) (wid : Nat) (f : Workgroup → Workgroup) : (s.modWorkgroup wid f).traces = s.traces := rfl
@[simp] theorem State.modWorkgroup_fabricOut (s : State) (wid : Nat) (f : Workgroup → Workgroup) : (s.modWorkgroup wid f).fabricOut = s.fabricOut := rfl
@[simp] theorem State.modWorkgroup_controlWrites (s : State) (wid : Nat) (f : Workgroup → Workgroup) : (s.modWorkgroup wid f).controlWrites = s.controlWrites := rfl
@[simp] theorem State.modWorkgroup_links (s : State) (wid : Nat) (f : Workgroup → Workgroup) : (s.modWorkgroup wid f).links = s.links := rfl
@[simp] theorem State.modWorkgroup_lency (s : State) (wid : Nat) (f : Workgroup → Workgroup) : (s.modWorkgroup wid f).lency = s.lency := rfl
@[simp] theorem State.modWorkgroup_fatals (s : State) (wid : Nat) (f : Workgroup → Workgroup) : (s.modWorkgroup wid f).fatals = s.fatals := rfl
@[simp] theorem State.modWorkgroup_frozen (s : State) (wid : Nat) (f : Workgroup → Workgroup) : (s.modWorkgroup wid f).frozen = s.frozen := rfl
@[simp] theorem State.modWorkgroup_agenda (s : State) (wid : Nat) (f : Workgroup → Workgroup) : (s.modWorkgroup wid f).agenda = s.agenda := rfl
@[simp] theorem State.modWorkgroup_tick (s : State) (wid : Nat) (f : Workgroup → Workgroup) : (s.modWorkgroup wid f).tick = s.tick := rfl
@[simp] theorem State.modWorkgroup_cycle (s : State) (wid : Nat) (f : Workgroup → Workgroup) : (s.modWorkgroup wid f).cycle = s.cycle := rfl
@[simp] theorem State.modWorkgroup_ns (s : State) (wid : Nat) (f : Workgroup → Workgroup) : (s.modWorkgroup wid f).ns = s.ns := rfl
@[simp] theorem State.modWorkgroup_chosen (s : State) (wid : Nat) (f : Workgroup → Workgroup) : (s.modWorkgroup wid f).chosen = s.chosen := rfl
@[simp] theorem State.modWorkgroup_cur (s : State) (wid : Nat) (f : Workgroup → Workgroup) : (s.modWorkgroup wid f).cur = s.cur := rfl
@[simp] theorem State.modWorkgroup_granted (s : State) (wid : Nat) (f : Workgroup → Workgroup) : (s.modWorkgroup wid f).granted = s.granted := rfl
@[simp] theorem State.modWorkgroup_halted (s : State) (wid : Nat) (f : Workgroup → Workgroup) : (s.modWorkgroup wid f).halted = s.halted := rfl
@[simp] theorem State.modWorkgroup_loose (s : State) (wid : Nat) (f : Workgroup → Workgroup) : (s.modWorkgroup wid f).loose = s.loose := rfl
@[simp] theorem State.modWorkgroup_fair (s : State) (wid : Nat) (f : Workgroup → Workgroup) : (s.modWorkgroup wid f).fair = s.fair := rfl
@[simp] theorem State.modWorkgroup_firmware (s : State) (wid : Nat) (f : Workgroup → Workgroup) : (s.modWorkgroup wid f).firmware = s.firmware := rfl
@[simp] theorem State.modWorkgroup_measured (s : State) (wid : Nat) (f : Workgroup → Workgroup) : (s.modWorkgroup wid f).measured = s.measured := rfl

@[simp] theorem State.modLaunch_ident (s : State) (lid : Nat) (f : Launch → Launch) : (s.modLaunch lid f).ident = s.ident := rfl
@[simp] theorem State.modLaunch_groups (s : State) (lid : Nat) (f : Launch → Launch) : (s.modLaunch lid f).groups = s.groups := rfl
@[simp] theorem State.modLaunch_workgroups (s : State) (lid : Nat) (f : Launch → Launch) : (s.modLaunch lid f).workgroups = s.workgroups := rfl
@[simp] theorem State.modLaunch_children (s : State) (lid : Nat) (f : Launch → Launch) : (s.modLaunch lid f).children = s.children := rfl
@[simp] theorem State.modLaunch_passes (s : State) (lid : Nat) (f : Launch → Launch) : (s.modLaunch lid f).passes = s.passes := rfl
@[simp] theorem State.modLaunch_contexts (s : State) (lid : Nat) (f : Launch → Launch) : (s.modLaunch lid f).contexts = s.contexts := rfl
@[simp] theorem State.modLaunch_dies (s : State) (lid : Nat) (f : Launch → Launch) : (s.modLaunch lid f).dies = s.dies := rfl
@[simp] theorem State.modLaunch_queues (s : State) (lid : Nat) (f : Launch → Launch) : (s.modLaunch lid f).queues = s.queues := rfl
@[simp] theorem State.modLaunch_regions (s : State) (lid : Nat) (f : Launch → Launch) : (s.modLaunch lid f).regions = s.regions := rfl
@[simp] theorem State.modLaunch_islands (s : State) (lid : Nat) (f : Launch → Launch) : (s.modLaunch lid f).islands = s.islands := rfl
@[simp] theorem State.modLaunch_mem (s : State) (lid : Nat) (f : Launch → Launch) : (s.modLaunch lid f).mem = s.mem := rfl
@[simp] theorem State.modLaunch_tags (s : State) (lid : Nat) (f : Launch → Launch) : (s.modLaunch lid f).tags = s.tags := rfl
@[simp] theorem State.modLaunch_poison (s : State) (lid : Nat) (f : Launch → Launch) : (s.modLaunch lid f).poison = s.poison := rfl
@[simp] theorem State.modLaunch_tlb (s : State) (lid : Nat) (f : Launch → Launch) : (s.modLaunch lid f).tlb = s.tlb := rfl
@[simp] theorem State.modLaunch_walks (s : State) (lid : Nat) (f : Launch → Launch) : (s.modLaunch lid f).walks = s.walks := rfl
@[simp] theorem State.modLaunch_l1 (s : State) (lid : Nat) (f : Launch → Launch) : (s.modLaunch lid f).l1 = s.l1 := rfl
@[simp] theorem State.modLaunch_l2 (s : State) (lid : Nat) (f : Launch → Launch) : (s.modLaunch lid f).l2 = s.l2 := rfl
@[simp] theorem State.modLaunch_mapping (s : State) (lid : Nat) (f : Launch → Launch) : (s.modLaunch lid f).mapping = s.mapping := rfl
@[simp] theorem State.modLaunch_acks (s : State) (lid : Nat) (f : Launch → Launch) : (s.modLaunch lid f).acks = s.acks := rfl
@[simp] theorem State.modLaunch_asks (s : State) (lid : Nat) (f : Launch → Launch) : (s.modLaunch lid f).asks = s.asks := rfl
@[simp] theorem State.modLaunch_waits (s : State) (lid : Nat) (f : Launch → Launch) : (s.modLaunch lid f).waits = s.waits := rfl
@[simp] theorem State.modLaunch_parts (s : State) (lid : Nat) (f : Launch → Launch) : (s.modLaunch lid f).parts = s.parts := rfl
@[simp] theorem State.modLaunch_sorts (s : State) (lid : Nat) (f : Launch → Launch) : (s.modLaunch lid f).sorts = s.sorts := rfl
@[simp] theorem State.modLaunch_replicas (s : State) (lid : Nat) (f : Launch → Launch) : (s.modLaunch lid f).replicas = s.replicas := rfl
@[simp] theorem State.modLaunch_migrations (s : State) (lid : Nat) (f : Launch → Launch) : (s.modLaunch lid f).migrations = s.migrations := rfl
@[simp] theorem State.modLaunch_held (s : State) (lid : Nat) (f : Launch → Launch) : (s.modLaunch lid f).held = s.held := rfl
@[simp] theorem State.modLaunch_packets (s : State) (lid : Nat) (f : Launch → Launch) : (s.modLaunch lid f).packets = s.packets := rfl
@[simp] theorem State.modLaunch_traces (s : State) (lid : Nat) (f : Launch → Launch) : (s.modLaunch lid f).traces = s.traces := rfl
@[simp] theorem State.modLaunch_fabricOut (s : State) (lid : Nat) (f : Launch → Launch) : (s.modLaunch lid f).fabricOut = s.fabricOut := rfl
@[simp] theorem State.modLaunch_controlWrites (s : State) (lid : Nat) (f : Launch → Launch) : (s.modLaunch lid f).controlWrites = s.controlWrites := rfl
@[simp] theorem State.modLaunch_links (s : State) (lid : Nat) (f : Launch → Launch) : (s.modLaunch lid f).links = s.links := rfl
@[simp] theorem State.modLaunch_lency (s : State) (lid : Nat) (f : Launch → Launch) : (s.modLaunch lid f).lency = s.lency := rfl
@[simp] theorem State.modLaunch_fatals (s : State) (lid : Nat) (f : Launch → Launch) : (s.modLaunch lid f).fatals = s.fatals := rfl
@[simp] theorem State.modLaunch_frozen (s : State) (lid : Nat) (f : Launch → Launch) : (s.modLaunch lid f).frozen = s.frozen := rfl
@[simp] theorem State.modLaunch_agenda (s : State) (lid : Nat) (f : Launch → Launch) : (s.modLaunch lid f).agenda = s.agenda := rfl
@[simp] theorem State.modLaunch_tick (s : State) (lid : Nat) (f : Launch → Launch) : (s.modLaunch lid f).tick = s.tick := rfl
@[simp] theorem State.modLaunch_cycle (s : State) (lid : Nat) (f : Launch → Launch) : (s.modLaunch lid f).cycle = s.cycle := rfl
@[simp] theorem State.modLaunch_ns (s : State) (lid : Nat) (f : Launch → Launch) : (s.modLaunch lid f).ns = s.ns := rfl
@[simp] theorem State.modLaunch_chosen (s : State) (lid : Nat) (f : Launch → Launch) : (s.modLaunch lid f).chosen = s.chosen := rfl
@[simp] theorem State.modLaunch_cur (s : State) (lid : Nat) (f : Launch → Launch) : (s.modLaunch lid f).cur = s.cur := rfl
@[simp] theorem State.modLaunch_granted (s : State) (lid : Nat) (f : Launch → Launch) : (s.modLaunch lid f).granted = s.granted := rfl
@[simp] theorem State.modLaunch_halted (s : State) (lid : Nat) (f : Launch → Launch) : (s.modLaunch lid f).halted = s.halted := rfl
@[simp] theorem State.modLaunch_loose (s : State) (lid : Nat) (f : Launch → Launch) : (s.modLaunch lid f).loose = s.loose := rfl
@[simp] theorem State.modLaunch_fair (s : State) (lid : Nat) (f : Launch → Launch) : (s.modLaunch lid f).fair = s.fair := rfl
@[simp] theorem State.modLaunch_firmware (s : State) (lid : Nat) (f : Launch → Launch) : (s.modLaunch lid f).firmware = s.firmware := rfl
@[simp] theorem State.modLaunch_measured (s : State) (lid : Nat) (f : Launch → Launch) : (s.modLaunch lid f).measured = s.measured := rfl

@[simp] theorem State.modPass_ident (s : State) (pid : Nat) (f : Pass → Pass) : (s.modPass pid f).ident = s.ident := rfl
@[simp] theorem State.modPass_groups (s : State) (pid : Nat) (f : Pass → Pass) : (s.modPass pid f).groups = s.groups := rfl
@[simp] theorem State.modPass_workgroups (s : State) (pid : Nat) (f : Pass → Pass) : (s.modPass pid f).workgroups = s.workgroups := rfl
@[simp] theorem State.modPass_launches (s : State) (pid : Nat) (f : Pass → Pass) : (s.modPass pid f).launches = s.launches := rfl
@[simp] theorem State.modPass_children (s : State) (pid : Nat) (f : Pass → Pass) : (s.modPass pid f).children = s.children := rfl
@[simp] theorem State.modPass_contexts (s : State) (pid : Nat) (f : Pass → Pass) : (s.modPass pid f).contexts = s.contexts := rfl
@[simp] theorem State.modPass_dies (s : State) (pid : Nat) (f : Pass → Pass) : (s.modPass pid f).dies = s.dies := rfl
@[simp] theorem State.modPass_queues (s : State) (pid : Nat) (f : Pass → Pass) : (s.modPass pid f).queues = s.queues := rfl
@[simp] theorem State.modPass_regions (s : State) (pid : Nat) (f : Pass → Pass) : (s.modPass pid f).regions = s.regions := rfl
@[simp] theorem State.modPass_islands (s : State) (pid : Nat) (f : Pass → Pass) : (s.modPass pid f).islands = s.islands := rfl
@[simp] theorem State.modPass_mem (s : State) (pid : Nat) (f : Pass → Pass) : (s.modPass pid f).mem = s.mem := rfl
@[simp] theorem State.modPass_tags (s : State) (pid : Nat) (f : Pass → Pass) : (s.modPass pid f).tags = s.tags := rfl
@[simp] theorem State.modPass_poison (s : State) (pid : Nat) (f : Pass → Pass) : (s.modPass pid f).poison = s.poison := rfl
@[simp] theorem State.modPass_tlb (s : State) (pid : Nat) (f : Pass → Pass) : (s.modPass pid f).tlb = s.tlb := rfl
@[simp] theorem State.modPass_walks (s : State) (pid : Nat) (f : Pass → Pass) : (s.modPass pid f).walks = s.walks := rfl
@[simp] theorem State.modPass_l1 (s : State) (pid : Nat) (f : Pass → Pass) : (s.modPass pid f).l1 = s.l1 := rfl
@[simp] theorem State.modPass_l2 (s : State) (pid : Nat) (f : Pass → Pass) : (s.modPass pid f).l2 = s.l2 := rfl
@[simp] theorem State.modPass_mapping (s : State) (pid : Nat) (f : Pass → Pass) : (s.modPass pid f).mapping = s.mapping := rfl
@[simp] theorem State.modPass_acks (s : State) (pid : Nat) (f : Pass → Pass) : (s.modPass pid f).acks = s.acks := rfl
@[simp] theorem State.modPass_asks (s : State) (pid : Nat) (f : Pass → Pass) : (s.modPass pid f).asks = s.asks := rfl
@[simp] theorem State.modPass_waits (s : State) (pid : Nat) (f : Pass → Pass) : (s.modPass pid f).waits = s.waits := rfl
@[simp] theorem State.modPass_parts (s : State) (pid : Nat) (f : Pass → Pass) : (s.modPass pid f).parts = s.parts := rfl
@[simp] theorem State.modPass_sorts (s : State) (pid : Nat) (f : Pass → Pass) : (s.modPass pid f).sorts = s.sorts := rfl
@[simp] theorem State.modPass_replicas (s : State) (pid : Nat) (f : Pass → Pass) : (s.modPass pid f).replicas = s.replicas := rfl
@[simp] theorem State.modPass_migrations (s : State) (pid : Nat) (f : Pass → Pass) : (s.modPass pid f).migrations = s.migrations := rfl
@[simp] theorem State.modPass_held (s : State) (pid : Nat) (f : Pass → Pass) : (s.modPass pid f).held = s.held := rfl
@[simp] theorem State.modPass_packets (s : State) (pid : Nat) (f : Pass → Pass) : (s.modPass pid f).packets = s.packets := rfl
@[simp] theorem State.modPass_traces (s : State) (pid : Nat) (f : Pass → Pass) : (s.modPass pid f).traces = s.traces := rfl
@[simp] theorem State.modPass_fabricOut (s : State) (pid : Nat) (f : Pass → Pass) : (s.modPass pid f).fabricOut = s.fabricOut := rfl
@[simp] theorem State.modPass_controlWrites (s : State) (pid : Nat) (f : Pass → Pass) : (s.modPass pid f).controlWrites = s.controlWrites := rfl
@[simp] theorem State.modPass_links (s : State) (pid : Nat) (f : Pass → Pass) : (s.modPass pid f).links = s.links := rfl
@[simp] theorem State.modPass_lency (s : State) (pid : Nat) (f : Pass → Pass) : (s.modPass pid f).lency = s.lency := rfl
@[simp] theorem State.modPass_fatals (s : State) (pid : Nat) (f : Pass → Pass) : (s.modPass pid f).fatals = s.fatals := rfl
@[simp] theorem State.modPass_frozen (s : State) (pid : Nat) (f : Pass → Pass) : (s.modPass pid f).frozen = s.frozen := rfl
@[simp] theorem State.modPass_agenda (s : State) (pid : Nat) (f : Pass → Pass) : (s.modPass pid f).agenda = s.agenda := rfl
@[simp] theorem State.modPass_tick (s : State) (pid : Nat) (f : Pass → Pass) : (s.modPass pid f).tick = s.tick := rfl
@[simp] theorem State.modPass_cycle (s : State) (pid : Nat) (f : Pass → Pass) : (s.modPass pid f).cycle = s.cycle := rfl
@[simp] theorem State.modPass_ns (s : State) (pid : Nat) (f : Pass → Pass) : (s.modPass pid f).ns = s.ns := rfl
@[simp] theorem State.modPass_chosen (s : State) (pid : Nat) (f : Pass → Pass) : (s.modPass pid f).chosen = s.chosen := rfl
@[simp] theorem State.modPass_cur (s : State) (pid : Nat) (f : Pass → Pass) : (s.modPass pid f).cur = s.cur := rfl
@[simp] theorem State.modPass_granted (s : State) (pid : Nat) (f : Pass → Pass) : (s.modPass pid f).granted = s.granted := rfl
@[simp] theorem State.modPass_halted (s : State) (pid : Nat) (f : Pass → Pass) : (s.modPass pid f).halted = s.halted := rfl
@[simp] theorem State.modPass_loose (s : State) (pid : Nat) (f : Pass → Pass) : (s.modPass pid f).loose = s.loose := rfl
@[simp] theorem State.modPass_fair (s : State) (pid : Nat) (f : Pass → Pass) : (s.modPass pid f).fair = s.fair := rfl
@[simp] theorem State.modPass_firmware (s : State) (pid : Nat) (f : Pass → Pass) : (s.modPass pid f).firmware = s.firmware := rfl
@[simp] theorem State.modPass_measured (s : State) (pid : Nat) (f : Pass → Pass) : (s.modPass pid f).measured = s.measured := rfl

@[simp] theorem State.modContext_ident (s : State) (c : Nat) (f : Context → Context) : (s.modContext c f).ident = s.ident := rfl
@[simp] theorem State.modContext_groups (s : State) (c : Nat) (f : Context → Context) : (s.modContext c f).groups = s.groups := rfl
@[simp] theorem State.modContext_workgroups (s : State) (c : Nat) (f : Context → Context) : (s.modContext c f).workgroups = s.workgroups := rfl
@[simp] theorem State.modContext_launches (s : State) (c : Nat) (f : Context → Context) : (s.modContext c f).launches = s.launches := rfl
@[simp] theorem State.modContext_children (s : State) (c : Nat) (f : Context → Context) : (s.modContext c f).children = s.children := rfl
@[simp] theorem State.modContext_passes (s : State) (c : Nat) (f : Context → Context) : (s.modContext c f).passes = s.passes := rfl
@[simp] theorem State.modContext_dies (s : State) (c : Nat) (f : Context → Context) : (s.modContext c f).dies = s.dies := rfl
@[simp] theorem State.modContext_queues (s : State) (c : Nat) (f : Context → Context) : (s.modContext c f).queues = s.queues := rfl
@[simp] theorem State.modContext_regions (s : State) (c : Nat) (f : Context → Context) : (s.modContext c f).regions = s.regions := rfl
@[simp] theorem State.modContext_islands (s : State) (c : Nat) (f : Context → Context) : (s.modContext c f).islands = s.islands := rfl
@[simp] theorem State.modContext_mem (s : State) (c : Nat) (f : Context → Context) : (s.modContext c f).mem = s.mem := rfl
@[simp] theorem State.modContext_tags (s : State) (c : Nat) (f : Context → Context) : (s.modContext c f).tags = s.tags := rfl
@[simp] theorem State.modContext_poison (s : State) (c : Nat) (f : Context → Context) : (s.modContext c f).poison = s.poison := rfl
@[simp] theorem State.modContext_tlb (s : State) (c : Nat) (f : Context → Context) : (s.modContext c f).tlb = s.tlb := rfl
@[simp] theorem State.modContext_walks (s : State) (c : Nat) (f : Context → Context) : (s.modContext c f).walks = s.walks := rfl
@[simp] theorem State.modContext_l1 (s : State) (c : Nat) (f : Context → Context) : (s.modContext c f).l1 = s.l1 := rfl
@[simp] theorem State.modContext_l2 (s : State) (c : Nat) (f : Context → Context) : (s.modContext c f).l2 = s.l2 := rfl
@[simp] theorem State.modContext_mapping (s : State) (c : Nat) (f : Context → Context) : (s.modContext c f).mapping = s.mapping := rfl
@[simp] theorem State.modContext_acks (s : State) (c : Nat) (f : Context → Context) : (s.modContext c f).acks = s.acks := rfl
@[simp] theorem State.modContext_asks (s : State) (c : Nat) (f : Context → Context) : (s.modContext c f).asks = s.asks := rfl
@[simp] theorem State.modContext_waits (s : State) (c : Nat) (f : Context → Context) : (s.modContext c f).waits = s.waits := rfl
@[simp] theorem State.modContext_parts (s : State) (c : Nat) (f : Context → Context) : (s.modContext c f).parts = s.parts := rfl
@[simp] theorem State.modContext_sorts (s : State) (c : Nat) (f : Context → Context) : (s.modContext c f).sorts = s.sorts := rfl
@[simp] theorem State.modContext_replicas (s : State) (c : Nat) (f : Context → Context) : (s.modContext c f).replicas = s.replicas := rfl
@[simp] theorem State.modContext_migrations (s : State) (c : Nat) (f : Context → Context) : (s.modContext c f).migrations = s.migrations := rfl
@[simp] theorem State.modContext_held (s : State) (c : Nat) (f : Context → Context) : (s.modContext c f).held = s.held := rfl
@[simp] theorem State.modContext_packets (s : State) (c : Nat) (f : Context → Context) : (s.modContext c f).packets = s.packets := rfl
@[simp] theorem State.modContext_traces (s : State) (c : Nat) (f : Context → Context) : (s.modContext c f).traces = s.traces := rfl
@[simp] theorem State.modContext_fabricOut (s : State) (c : Nat) (f : Context → Context) : (s.modContext c f).fabricOut = s.fabricOut := rfl
@[simp] theorem State.modContext_controlWrites (s : State) (c : Nat) (f : Context → Context) : (s.modContext c f).controlWrites = s.controlWrites := rfl
@[simp] theorem State.modContext_links (s : State) (c : Nat) (f : Context → Context) : (s.modContext c f).links = s.links := rfl
@[simp] theorem State.modContext_lency (s : State) (c : Nat) (f : Context → Context) : (s.modContext c f).lency = s.lency := rfl
@[simp] theorem State.modContext_fatals (s : State) (c : Nat) (f : Context → Context) : (s.modContext c f).fatals = s.fatals := rfl
@[simp] theorem State.modContext_frozen (s : State) (c : Nat) (f : Context → Context) : (s.modContext c f).frozen = s.frozen := rfl
@[simp] theorem State.modContext_agenda (s : State) (c : Nat) (f : Context → Context) : (s.modContext c f).agenda = s.agenda := rfl
@[simp] theorem State.modContext_tick (s : State) (c : Nat) (f : Context → Context) : (s.modContext c f).tick = s.tick := rfl
@[simp] theorem State.modContext_cycle (s : State) (c : Nat) (f : Context → Context) : (s.modContext c f).cycle = s.cycle := rfl
@[simp] theorem State.modContext_ns (s : State) (c : Nat) (f : Context → Context) : (s.modContext c f).ns = s.ns := rfl
@[simp] theorem State.modContext_chosen (s : State) (c : Nat) (f : Context → Context) : (s.modContext c f).chosen = s.chosen := rfl
@[simp] theorem State.modContext_cur (s : State) (c : Nat) (f : Context → Context) : (s.modContext c f).cur = s.cur := rfl
@[simp] theorem State.modContext_granted (s : State) (c : Nat) (f : Context → Context) : (s.modContext c f).granted = s.granted := rfl
@[simp] theorem State.modContext_halted (s : State) (c : Nat) (f : Context → Context) : (s.modContext c f).halted = s.halted := rfl
@[simp] theorem State.modContext_loose (s : State) (c : Nat) (f : Context → Context) : (s.modContext c f).loose = s.loose := rfl
@[simp] theorem State.modContext_fair (s : State) (c : Nat) (f : Context → Context) : (s.modContext c f).fair = s.fair := rfl
@[simp] theorem State.modContext_firmware (s : State) (c : Nat) (f : Context → Context) : (s.modContext c f).firmware = s.firmware := rfl
@[simp] theorem State.modContext_measured (s : State) (c : Nat) (f : Context → Context) : (s.modContext c f).measured = s.measured := rfl

@[simp] theorem State.modDie_ident (s : State) (d : Nat) (f : Die → Die) : (s.modDie d f).ident = s.ident := rfl
@[simp] theorem State.modDie_groups (s : State) (d : Nat) (f : Die → Die) : (s.modDie d f).groups = s.groups := rfl
@[simp] theorem State.modDie_workgroups (s : State) (d : Nat) (f : Die → Die) : (s.modDie d f).workgroups = s.workgroups := rfl
@[simp] theorem State.modDie_launches (s : State) (d : Nat) (f : Die → Die) : (s.modDie d f).launches = s.launches := rfl
@[simp] theorem State.modDie_children (s : State) (d : Nat) (f : Die → Die) : (s.modDie d f).children = s.children := rfl
@[simp] theorem State.modDie_passes (s : State) (d : Nat) (f : Die → Die) : (s.modDie d f).passes = s.passes := rfl
@[simp] theorem State.modDie_contexts (s : State) (d : Nat) (f : Die → Die) : (s.modDie d f).contexts = s.contexts := rfl
@[simp] theorem State.modDie_queues (s : State) (d : Nat) (f : Die → Die) : (s.modDie d f).queues = s.queues := rfl
@[simp] theorem State.modDie_regions (s : State) (d : Nat) (f : Die → Die) : (s.modDie d f).regions = s.regions := rfl
@[simp] theorem State.modDie_islands (s : State) (d : Nat) (f : Die → Die) : (s.modDie d f).islands = s.islands := rfl
@[simp] theorem State.modDie_mem (s : State) (d : Nat) (f : Die → Die) : (s.modDie d f).mem = s.mem := rfl
@[simp] theorem State.modDie_tags (s : State) (d : Nat) (f : Die → Die) : (s.modDie d f).tags = s.tags := rfl
@[simp] theorem State.modDie_poison (s : State) (d : Nat) (f : Die → Die) : (s.modDie d f).poison = s.poison := rfl
@[simp] theorem State.modDie_tlb (s : State) (d : Nat) (f : Die → Die) : (s.modDie d f).tlb = s.tlb := rfl
@[simp] theorem State.modDie_walks (s : State) (d : Nat) (f : Die → Die) : (s.modDie d f).walks = s.walks := rfl
@[simp] theorem State.modDie_l1 (s : State) (d : Nat) (f : Die → Die) : (s.modDie d f).l1 = s.l1 := rfl
@[simp] theorem State.modDie_l2 (s : State) (d : Nat) (f : Die → Die) : (s.modDie d f).l2 = s.l2 := rfl
@[simp] theorem State.modDie_mapping (s : State) (d : Nat) (f : Die → Die) : (s.modDie d f).mapping = s.mapping := rfl
@[simp] theorem State.modDie_acks (s : State) (d : Nat) (f : Die → Die) : (s.modDie d f).acks = s.acks := rfl
@[simp] theorem State.modDie_asks (s : State) (d : Nat) (f : Die → Die) : (s.modDie d f).asks = s.asks := rfl
@[simp] theorem State.modDie_waits (s : State) (d : Nat) (f : Die → Die) : (s.modDie d f).waits = s.waits := rfl
@[simp] theorem State.modDie_parts (s : State) (d : Nat) (f : Die → Die) : (s.modDie d f).parts = s.parts := rfl
@[simp] theorem State.modDie_sorts (s : State) (d : Nat) (f : Die → Die) : (s.modDie d f).sorts = s.sorts := rfl
@[simp] theorem State.modDie_replicas (s : State) (d : Nat) (f : Die → Die) : (s.modDie d f).replicas = s.replicas := rfl
@[simp] theorem State.modDie_migrations (s : State) (d : Nat) (f : Die → Die) : (s.modDie d f).migrations = s.migrations := rfl
@[simp] theorem State.modDie_held (s : State) (d : Nat) (f : Die → Die) : (s.modDie d f).held = s.held := rfl
@[simp] theorem State.modDie_packets (s : State) (d : Nat) (f : Die → Die) : (s.modDie d f).packets = s.packets := rfl
@[simp] theorem State.modDie_traces (s : State) (d : Nat) (f : Die → Die) : (s.modDie d f).traces = s.traces := rfl
@[simp] theorem State.modDie_fabricOut (s : State) (d : Nat) (f : Die → Die) : (s.modDie d f).fabricOut = s.fabricOut := rfl
@[simp] theorem State.modDie_controlWrites (s : State) (d : Nat) (f : Die → Die) : (s.modDie d f).controlWrites = s.controlWrites := rfl
@[simp] theorem State.modDie_links (s : State) (d : Nat) (f : Die → Die) : (s.modDie d f).links = s.links := rfl
@[simp] theorem State.modDie_lency (s : State) (d : Nat) (f : Die → Die) : (s.modDie d f).lency = s.lency := rfl
@[simp] theorem State.modDie_fatals (s : State) (d : Nat) (f : Die → Die) : (s.modDie d f).fatals = s.fatals := rfl
@[simp] theorem State.modDie_frozen (s : State) (d : Nat) (f : Die → Die) : (s.modDie d f).frozen = s.frozen := rfl
@[simp] theorem State.modDie_agenda (s : State) (d : Nat) (f : Die → Die) : (s.modDie d f).agenda = s.agenda := rfl
@[simp] theorem State.modDie_tick (s : State) (d : Nat) (f : Die → Die) : (s.modDie d f).tick = s.tick := rfl
@[simp] theorem State.modDie_cycle (s : State) (d : Nat) (f : Die → Die) : (s.modDie d f).cycle = s.cycle := rfl
@[simp] theorem State.modDie_ns (s : State) (d : Nat) (f : Die → Die) : (s.modDie d f).ns = s.ns := rfl
@[simp] theorem State.modDie_chosen (s : State) (d : Nat) (f : Die → Die) : (s.modDie d f).chosen = s.chosen := rfl
@[simp] theorem State.modDie_cur (s : State) (d : Nat) (f : Die → Die) : (s.modDie d f).cur = s.cur := rfl
@[simp] theorem State.modDie_granted (s : State) (d : Nat) (f : Die → Die) : (s.modDie d f).granted = s.granted := rfl
@[simp] theorem State.modDie_halted (s : State) (d : Nat) (f : Die → Die) : (s.modDie d f).halted = s.halted := rfl
@[simp] theorem State.modDie_loose (s : State) (d : Nat) (f : Die → Die) : (s.modDie d f).loose = s.loose := rfl
@[simp] theorem State.modDie_fair (s : State) (d : Nat) (f : Die → Die) : (s.modDie d f).fair = s.fair := rfl
@[simp] theorem State.modDie_firmware (s : State) (d : Nat) (f : Die → Die) : (s.modDie d f).firmware = s.firmware := rfl
@[simp] theorem State.modDie_measured (s : State) (d : Nat) (f : Die → Die) : (s.modDie d f).measured = s.measured := rfl

@[simp] theorem State.modLink_ident (s : State) (n : Nat) (f : Link → Link) : (s.modLink n f).ident = s.ident := rfl
@[simp] theorem State.modLink_groups (s : State) (n : Nat) (f : Link → Link) : (s.modLink n f).groups = s.groups := rfl
@[simp] theorem State.modLink_workgroups (s : State) (n : Nat) (f : Link → Link) : (s.modLink n f).workgroups = s.workgroups := rfl
@[simp] theorem State.modLink_launches (s : State) (n : Nat) (f : Link → Link) : (s.modLink n f).launches = s.launches := rfl
@[simp] theorem State.modLink_children (s : State) (n : Nat) (f : Link → Link) : (s.modLink n f).children = s.children := rfl
@[simp] theorem State.modLink_passes (s : State) (n : Nat) (f : Link → Link) : (s.modLink n f).passes = s.passes := rfl
@[simp] theorem State.modLink_contexts (s : State) (n : Nat) (f : Link → Link) : (s.modLink n f).contexts = s.contexts := rfl
@[simp] theorem State.modLink_dies (s : State) (n : Nat) (f : Link → Link) : (s.modLink n f).dies = s.dies := rfl
@[simp] theorem State.modLink_queues (s : State) (n : Nat) (f : Link → Link) : (s.modLink n f).queues = s.queues := rfl
@[simp] theorem State.modLink_regions (s : State) (n : Nat) (f : Link → Link) : (s.modLink n f).regions = s.regions := rfl
@[simp] theorem State.modLink_islands (s : State) (n : Nat) (f : Link → Link) : (s.modLink n f).islands = s.islands := rfl
@[simp] theorem State.modLink_mem (s : State) (n : Nat) (f : Link → Link) : (s.modLink n f).mem = s.mem := rfl
@[simp] theorem State.modLink_tags (s : State) (n : Nat) (f : Link → Link) : (s.modLink n f).tags = s.tags := rfl
@[simp] theorem State.modLink_poison (s : State) (n : Nat) (f : Link → Link) : (s.modLink n f).poison = s.poison := rfl
@[simp] theorem State.modLink_tlb (s : State) (n : Nat) (f : Link → Link) : (s.modLink n f).tlb = s.tlb := rfl
@[simp] theorem State.modLink_walks (s : State) (n : Nat) (f : Link → Link) : (s.modLink n f).walks = s.walks := rfl
@[simp] theorem State.modLink_l1 (s : State) (n : Nat) (f : Link → Link) : (s.modLink n f).l1 = s.l1 := rfl
@[simp] theorem State.modLink_l2 (s : State) (n : Nat) (f : Link → Link) : (s.modLink n f).l2 = s.l2 := rfl
@[simp] theorem State.modLink_mapping (s : State) (n : Nat) (f : Link → Link) : (s.modLink n f).mapping = s.mapping := rfl
@[simp] theorem State.modLink_acks (s : State) (n : Nat) (f : Link → Link) : (s.modLink n f).acks = s.acks := rfl
@[simp] theorem State.modLink_asks (s : State) (n : Nat) (f : Link → Link) : (s.modLink n f).asks = s.asks := rfl
@[simp] theorem State.modLink_waits (s : State) (n : Nat) (f : Link → Link) : (s.modLink n f).waits = s.waits := rfl
@[simp] theorem State.modLink_parts (s : State) (n : Nat) (f : Link → Link) : (s.modLink n f).parts = s.parts := rfl
@[simp] theorem State.modLink_sorts (s : State) (n : Nat) (f : Link → Link) : (s.modLink n f).sorts = s.sorts := rfl
@[simp] theorem State.modLink_replicas (s : State) (n : Nat) (f : Link → Link) : (s.modLink n f).replicas = s.replicas := rfl
@[simp] theorem State.modLink_migrations (s : State) (n : Nat) (f : Link → Link) : (s.modLink n f).migrations = s.migrations := rfl
@[simp] theorem State.modLink_held (s : State) (n : Nat) (f : Link → Link) : (s.modLink n f).held = s.held := rfl
@[simp] theorem State.modLink_packets (s : State) (n : Nat) (f : Link → Link) : (s.modLink n f).packets = s.packets := rfl
@[simp] theorem State.modLink_traces (s : State) (n : Nat) (f : Link → Link) : (s.modLink n f).traces = s.traces := rfl
@[simp] theorem State.modLink_fabricOut (s : State) (n : Nat) (f : Link → Link) : (s.modLink n f).fabricOut = s.fabricOut := rfl
@[simp] theorem State.modLink_controlWrites (s : State) (n : Nat) (f : Link → Link) : (s.modLink n f).controlWrites = s.controlWrites := rfl
@[simp] theorem State.modLink_lency (s : State) (n : Nat) (f : Link → Link) : (s.modLink n f).lency = s.lency := rfl
@[simp] theorem State.modLink_fatals (s : State) (n : Nat) (f : Link → Link) : (s.modLink n f).fatals = s.fatals := rfl
@[simp] theorem State.modLink_frozen (s : State) (n : Nat) (f : Link → Link) : (s.modLink n f).frozen = s.frozen := rfl
@[simp] theorem State.modLink_agenda (s : State) (n : Nat) (f : Link → Link) : (s.modLink n f).agenda = s.agenda := rfl
@[simp] theorem State.modLink_tick (s : State) (n : Nat) (f : Link → Link) : (s.modLink n f).tick = s.tick := rfl
@[simp] theorem State.modLink_cycle (s : State) (n : Nat) (f : Link → Link) : (s.modLink n f).cycle = s.cycle := rfl
@[simp] theorem State.modLink_ns (s : State) (n : Nat) (f : Link → Link) : (s.modLink n f).ns = s.ns := rfl
@[simp] theorem State.modLink_chosen (s : State) (n : Nat) (f : Link → Link) : (s.modLink n f).chosen = s.chosen := rfl
@[simp] theorem State.modLink_cur (s : State) (n : Nat) (f : Link → Link) : (s.modLink n f).cur = s.cur := rfl
@[simp] theorem State.modLink_granted (s : State) (n : Nat) (f : Link → Link) : (s.modLink n f).granted = s.granted := rfl
@[simp] theorem State.modLink_halted (s : State) (n : Nat) (f : Link → Link) : (s.modLink n f).halted = s.halted := rfl
@[simp] theorem State.modLink_loose (s : State) (n : Nat) (f : Link → Link) : (s.modLink n f).loose = s.loose := rfl
@[simp] theorem State.modLink_fair (s : State) (n : Nat) (f : Link → Link) : (s.modLink n f).fair = s.fair := rfl
@[simp] theorem State.modLink_firmware (s : State) (n : Nat) (f : Link → Link) : (s.modLink n f).firmware = s.firmware := rfl
@[simp] theorem State.modLink_measured (s : State) (n : Nat) (f : Link → Link) : (s.modLink n f).measured = s.measured := rfl

@[simp] theorem State.modPort_ident (s : State) (n : Nat) (f : LencyPort → LencyPort) : (s.modPort n f).ident = s.ident := rfl
@[simp] theorem State.modPort_groups (s : State) (n : Nat) (f : LencyPort → LencyPort) : (s.modPort n f).groups = s.groups := rfl
@[simp] theorem State.modPort_workgroups (s : State) (n : Nat) (f : LencyPort → LencyPort) : (s.modPort n f).workgroups = s.workgroups := rfl
@[simp] theorem State.modPort_launches (s : State) (n : Nat) (f : LencyPort → LencyPort) : (s.modPort n f).launches = s.launches := rfl
@[simp] theorem State.modPort_children (s : State) (n : Nat) (f : LencyPort → LencyPort) : (s.modPort n f).children = s.children := rfl
@[simp] theorem State.modPort_passes (s : State) (n : Nat) (f : LencyPort → LencyPort) : (s.modPort n f).passes = s.passes := rfl
@[simp] theorem State.modPort_contexts (s : State) (n : Nat) (f : LencyPort → LencyPort) : (s.modPort n f).contexts = s.contexts := rfl
@[simp] theorem State.modPort_dies (s : State) (n : Nat) (f : LencyPort → LencyPort) : (s.modPort n f).dies = s.dies := rfl
@[simp] theorem State.modPort_queues (s : State) (n : Nat) (f : LencyPort → LencyPort) : (s.modPort n f).queues = s.queues := rfl
@[simp] theorem State.modPort_regions (s : State) (n : Nat) (f : LencyPort → LencyPort) : (s.modPort n f).regions = s.regions := rfl
@[simp] theorem State.modPort_islands (s : State) (n : Nat) (f : LencyPort → LencyPort) : (s.modPort n f).islands = s.islands := rfl
@[simp] theorem State.modPort_mem (s : State) (n : Nat) (f : LencyPort → LencyPort) : (s.modPort n f).mem = s.mem := rfl
@[simp] theorem State.modPort_tags (s : State) (n : Nat) (f : LencyPort → LencyPort) : (s.modPort n f).tags = s.tags := rfl
@[simp] theorem State.modPort_poison (s : State) (n : Nat) (f : LencyPort → LencyPort) : (s.modPort n f).poison = s.poison := rfl
@[simp] theorem State.modPort_tlb (s : State) (n : Nat) (f : LencyPort → LencyPort) : (s.modPort n f).tlb = s.tlb := rfl
@[simp] theorem State.modPort_walks (s : State) (n : Nat) (f : LencyPort → LencyPort) : (s.modPort n f).walks = s.walks := rfl
@[simp] theorem State.modPort_l1 (s : State) (n : Nat) (f : LencyPort → LencyPort) : (s.modPort n f).l1 = s.l1 := rfl
@[simp] theorem State.modPort_l2 (s : State) (n : Nat) (f : LencyPort → LencyPort) : (s.modPort n f).l2 = s.l2 := rfl
@[simp] theorem State.modPort_mapping (s : State) (n : Nat) (f : LencyPort → LencyPort) : (s.modPort n f).mapping = s.mapping := rfl
@[simp] theorem State.modPort_acks (s : State) (n : Nat) (f : LencyPort → LencyPort) : (s.modPort n f).acks = s.acks := rfl
@[simp] theorem State.modPort_asks (s : State) (n : Nat) (f : LencyPort → LencyPort) : (s.modPort n f).asks = s.asks := rfl
@[simp] theorem State.modPort_waits (s : State) (n : Nat) (f : LencyPort → LencyPort) : (s.modPort n f).waits = s.waits := rfl
@[simp] theorem State.modPort_parts (s : State) (n : Nat) (f : LencyPort → LencyPort) : (s.modPort n f).parts = s.parts := rfl
@[simp] theorem State.modPort_sorts (s : State) (n : Nat) (f : LencyPort → LencyPort) : (s.modPort n f).sorts = s.sorts := rfl
@[simp] theorem State.modPort_replicas (s : State) (n : Nat) (f : LencyPort → LencyPort) : (s.modPort n f).replicas = s.replicas := rfl
@[simp] theorem State.modPort_migrations (s : State) (n : Nat) (f : LencyPort → LencyPort) : (s.modPort n f).migrations = s.migrations := rfl
@[simp] theorem State.modPort_held (s : State) (n : Nat) (f : LencyPort → LencyPort) : (s.modPort n f).held = s.held := rfl
@[simp] theorem State.modPort_packets (s : State) (n : Nat) (f : LencyPort → LencyPort) : (s.modPort n f).packets = s.packets := rfl
@[simp] theorem State.modPort_traces (s : State) (n : Nat) (f : LencyPort → LencyPort) : (s.modPort n f).traces = s.traces := rfl
@[simp] theorem State.modPort_fabricOut (s : State) (n : Nat) (f : LencyPort → LencyPort) : (s.modPort n f).fabricOut = s.fabricOut := rfl
@[simp] theorem State.modPort_controlWrites (s : State) (n : Nat) (f : LencyPort → LencyPort) : (s.modPort n f).controlWrites = s.controlWrites := rfl
@[simp] theorem State.modPort_links (s : State) (n : Nat) (f : LencyPort → LencyPort) : (s.modPort n f).links = s.links := rfl
@[simp] theorem State.modPort_fatals (s : State) (n : Nat) (f : LencyPort → LencyPort) : (s.modPort n f).fatals = s.fatals := rfl
@[simp] theorem State.modPort_frozen (s : State) (n : Nat) (f : LencyPort → LencyPort) : (s.modPort n f).frozen = s.frozen := rfl
@[simp] theorem State.modPort_agenda (s : State) (n : Nat) (f : LencyPort → LencyPort) : (s.modPort n f).agenda = s.agenda := rfl
@[simp] theorem State.modPort_tick (s : State) (n : Nat) (f : LencyPort → LencyPort) : (s.modPort n f).tick = s.tick := rfl
@[simp] theorem State.modPort_cycle (s : State) (n : Nat) (f : LencyPort → LencyPort) : (s.modPort n f).cycle = s.cycle := rfl
@[simp] theorem State.modPort_ns (s : State) (n : Nat) (f : LencyPort → LencyPort) : (s.modPort n f).ns = s.ns := rfl
@[simp] theorem State.modPort_chosen (s : State) (n : Nat) (f : LencyPort → LencyPort) : (s.modPort n f).chosen = s.chosen := rfl
@[simp] theorem State.modPort_cur (s : State) (n : Nat) (f : LencyPort → LencyPort) : (s.modPort n f).cur = s.cur := rfl
@[simp] theorem State.modPort_granted (s : State) (n : Nat) (f : LencyPort → LencyPort) : (s.modPort n f).granted = s.granted := rfl
@[simp] theorem State.modPort_halted (s : State) (n : Nat) (f : LencyPort → LencyPort) : (s.modPort n f).halted = s.halted := rfl
@[simp] theorem State.modPort_loose (s : State) (n : Nat) (f : LencyPort → LencyPort) : (s.modPort n f).loose = s.loose := rfl
@[simp] theorem State.modPort_fair (s : State) (n : Nat) (f : LencyPort → LencyPort) : (s.modPort n f).fair = s.fair := rfl
@[simp] theorem State.modPort_firmware (s : State) (n : Nat) (f : LencyPort → LencyPort) : (s.modPort n f).firmware = s.firmware := rfl
@[simp] theorem State.modPort_measured (s : State) (n : Nat) (f : LencyPort → LencyPort) : (s.modPort n f).measured = s.measured := rfl

@[simp] theorem State.modIsland_ident (s : State) (n : Nat) (f : Island → Island) : (s.modIsland n f).ident = s.ident := rfl
@[simp] theorem State.modIsland_groups (s : State) (n : Nat) (f : Island → Island) : (s.modIsland n f).groups = s.groups := rfl
@[simp] theorem State.modIsland_workgroups (s : State) (n : Nat) (f : Island → Island) : (s.modIsland n f).workgroups = s.workgroups := rfl
@[simp] theorem State.modIsland_launches (s : State) (n : Nat) (f : Island → Island) : (s.modIsland n f).launches = s.launches := rfl
@[simp] theorem State.modIsland_children (s : State) (n : Nat) (f : Island → Island) : (s.modIsland n f).children = s.children := rfl
@[simp] theorem State.modIsland_passes (s : State) (n : Nat) (f : Island → Island) : (s.modIsland n f).passes = s.passes := rfl
@[simp] theorem State.modIsland_contexts (s : State) (n : Nat) (f : Island → Island) : (s.modIsland n f).contexts = s.contexts := rfl
@[simp] theorem State.modIsland_dies (s : State) (n : Nat) (f : Island → Island) : (s.modIsland n f).dies = s.dies := rfl
@[simp] theorem State.modIsland_queues (s : State) (n : Nat) (f : Island → Island) : (s.modIsland n f).queues = s.queues := rfl
@[simp] theorem State.modIsland_regions (s : State) (n : Nat) (f : Island → Island) : (s.modIsland n f).regions = s.regions := rfl
@[simp] theorem State.modIsland_mem (s : State) (n : Nat) (f : Island → Island) : (s.modIsland n f).mem = s.mem := rfl
@[simp] theorem State.modIsland_tags (s : State) (n : Nat) (f : Island → Island) : (s.modIsland n f).tags = s.tags := rfl
@[simp] theorem State.modIsland_poison (s : State) (n : Nat) (f : Island → Island) : (s.modIsland n f).poison = s.poison := rfl
@[simp] theorem State.modIsland_tlb (s : State) (n : Nat) (f : Island → Island) : (s.modIsland n f).tlb = s.tlb := rfl
@[simp] theorem State.modIsland_walks (s : State) (n : Nat) (f : Island → Island) : (s.modIsland n f).walks = s.walks := rfl
@[simp] theorem State.modIsland_l1 (s : State) (n : Nat) (f : Island → Island) : (s.modIsland n f).l1 = s.l1 := rfl
@[simp] theorem State.modIsland_l2 (s : State) (n : Nat) (f : Island → Island) : (s.modIsland n f).l2 = s.l2 := rfl
@[simp] theorem State.modIsland_mapping (s : State) (n : Nat) (f : Island → Island) : (s.modIsland n f).mapping = s.mapping := rfl
@[simp] theorem State.modIsland_acks (s : State) (n : Nat) (f : Island → Island) : (s.modIsland n f).acks = s.acks := rfl
@[simp] theorem State.modIsland_asks (s : State) (n : Nat) (f : Island → Island) : (s.modIsland n f).asks = s.asks := rfl
@[simp] theorem State.modIsland_waits (s : State) (n : Nat) (f : Island → Island) : (s.modIsland n f).waits = s.waits := rfl
@[simp] theorem State.modIsland_parts (s : State) (n : Nat) (f : Island → Island) : (s.modIsland n f).parts = s.parts := rfl
@[simp] theorem State.modIsland_sorts (s : State) (n : Nat) (f : Island → Island) : (s.modIsland n f).sorts = s.sorts := rfl
@[simp] theorem State.modIsland_replicas (s : State) (n : Nat) (f : Island → Island) : (s.modIsland n f).replicas = s.replicas := rfl
@[simp] theorem State.modIsland_migrations (s : State) (n : Nat) (f : Island → Island) : (s.modIsland n f).migrations = s.migrations := rfl
@[simp] theorem State.modIsland_held (s : State) (n : Nat) (f : Island → Island) : (s.modIsland n f).held = s.held := rfl
@[simp] theorem State.modIsland_packets (s : State) (n : Nat) (f : Island → Island) : (s.modIsland n f).packets = s.packets := rfl
@[simp] theorem State.modIsland_traces (s : State) (n : Nat) (f : Island → Island) : (s.modIsland n f).traces = s.traces := rfl
@[simp] theorem State.modIsland_fabricOut (s : State) (n : Nat) (f : Island → Island) : (s.modIsland n f).fabricOut = s.fabricOut := rfl
@[simp] theorem State.modIsland_controlWrites (s : State) (n : Nat) (f : Island → Island) : (s.modIsland n f).controlWrites = s.controlWrites := rfl
@[simp] theorem State.modIsland_links (s : State) (n : Nat) (f : Island → Island) : (s.modIsland n f).links = s.links := rfl
@[simp] theorem State.modIsland_lency (s : State) (n : Nat) (f : Island → Island) : (s.modIsland n f).lency = s.lency := rfl
@[simp] theorem State.modIsland_fatals (s : State) (n : Nat) (f : Island → Island) : (s.modIsland n f).fatals = s.fatals := rfl
@[simp] theorem State.modIsland_frozen (s : State) (n : Nat) (f : Island → Island) : (s.modIsland n f).frozen = s.frozen := rfl
@[simp] theorem State.modIsland_agenda (s : State) (n : Nat) (f : Island → Island) : (s.modIsland n f).agenda = s.agenda := rfl
@[simp] theorem State.modIsland_tick (s : State) (n : Nat) (f : Island → Island) : (s.modIsland n f).tick = s.tick := rfl
@[simp] theorem State.modIsland_cycle (s : State) (n : Nat) (f : Island → Island) : (s.modIsland n f).cycle = s.cycle := rfl
@[simp] theorem State.modIsland_ns (s : State) (n : Nat) (f : Island → Island) : (s.modIsland n f).ns = s.ns := rfl
@[simp] theorem State.modIsland_chosen (s : State) (n : Nat) (f : Island → Island) : (s.modIsland n f).chosen = s.chosen := rfl
@[simp] theorem State.modIsland_cur (s : State) (n : Nat) (f : Island → Island) : (s.modIsland n f).cur = s.cur := rfl
@[simp] theorem State.modIsland_granted (s : State) (n : Nat) (f : Island → Island) : (s.modIsland n f).granted = s.granted := rfl
@[simp] theorem State.modIsland_halted (s : State) (n : Nat) (f : Island → Island) : (s.modIsland n f).halted = s.halted := rfl
@[simp] theorem State.modIsland_loose (s : State) (n : Nat) (f : Island → Island) : (s.modIsland n f).loose = s.loose := rfl
@[simp] theorem State.modIsland_fair (s : State) (n : Nat) (f : Island → Island) : (s.modIsland n f).fair = s.fair := rfl
@[simp] theorem State.modIsland_firmware (s : State) (n : Nat) (f : Island → Island) : (s.modIsland n f).firmware = s.firmware := rfl
@[simp] theorem State.modIsland_measured (s : State) (n : Nat) (f : Island → Island) : (s.modIsland n f).measured = s.measured := rfl

@[simp] theorem State.modHeld_ident (s : State) (n : Nat) (f : HeldStore → HeldStore) : (s.modHeld n f).ident = s.ident := rfl
@[simp] theorem State.modHeld_groups (s : State) (n : Nat) (f : HeldStore → HeldStore) : (s.modHeld n f).groups = s.groups := rfl
@[simp] theorem State.modHeld_workgroups (s : State) (n : Nat) (f : HeldStore → HeldStore) : (s.modHeld n f).workgroups = s.workgroups := rfl
@[simp] theorem State.modHeld_launches (s : State) (n : Nat) (f : HeldStore → HeldStore) : (s.modHeld n f).launches = s.launches := rfl
@[simp] theorem State.modHeld_children (s : State) (n : Nat) (f : HeldStore → HeldStore) : (s.modHeld n f).children = s.children := rfl
@[simp] theorem State.modHeld_passes (s : State) (n : Nat) (f : HeldStore → HeldStore) : (s.modHeld n f).passes = s.passes := rfl
@[simp] theorem State.modHeld_contexts (s : State) (n : Nat) (f : HeldStore → HeldStore) : (s.modHeld n f).contexts = s.contexts := rfl
@[simp] theorem State.modHeld_dies (s : State) (n : Nat) (f : HeldStore → HeldStore) : (s.modHeld n f).dies = s.dies := rfl
@[simp] theorem State.modHeld_queues (s : State) (n : Nat) (f : HeldStore → HeldStore) : (s.modHeld n f).queues = s.queues := rfl
@[simp] theorem State.modHeld_regions (s : State) (n : Nat) (f : HeldStore → HeldStore) : (s.modHeld n f).regions = s.regions := rfl
@[simp] theorem State.modHeld_islands (s : State) (n : Nat) (f : HeldStore → HeldStore) : (s.modHeld n f).islands = s.islands := rfl
@[simp] theorem State.modHeld_mem (s : State) (n : Nat) (f : HeldStore → HeldStore) : (s.modHeld n f).mem = s.mem := rfl
@[simp] theorem State.modHeld_tags (s : State) (n : Nat) (f : HeldStore → HeldStore) : (s.modHeld n f).tags = s.tags := rfl
@[simp] theorem State.modHeld_poison (s : State) (n : Nat) (f : HeldStore → HeldStore) : (s.modHeld n f).poison = s.poison := rfl
@[simp] theorem State.modHeld_tlb (s : State) (n : Nat) (f : HeldStore → HeldStore) : (s.modHeld n f).tlb = s.tlb := rfl
@[simp] theorem State.modHeld_walks (s : State) (n : Nat) (f : HeldStore → HeldStore) : (s.modHeld n f).walks = s.walks := rfl
@[simp] theorem State.modHeld_l1 (s : State) (n : Nat) (f : HeldStore → HeldStore) : (s.modHeld n f).l1 = s.l1 := rfl
@[simp] theorem State.modHeld_l2 (s : State) (n : Nat) (f : HeldStore → HeldStore) : (s.modHeld n f).l2 = s.l2 := rfl
@[simp] theorem State.modHeld_mapping (s : State) (n : Nat) (f : HeldStore → HeldStore) : (s.modHeld n f).mapping = s.mapping := rfl
@[simp] theorem State.modHeld_acks (s : State) (n : Nat) (f : HeldStore → HeldStore) : (s.modHeld n f).acks = s.acks := rfl
@[simp] theorem State.modHeld_asks (s : State) (n : Nat) (f : HeldStore → HeldStore) : (s.modHeld n f).asks = s.asks := rfl
@[simp] theorem State.modHeld_waits (s : State) (n : Nat) (f : HeldStore → HeldStore) : (s.modHeld n f).waits = s.waits := rfl
@[simp] theorem State.modHeld_parts (s : State) (n : Nat) (f : HeldStore → HeldStore) : (s.modHeld n f).parts = s.parts := rfl
@[simp] theorem State.modHeld_sorts (s : State) (n : Nat) (f : HeldStore → HeldStore) : (s.modHeld n f).sorts = s.sorts := rfl
@[simp] theorem State.modHeld_replicas (s : State) (n : Nat) (f : HeldStore → HeldStore) : (s.modHeld n f).replicas = s.replicas := rfl
@[simp] theorem State.modHeld_migrations (s : State) (n : Nat) (f : HeldStore → HeldStore) : (s.modHeld n f).migrations = s.migrations := rfl
@[simp] theorem State.modHeld_packets (s : State) (n : Nat) (f : HeldStore → HeldStore) : (s.modHeld n f).packets = s.packets := rfl
@[simp] theorem State.modHeld_traces (s : State) (n : Nat) (f : HeldStore → HeldStore) : (s.modHeld n f).traces = s.traces := rfl
@[simp] theorem State.modHeld_fabricOut (s : State) (n : Nat) (f : HeldStore → HeldStore) : (s.modHeld n f).fabricOut = s.fabricOut := rfl
@[simp] theorem State.modHeld_controlWrites (s : State) (n : Nat) (f : HeldStore → HeldStore) : (s.modHeld n f).controlWrites = s.controlWrites := rfl
@[simp] theorem State.modHeld_links (s : State) (n : Nat) (f : HeldStore → HeldStore) : (s.modHeld n f).links = s.links := rfl
@[simp] theorem State.modHeld_lency (s : State) (n : Nat) (f : HeldStore → HeldStore) : (s.modHeld n f).lency = s.lency := rfl
@[simp] theorem State.modHeld_fatals (s : State) (n : Nat) (f : HeldStore → HeldStore) : (s.modHeld n f).fatals = s.fatals := rfl
@[simp] theorem State.modHeld_frozen (s : State) (n : Nat) (f : HeldStore → HeldStore) : (s.modHeld n f).frozen = s.frozen := rfl
@[simp] theorem State.modHeld_agenda (s : State) (n : Nat) (f : HeldStore → HeldStore) : (s.modHeld n f).agenda = s.agenda := rfl
@[simp] theorem State.modHeld_tick (s : State) (n : Nat) (f : HeldStore → HeldStore) : (s.modHeld n f).tick = s.tick := rfl
@[simp] theorem State.modHeld_cycle (s : State) (n : Nat) (f : HeldStore → HeldStore) : (s.modHeld n f).cycle = s.cycle := rfl
@[simp] theorem State.modHeld_ns (s : State) (n : Nat) (f : HeldStore → HeldStore) : (s.modHeld n f).ns = s.ns := rfl
@[simp] theorem State.modHeld_chosen (s : State) (n : Nat) (f : HeldStore → HeldStore) : (s.modHeld n f).chosen = s.chosen := rfl
@[simp] theorem State.modHeld_cur (s : State) (n : Nat) (f : HeldStore → HeldStore) : (s.modHeld n f).cur = s.cur := rfl
@[simp] theorem State.modHeld_granted (s : State) (n : Nat) (f : HeldStore → HeldStore) : (s.modHeld n f).granted = s.granted := rfl
@[simp] theorem State.modHeld_halted (s : State) (n : Nat) (f : HeldStore → HeldStore) : (s.modHeld n f).halted = s.halted := rfl
@[simp] theorem State.modHeld_loose (s : State) (n : Nat) (f : HeldStore → HeldStore) : (s.modHeld n f).loose = s.loose := rfl
@[simp] theorem State.modHeld_fair (s : State) (n : Nat) (f : HeldStore → HeldStore) : (s.modHeld n f).fair = s.fair := rfl
@[simp] theorem State.modHeld_firmware (s : State) (n : Nat) (f : HeldStore → HeldStore) : (s.modHeld n f).firmware = s.firmware := rfl
@[simp] theorem State.modHeld_measured (s : State) (n : Nat) (f : HeldStore → HeldStore) : (s.modHeld n f).measured = s.measured := rfl

@[simp] theorem State.dropHeld_ident (s : State) (n : Nat) : (s.dropHeld n).ident = s.ident := rfl
@[simp] theorem State.dropHeld_groups (s : State) (n : Nat) : (s.dropHeld n).groups = s.groups := rfl
@[simp] theorem State.dropHeld_workgroups (s : State) (n : Nat) : (s.dropHeld n).workgroups = s.workgroups := rfl
@[simp] theorem State.dropHeld_launches (s : State) (n : Nat) : (s.dropHeld n).launches = s.launches := rfl
@[simp] theorem State.dropHeld_children (s : State) (n : Nat) : (s.dropHeld n).children = s.children := rfl
@[simp] theorem State.dropHeld_passes (s : State) (n : Nat) : (s.dropHeld n).passes = s.passes := rfl
@[simp] theorem State.dropHeld_contexts (s : State) (n : Nat) : (s.dropHeld n).contexts = s.contexts := rfl
@[simp] theorem State.dropHeld_dies (s : State) (n : Nat) : (s.dropHeld n).dies = s.dies := rfl
@[simp] theorem State.dropHeld_queues (s : State) (n : Nat) : (s.dropHeld n).queues = s.queues := rfl
@[simp] theorem State.dropHeld_regions (s : State) (n : Nat) : (s.dropHeld n).regions = s.regions := rfl
@[simp] theorem State.dropHeld_islands (s : State) (n : Nat) : (s.dropHeld n).islands = s.islands := rfl
@[simp] theorem State.dropHeld_mem (s : State) (n : Nat) : (s.dropHeld n).mem = s.mem := rfl
@[simp] theorem State.dropHeld_tags (s : State) (n : Nat) : (s.dropHeld n).tags = s.tags := rfl
@[simp] theorem State.dropHeld_poison (s : State) (n : Nat) : (s.dropHeld n).poison = s.poison := rfl
@[simp] theorem State.dropHeld_tlb (s : State) (n : Nat) : (s.dropHeld n).tlb = s.tlb := rfl
@[simp] theorem State.dropHeld_walks (s : State) (n : Nat) : (s.dropHeld n).walks = s.walks := rfl
@[simp] theorem State.dropHeld_l1 (s : State) (n : Nat) : (s.dropHeld n).l1 = s.l1 := rfl
@[simp] theorem State.dropHeld_l2 (s : State) (n : Nat) : (s.dropHeld n).l2 = s.l2 := rfl
@[simp] theorem State.dropHeld_mapping (s : State) (n : Nat) : (s.dropHeld n).mapping = s.mapping := rfl
@[simp] theorem State.dropHeld_acks (s : State) (n : Nat) : (s.dropHeld n).acks = s.acks := rfl
@[simp] theorem State.dropHeld_asks (s : State) (n : Nat) : (s.dropHeld n).asks = s.asks := rfl
@[simp] theorem State.dropHeld_waits (s : State) (n : Nat) : (s.dropHeld n).waits = s.waits := rfl
@[simp] theorem State.dropHeld_parts (s : State) (n : Nat) : (s.dropHeld n).parts = s.parts := rfl
@[simp] theorem State.dropHeld_sorts (s : State) (n : Nat) : (s.dropHeld n).sorts = s.sorts := rfl
@[simp] theorem State.dropHeld_replicas (s : State) (n : Nat) : (s.dropHeld n).replicas = s.replicas := rfl
@[simp] theorem State.dropHeld_migrations (s : State) (n : Nat) : (s.dropHeld n).migrations = s.migrations := rfl
@[simp] theorem State.dropHeld_packets (s : State) (n : Nat) : (s.dropHeld n).packets = s.packets := rfl
@[simp] theorem State.dropHeld_traces (s : State) (n : Nat) : (s.dropHeld n).traces = s.traces := rfl
@[simp] theorem State.dropHeld_fabricOut (s : State) (n : Nat) : (s.dropHeld n).fabricOut = s.fabricOut := rfl
@[simp] theorem State.dropHeld_controlWrites (s : State) (n : Nat) : (s.dropHeld n).controlWrites = s.controlWrites := rfl
@[simp] theorem State.dropHeld_links (s : State) (n : Nat) : (s.dropHeld n).links = s.links := rfl
@[simp] theorem State.dropHeld_lency (s : State) (n : Nat) : (s.dropHeld n).lency = s.lency := rfl
@[simp] theorem State.dropHeld_fatals (s : State) (n : Nat) : (s.dropHeld n).fatals = s.fatals := rfl
@[simp] theorem State.dropHeld_frozen (s : State) (n : Nat) : (s.dropHeld n).frozen = s.frozen := rfl
@[simp] theorem State.dropHeld_agenda (s : State) (n : Nat) : (s.dropHeld n).agenda = s.agenda := rfl
@[simp] theorem State.dropHeld_tick (s : State) (n : Nat) : (s.dropHeld n).tick = s.tick := rfl
@[simp] theorem State.dropHeld_cycle (s : State) (n : Nat) : (s.dropHeld n).cycle = s.cycle := rfl
@[simp] theorem State.dropHeld_ns (s : State) (n : Nat) : (s.dropHeld n).ns = s.ns := rfl
@[simp] theorem State.dropHeld_chosen (s : State) (n : Nat) : (s.dropHeld n).chosen = s.chosen := rfl
@[simp] theorem State.dropHeld_cur (s : State) (n : Nat) : (s.dropHeld n).cur = s.cur := rfl
@[simp] theorem State.dropHeld_granted (s : State) (n : Nat) : (s.dropHeld n).granted = s.granted := rfl
@[simp] theorem State.dropHeld_halted (s : State) (n : Nat) : (s.dropHeld n).halted = s.halted := rfl
@[simp] theorem State.dropHeld_loose (s : State) (n : Nat) : (s.dropHeld n).loose = s.loose := rfl
@[simp] theorem State.dropHeld_fair (s : State) (n : Nat) : (s.dropHeld n).fair = s.fair := rfl
@[simp] theorem State.dropHeld_firmware (s : State) (n : Nat) : (s.dropHeld n).firmware = s.firmware := rfl
@[simp] theorem State.dropHeld_measured (s : State) (n : Nat) : (s.dropHeld n).measured = s.measured := rfl

@[simp] theorem State.send_ident (s : State) (p : MeshPacket) : (s.send p).ident = s.ident := rfl
@[simp] theorem State.send_groups (s : State) (p : MeshPacket) : (s.send p).groups = s.groups := rfl
@[simp] theorem State.send_workgroups (s : State) (p : MeshPacket) : (s.send p).workgroups = s.workgroups := rfl
@[simp] theorem State.send_launches (s : State) (p : MeshPacket) : (s.send p).launches = s.launches := rfl
@[simp] theorem State.send_children (s : State) (p : MeshPacket) : (s.send p).children = s.children := rfl
@[simp] theorem State.send_passes (s : State) (p : MeshPacket) : (s.send p).passes = s.passes := rfl
@[simp] theorem State.send_contexts (s : State) (p : MeshPacket) : (s.send p).contexts = s.contexts := rfl
@[simp] theorem State.send_dies (s : State) (p : MeshPacket) : (s.send p).dies = s.dies := rfl
@[simp] theorem State.send_queues (s : State) (p : MeshPacket) : (s.send p).queues = s.queues := rfl
@[simp] theorem State.send_regions (s : State) (p : MeshPacket) : (s.send p).regions = s.regions := rfl
@[simp] theorem State.send_islands (s : State) (p : MeshPacket) : (s.send p).islands = s.islands := rfl
@[simp] theorem State.send_mem (s : State) (p : MeshPacket) : (s.send p).mem = s.mem := rfl
@[simp] theorem State.send_tags (s : State) (p : MeshPacket) : (s.send p).tags = s.tags := rfl
@[simp] theorem State.send_poison (s : State) (p : MeshPacket) : (s.send p).poison = s.poison := rfl
@[simp] theorem State.send_tlb (s : State) (p : MeshPacket) : (s.send p).tlb = s.tlb := rfl
@[simp] theorem State.send_walks (s : State) (p : MeshPacket) : (s.send p).walks = s.walks := rfl
@[simp] theorem State.send_l1 (s : State) (p : MeshPacket) : (s.send p).l1 = s.l1 := rfl
@[simp] theorem State.send_l2 (s : State) (p : MeshPacket) : (s.send p).l2 = s.l2 := rfl
@[simp] theorem State.send_mapping (s : State) (p : MeshPacket) : (s.send p).mapping = s.mapping := rfl
@[simp] theorem State.send_acks (s : State) (p : MeshPacket) : (s.send p).acks = s.acks := rfl
@[simp] theorem State.send_asks (s : State) (p : MeshPacket) : (s.send p).asks = s.asks := rfl
@[simp] theorem State.send_waits (s : State) (p : MeshPacket) : (s.send p).waits = s.waits := rfl
@[simp] theorem State.send_parts (s : State) (p : MeshPacket) : (s.send p).parts = s.parts := rfl
@[simp] theorem State.send_sorts (s : State) (p : MeshPacket) : (s.send p).sorts = s.sorts := rfl
@[simp] theorem State.send_replicas (s : State) (p : MeshPacket) : (s.send p).replicas = s.replicas := rfl
@[simp] theorem State.send_migrations (s : State) (p : MeshPacket) : (s.send p).migrations = s.migrations := rfl
@[simp] theorem State.send_held (s : State) (p : MeshPacket) : (s.send p).held = s.held := rfl
@[simp] theorem State.send_traces (s : State) (p : MeshPacket) : (s.send p).traces = s.traces := rfl
@[simp] theorem State.send_fabricOut (s : State) (p : MeshPacket) : (s.send p).fabricOut = s.fabricOut := rfl
@[simp] theorem State.send_controlWrites (s : State) (p : MeshPacket) : (s.send p).controlWrites = s.controlWrites := rfl
@[simp] theorem State.send_links (s : State) (p : MeshPacket) : (s.send p).links = s.links := rfl
@[simp] theorem State.send_lency (s : State) (p : MeshPacket) : (s.send p).lency = s.lency := rfl
@[simp] theorem State.send_fatals (s : State) (p : MeshPacket) : (s.send p).fatals = s.fatals := rfl
@[simp] theorem State.send_frozen (s : State) (p : MeshPacket) : (s.send p).frozen = s.frozen := rfl
@[simp] theorem State.send_agenda (s : State) (p : MeshPacket) : (s.send p).agenda = s.agenda := rfl
@[simp] theorem State.send_tick (s : State) (p : MeshPacket) : (s.send p).tick = s.tick := rfl
@[simp] theorem State.send_cycle (s : State) (p : MeshPacket) : (s.send p).cycle = s.cycle := rfl
@[simp] theorem State.send_ns (s : State) (p : MeshPacket) : (s.send p).ns = s.ns := rfl
@[simp] theorem State.send_chosen (s : State) (p : MeshPacket) : (s.send p).chosen = s.chosen := rfl
@[simp] theorem State.send_cur (s : State) (p : MeshPacket) : (s.send p).cur = s.cur := rfl
@[simp] theorem State.send_granted (s : State) (p : MeshPacket) : (s.send p).granted = s.granted := rfl
@[simp] theorem State.send_halted (s : State) (p : MeshPacket) : (s.send p).halted = s.halted := rfl
@[simp] theorem State.send_loose (s : State) (p : MeshPacket) : (s.send p).loose = s.loose := rfl
@[simp] theorem State.send_fair (s : State) (p : MeshPacket) : (s.send p).fair = s.fair := rfl
@[simp] theorem State.send_firmware (s : State) (p : MeshPacket) : (s.send p).firmware = s.firmware := rfl
@[simp] theorem State.send_measured (s : State) (p : MeshPacket) : (s.send p).measured = s.measured := rfl

@[simp] theorem State.writeMem_ident (s : State) (k : Nat) (bs : List Byte) : (s.writeMem k bs).ident = s.ident := rfl
@[simp] theorem State.writeMem_groups (s : State) (k : Nat) (bs : List Byte) : (s.writeMem k bs).groups = s.groups := rfl
@[simp] theorem State.writeMem_workgroups (s : State) (k : Nat) (bs : List Byte) : (s.writeMem k bs).workgroups = s.workgroups := rfl
@[simp] theorem State.writeMem_launches (s : State) (k : Nat) (bs : List Byte) : (s.writeMem k bs).launches = s.launches := rfl
@[simp] theorem State.writeMem_children (s : State) (k : Nat) (bs : List Byte) : (s.writeMem k bs).children = s.children := rfl
@[simp] theorem State.writeMem_passes (s : State) (k : Nat) (bs : List Byte) : (s.writeMem k bs).passes = s.passes := rfl
@[simp] theorem State.writeMem_contexts (s : State) (k : Nat) (bs : List Byte) : (s.writeMem k bs).contexts = s.contexts := rfl
@[simp] theorem State.writeMem_dies (s : State) (k : Nat) (bs : List Byte) : (s.writeMem k bs).dies = s.dies := rfl
@[simp] theorem State.writeMem_queues (s : State) (k : Nat) (bs : List Byte) : (s.writeMem k bs).queues = s.queues := rfl
@[simp] theorem State.writeMem_regions (s : State) (k : Nat) (bs : List Byte) : (s.writeMem k bs).regions = s.regions := rfl
@[simp] theorem State.writeMem_islands (s : State) (k : Nat) (bs : List Byte) : (s.writeMem k bs).islands = s.islands := rfl
@[simp] theorem State.writeMem_tags (s : State) (k : Nat) (bs : List Byte) : (s.writeMem k bs).tags = s.tags := rfl
@[simp] theorem State.writeMem_tlb (s : State) (k : Nat) (bs : List Byte) : (s.writeMem k bs).tlb = s.tlb := rfl
@[simp] theorem State.writeMem_walks (s : State) (k : Nat) (bs : List Byte) : (s.writeMem k bs).walks = s.walks := rfl
@[simp] theorem State.writeMem_l1 (s : State) (k : Nat) (bs : List Byte) : (s.writeMem k bs).l1 = s.l1 := rfl
@[simp] theorem State.writeMem_l2 (s : State) (k : Nat) (bs : List Byte) : (s.writeMem k bs).l2 = s.l2 := rfl
@[simp] theorem State.writeMem_mapping (s : State) (k : Nat) (bs : List Byte) : (s.writeMem k bs).mapping = s.mapping := rfl
@[simp] theorem State.writeMem_acks (s : State) (k : Nat) (bs : List Byte) : (s.writeMem k bs).acks = s.acks := rfl
@[simp] theorem State.writeMem_asks (s : State) (k : Nat) (bs : List Byte) : (s.writeMem k bs).asks = s.asks := rfl
@[simp] theorem State.writeMem_waits (s : State) (k : Nat) (bs : List Byte) : (s.writeMem k bs).waits = s.waits := rfl
@[simp] theorem State.writeMem_parts (s : State) (k : Nat) (bs : List Byte) : (s.writeMem k bs).parts = s.parts := rfl
@[simp] theorem State.writeMem_sorts (s : State) (k : Nat) (bs : List Byte) : (s.writeMem k bs).sorts = s.sorts := rfl
@[simp] theorem State.writeMem_replicas (s : State) (k : Nat) (bs : List Byte) : (s.writeMem k bs).replicas = s.replicas := rfl
@[simp] theorem State.writeMem_migrations (s : State) (k : Nat) (bs : List Byte) : (s.writeMem k bs).migrations = s.migrations := rfl
@[simp] theorem State.writeMem_held (s : State) (k : Nat) (bs : List Byte) : (s.writeMem k bs).held = s.held := rfl
@[simp] theorem State.writeMem_packets (s : State) (k : Nat) (bs : List Byte) : (s.writeMem k bs).packets = s.packets := rfl
@[simp] theorem State.writeMem_traces (s : State) (k : Nat) (bs : List Byte) : (s.writeMem k bs).traces = s.traces := rfl
@[simp] theorem State.writeMem_fabricOut (s : State) (k : Nat) (bs : List Byte) : (s.writeMem k bs).fabricOut = s.fabricOut := rfl
@[simp] theorem State.writeMem_controlWrites (s : State) (k : Nat) (bs : List Byte) : (s.writeMem k bs).controlWrites = s.controlWrites := rfl
@[simp] theorem State.writeMem_links (s : State) (k : Nat) (bs : List Byte) : (s.writeMem k bs).links = s.links := rfl
@[simp] theorem State.writeMem_lency (s : State) (k : Nat) (bs : List Byte) : (s.writeMem k bs).lency = s.lency := rfl
@[simp] theorem State.writeMem_fatals (s : State) (k : Nat) (bs : List Byte) : (s.writeMem k bs).fatals = s.fatals := rfl
@[simp] theorem State.writeMem_frozen (s : State) (k : Nat) (bs : List Byte) : (s.writeMem k bs).frozen = s.frozen := rfl
@[simp] theorem State.writeMem_agenda (s : State) (k : Nat) (bs : List Byte) : (s.writeMem k bs).agenda = s.agenda := rfl
@[simp] theorem State.writeMem_tick (s : State) (k : Nat) (bs : List Byte) : (s.writeMem k bs).tick = s.tick := rfl
@[simp] theorem State.writeMem_cycle (s : State) (k : Nat) (bs : List Byte) : (s.writeMem k bs).cycle = s.cycle := rfl
@[simp] theorem State.writeMem_ns (s : State) (k : Nat) (bs : List Byte) : (s.writeMem k bs).ns = s.ns := rfl
@[simp] theorem State.writeMem_chosen (s : State) (k : Nat) (bs : List Byte) : (s.writeMem k bs).chosen = s.chosen := rfl
@[simp] theorem State.writeMem_cur (s : State) (k : Nat) (bs : List Byte) : (s.writeMem k bs).cur = s.cur := rfl
@[simp] theorem State.writeMem_granted (s : State) (k : Nat) (bs : List Byte) : (s.writeMem k bs).granted = s.granted := rfl
@[simp] theorem State.writeMem_halted (s : State) (k : Nat) (bs : List Byte) : (s.writeMem k bs).halted = s.halted := rfl
@[simp] theorem State.writeMem_loose (s : State) (k : Nat) (bs : List Byte) : (s.writeMem k bs).loose = s.loose := rfl
@[simp] theorem State.writeMem_fair (s : State) (k : Nat) (bs : List Byte) : (s.writeMem k bs).fair = s.fair := rfl
@[simp] theorem State.writeMem_firmware (s : State) (k : Nat) (bs : List Byte) : (s.writeMem k bs).firmware = s.firmware := rfl
@[simp] theorem State.writeMem_measured (s : State) (k : Nat) (bs : List Byte) : (s.writeMem k bs).measured = s.measured := rfl

@[simp] theorem State.writeTag_ident (s : State) (k : Nat) (t : BitVec 4) : (s.writeTag k t).ident = s.ident := rfl
@[simp] theorem State.writeTag_groups (s : State) (k : Nat) (t : BitVec 4) : (s.writeTag k t).groups = s.groups := rfl
@[simp] theorem State.writeTag_workgroups (s : State) (k : Nat) (t : BitVec 4) : (s.writeTag k t).workgroups = s.workgroups := rfl
@[simp] theorem State.writeTag_launches (s : State) (k : Nat) (t : BitVec 4) : (s.writeTag k t).launches = s.launches := rfl
@[simp] theorem State.writeTag_children (s : State) (k : Nat) (t : BitVec 4) : (s.writeTag k t).children = s.children := rfl
@[simp] theorem State.writeTag_passes (s : State) (k : Nat) (t : BitVec 4) : (s.writeTag k t).passes = s.passes := rfl
@[simp] theorem State.writeTag_contexts (s : State) (k : Nat) (t : BitVec 4) : (s.writeTag k t).contexts = s.contexts := rfl
@[simp] theorem State.writeTag_dies (s : State) (k : Nat) (t : BitVec 4) : (s.writeTag k t).dies = s.dies := rfl
@[simp] theorem State.writeTag_queues (s : State) (k : Nat) (t : BitVec 4) : (s.writeTag k t).queues = s.queues := rfl
@[simp] theorem State.writeTag_regions (s : State) (k : Nat) (t : BitVec 4) : (s.writeTag k t).regions = s.regions := rfl
@[simp] theorem State.writeTag_islands (s : State) (k : Nat) (t : BitVec 4) : (s.writeTag k t).islands = s.islands := rfl
@[simp] theorem State.writeTag_mem (s : State) (k : Nat) (t : BitVec 4) : (s.writeTag k t).mem = s.mem := rfl
@[simp] theorem State.writeTag_poison (s : State) (k : Nat) (t : BitVec 4) : (s.writeTag k t).poison = s.poison := rfl
@[simp] theorem State.writeTag_tlb (s : State) (k : Nat) (t : BitVec 4) : (s.writeTag k t).tlb = s.tlb := rfl
@[simp] theorem State.writeTag_walks (s : State) (k : Nat) (t : BitVec 4) : (s.writeTag k t).walks = s.walks := rfl
@[simp] theorem State.writeTag_l1 (s : State) (k : Nat) (t : BitVec 4) : (s.writeTag k t).l1 = s.l1 := rfl
@[simp] theorem State.writeTag_l2 (s : State) (k : Nat) (t : BitVec 4) : (s.writeTag k t).l2 = s.l2 := rfl
@[simp] theorem State.writeTag_mapping (s : State) (k : Nat) (t : BitVec 4) : (s.writeTag k t).mapping = s.mapping := rfl
@[simp] theorem State.writeTag_acks (s : State) (k : Nat) (t : BitVec 4) : (s.writeTag k t).acks = s.acks := rfl
@[simp] theorem State.writeTag_asks (s : State) (k : Nat) (t : BitVec 4) : (s.writeTag k t).asks = s.asks := rfl
@[simp] theorem State.writeTag_waits (s : State) (k : Nat) (t : BitVec 4) : (s.writeTag k t).waits = s.waits := rfl
@[simp] theorem State.writeTag_parts (s : State) (k : Nat) (t : BitVec 4) : (s.writeTag k t).parts = s.parts := rfl
@[simp] theorem State.writeTag_sorts (s : State) (k : Nat) (t : BitVec 4) : (s.writeTag k t).sorts = s.sorts := rfl
@[simp] theorem State.writeTag_replicas (s : State) (k : Nat) (t : BitVec 4) : (s.writeTag k t).replicas = s.replicas := rfl
@[simp] theorem State.writeTag_migrations (s : State) (k : Nat) (t : BitVec 4) : (s.writeTag k t).migrations = s.migrations := rfl
@[simp] theorem State.writeTag_held (s : State) (k : Nat) (t : BitVec 4) : (s.writeTag k t).held = s.held := rfl
@[simp] theorem State.writeTag_packets (s : State) (k : Nat) (t : BitVec 4) : (s.writeTag k t).packets = s.packets := rfl
@[simp] theorem State.writeTag_traces (s : State) (k : Nat) (t : BitVec 4) : (s.writeTag k t).traces = s.traces := rfl
@[simp] theorem State.writeTag_fabricOut (s : State) (k : Nat) (t : BitVec 4) : (s.writeTag k t).fabricOut = s.fabricOut := rfl
@[simp] theorem State.writeTag_controlWrites (s : State) (k : Nat) (t : BitVec 4) : (s.writeTag k t).controlWrites = s.controlWrites := rfl
@[simp] theorem State.writeTag_links (s : State) (k : Nat) (t : BitVec 4) : (s.writeTag k t).links = s.links := rfl
@[simp] theorem State.writeTag_lency (s : State) (k : Nat) (t : BitVec 4) : (s.writeTag k t).lency = s.lency := rfl
@[simp] theorem State.writeTag_fatals (s : State) (k : Nat) (t : BitVec 4) : (s.writeTag k t).fatals = s.fatals := rfl
@[simp] theorem State.writeTag_frozen (s : State) (k : Nat) (t : BitVec 4) : (s.writeTag k t).frozen = s.frozen := rfl
@[simp] theorem State.writeTag_agenda (s : State) (k : Nat) (t : BitVec 4) : (s.writeTag k t).agenda = s.agenda := rfl
@[simp] theorem State.writeTag_tick (s : State) (k : Nat) (t : BitVec 4) : (s.writeTag k t).tick = s.tick := rfl
@[simp] theorem State.writeTag_cycle (s : State) (k : Nat) (t : BitVec 4) : (s.writeTag k t).cycle = s.cycle := rfl
@[simp] theorem State.writeTag_ns (s : State) (k : Nat) (t : BitVec 4) : (s.writeTag k t).ns = s.ns := rfl
@[simp] theorem State.writeTag_chosen (s : State) (k : Nat) (t : BitVec 4) : (s.writeTag k t).chosen = s.chosen := rfl
@[simp] theorem State.writeTag_cur (s : State) (k : Nat) (t : BitVec 4) : (s.writeTag k t).cur = s.cur := rfl
@[simp] theorem State.writeTag_granted (s : State) (k : Nat) (t : BitVec 4) : (s.writeTag k t).granted = s.granted := rfl
@[simp] theorem State.writeTag_halted (s : State) (k : Nat) (t : BitVec 4) : (s.writeTag k t).halted = s.halted := rfl
@[simp] theorem State.writeTag_loose (s : State) (k : Nat) (t : BitVec 4) : (s.writeTag k t).loose = s.loose := rfl
@[simp] theorem State.writeTag_fair (s : State) (k : Nat) (t : BitVec 4) : (s.writeTag k t).fair = s.fair := rfl
@[simp] theorem State.writeTag_firmware (s : State) (k : Nat) (t : BitVec 4) : (s.writeTag k t).firmware = s.firmware := rfl
@[simp] theorem State.writeTag_measured (s : State) (k : Nat) (t : BitVec 4) : (s.writeTag k t).measured = s.measured := rfl

@[simp] theorem State.bump_ident (s : State) : (s.bump).ident = s.ident := rfl
@[simp] theorem State.bump_groups (s : State) : (s.bump).groups = s.groups := rfl
@[simp] theorem State.bump_workgroups (s : State) : (s.bump).workgroups = s.workgroups := rfl
@[simp] theorem State.bump_launches (s : State) : (s.bump).launches = s.launches := rfl
@[simp] theorem State.bump_children (s : State) : (s.bump).children = s.children := rfl
@[simp] theorem State.bump_passes (s : State) : (s.bump).passes = s.passes := rfl
@[simp] theorem State.bump_contexts (s : State) : (s.bump).contexts = s.contexts := rfl
@[simp] theorem State.bump_dies (s : State) : (s.bump).dies = s.dies := rfl
@[simp] theorem State.bump_queues (s : State) : (s.bump).queues = s.queues := rfl
@[simp] theorem State.bump_regions (s : State) : (s.bump).regions = s.regions := rfl
@[simp] theorem State.bump_islands (s : State) : (s.bump).islands = s.islands := rfl
@[simp] theorem State.bump_mem (s : State) : (s.bump).mem = s.mem := rfl
@[simp] theorem State.bump_tags (s : State) : (s.bump).tags = s.tags := rfl
@[simp] theorem State.bump_poison (s : State) : (s.bump).poison = s.poison := rfl
@[simp] theorem State.bump_tlb (s : State) : (s.bump).tlb = s.tlb := rfl
@[simp] theorem State.bump_walks (s : State) : (s.bump).walks = s.walks := rfl
@[simp] theorem State.bump_l1 (s : State) : (s.bump).l1 = s.l1 := rfl
@[simp] theorem State.bump_l2 (s : State) : (s.bump).l2 = s.l2 := rfl
@[simp] theorem State.bump_mapping (s : State) : (s.bump).mapping = s.mapping := rfl
@[simp] theorem State.bump_acks (s : State) : (s.bump).acks = s.acks := rfl
@[simp] theorem State.bump_asks (s : State) : (s.bump).asks = s.asks := rfl
@[simp] theorem State.bump_waits (s : State) : (s.bump).waits = s.waits := rfl
@[simp] theorem State.bump_parts (s : State) : (s.bump).parts = s.parts := rfl
@[simp] theorem State.bump_sorts (s : State) : (s.bump).sorts = s.sorts := rfl
@[simp] theorem State.bump_replicas (s : State) : (s.bump).replicas = s.replicas := rfl
@[simp] theorem State.bump_migrations (s : State) : (s.bump).migrations = s.migrations := rfl
@[simp] theorem State.bump_held (s : State) : (s.bump).held = s.held := rfl
@[simp] theorem State.bump_packets (s : State) : (s.bump).packets = s.packets := rfl
@[simp] theorem State.bump_traces (s : State) : (s.bump).traces = s.traces := rfl
@[simp] theorem State.bump_fabricOut (s : State) : (s.bump).fabricOut = s.fabricOut := rfl
@[simp] theorem State.bump_controlWrites (s : State) : (s.bump).controlWrites = s.controlWrites := rfl
@[simp] theorem State.bump_links (s : State) : (s.bump).links = s.links := rfl
@[simp] theorem State.bump_lency (s : State) : (s.bump).lency = s.lency := rfl
@[simp] theorem State.bump_fatals (s : State) : (s.bump).fatals = s.fatals := rfl
@[simp] theorem State.bump_frozen (s : State) : (s.bump).frozen = s.frozen := rfl
@[simp] theorem State.bump_agenda (s : State) : (s.bump).agenda = s.agenda := rfl
@[simp] theorem State.bump_cycle (s : State) : (s.bump).cycle = s.cycle := rfl
@[simp] theorem State.bump_ns (s : State) : (s.bump).ns = s.ns := rfl
@[simp] theorem State.bump_chosen (s : State) : (s.bump).chosen = s.chosen := rfl
@[simp] theorem State.bump_cur (s : State) : (s.bump).cur = s.cur := rfl
@[simp] theorem State.bump_granted (s : State) : (s.bump).granted = s.granted := rfl
@[simp] theorem State.bump_halted (s : State) : (s.bump).halted = s.halted := rfl
@[simp] theorem State.bump_loose (s : State) : (s.bump).loose = s.loose := rfl
@[simp] theorem State.bump_fair (s : State) : (s.bump).fair = s.fair := rfl
@[simp] theorem State.bump_firmware (s : State) : (s.bump).firmware = s.firmware := rfl
@[simp] theorem State.bump_measured (s : State) : (s.bump).measured = s.measured := rfl

@[simp] theorem State.clock_ident (s : State) : (s.clock).ident = s.ident := rfl
@[simp] theorem State.clock_groups (s : State) : (s.clock).groups = s.groups := rfl
@[simp] theorem State.clock_workgroups (s : State) : (s.clock).workgroups = s.workgroups := rfl
@[simp] theorem State.clock_launches (s : State) : (s.clock).launches = s.launches := rfl
@[simp] theorem State.clock_children (s : State) : (s.clock).children = s.children := rfl
@[simp] theorem State.clock_passes (s : State) : (s.clock).passes = s.passes := rfl
@[simp] theorem State.clock_contexts (s : State) : (s.clock).contexts = s.contexts := rfl
@[simp] theorem State.clock_dies (s : State) : (s.clock).dies = s.dies := rfl
@[simp] theorem State.clock_queues (s : State) : (s.clock).queues = s.queues := rfl
@[simp] theorem State.clock_regions (s : State) : (s.clock).regions = s.regions := rfl
@[simp] theorem State.clock_islands (s : State) : (s.clock).islands = s.islands := rfl
@[simp] theorem State.clock_mem (s : State) : (s.clock).mem = s.mem := rfl
@[simp] theorem State.clock_tags (s : State) : (s.clock).tags = s.tags := rfl
@[simp] theorem State.clock_poison (s : State) : (s.clock).poison = s.poison := rfl
@[simp] theorem State.clock_tlb (s : State) : (s.clock).tlb = s.tlb := rfl
@[simp] theorem State.clock_walks (s : State) : (s.clock).walks = s.walks := rfl
@[simp] theorem State.clock_l1 (s : State) : (s.clock).l1 = s.l1 := rfl
@[simp] theorem State.clock_l2 (s : State) : (s.clock).l2 = s.l2 := rfl
@[simp] theorem State.clock_mapping (s : State) : (s.clock).mapping = s.mapping := rfl
@[simp] theorem State.clock_acks (s : State) : (s.clock).acks = s.acks := rfl
@[simp] theorem State.clock_asks (s : State) : (s.clock).asks = s.asks := rfl
@[simp] theorem State.clock_waits (s : State) : (s.clock).waits = s.waits := rfl
@[simp] theorem State.clock_parts (s : State) : (s.clock).parts = s.parts := rfl
@[simp] theorem State.clock_sorts (s : State) : (s.clock).sorts = s.sorts := rfl
@[simp] theorem State.clock_replicas (s : State) : (s.clock).replicas = s.replicas := rfl
@[simp] theorem State.clock_migrations (s : State) : (s.clock).migrations = s.migrations := rfl
@[simp] theorem State.clock_held (s : State) : (s.clock).held = s.held := rfl
@[simp] theorem State.clock_packets (s : State) : (s.clock).packets = s.packets := rfl
@[simp] theorem State.clock_traces (s : State) : (s.clock).traces = s.traces := rfl
@[simp] theorem State.clock_fabricOut (s : State) : (s.clock).fabricOut = s.fabricOut := rfl
@[simp] theorem State.clock_controlWrites (s : State) : (s.clock).controlWrites = s.controlWrites := rfl
@[simp] theorem State.clock_links (s : State) : (s.clock).links = s.links := rfl
@[simp] theorem State.clock_lency (s : State) : (s.clock).lency = s.lency := rfl
@[simp] theorem State.clock_fatals (s : State) : (s.clock).fatals = s.fatals := rfl
@[simp] theorem State.clock_frozen (s : State) : (s.clock).frozen = s.frozen := rfl
@[simp] theorem State.clock_agenda (s : State) : (s.clock).agenda = s.agenda := rfl
@[simp] theorem State.clock_tick (s : State) : (s.clock).tick = s.tick := rfl
@[simp] theorem State.clock_chosen (s : State) : (s.clock).chosen = s.chosen := rfl
@[simp] theorem State.clock_cur (s : State) : (s.clock).cur = s.cur := rfl
@[simp] theorem State.clock_granted (s : State) : (s.clock).granted = s.granted := rfl
@[simp] theorem State.clock_halted (s : State) : (s.clock).halted = s.halted := rfl
@[simp] theorem State.clock_loose (s : State) : (s.clock).loose = s.loose := rfl
@[simp] theorem State.clock_fair (s : State) : (s.clock).fair = s.fair := rfl
@[simp] theorem State.clock_firmware (s : State) : (s.clock).firmware = s.firmware := rfl
@[simp] theorem State.clock_measured (s : State) : (s.clock).measured = s.measured := rfl

@[simp] theorem State.roll_ident (s : State) : (s.roll).ident = s.ident := rfl
@[simp] theorem State.roll_groups (s : State) : (s.roll).groups = s.groups := rfl
@[simp] theorem State.roll_workgroups (s : State) : (s.roll).workgroups = s.workgroups := rfl
@[simp] theorem State.roll_launches (s : State) : (s.roll).launches = s.launches := rfl
@[simp] theorem State.roll_children (s : State) : (s.roll).children = s.children := rfl
@[simp] theorem State.roll_passes (s : State) : (s.roll).passes = s.passes := rfl
@[simp] theorem State.roll_contexts (s : State) : (s.roll).contexts = s.contexts := rfl
@[simp] theorem State.roll_dies (s : State) : (s.roll).dies = s.dies := rfl
@[simp] theorem State.roll_queues (s : State) : (s.roll).queues = s.queues := rfl
@[simp] theorem State.roll_regions (s : State) : (s.roll).regions = s.regions := rfl
@[simp] theorem State.roll_islands (s : State) : (s.roll).islands = s.islands := rfl
@[simp] theorem State.roll_mem (s : State) : (s.roll).mem = s.mem := rfl
@[simp] theorem State.roll_tags (s : State) : (s.roll).tags = s.tags := rfl
@[simp] theorem State.roll_poison (s : State) : (s.roll).poison = s.poison := rfl
@[simp] theorem State.roll_tlb (s : State) : (s.roll).tlb = s.tlb := rfl
@[simp] theorem State.roll_walks (s : State) : (s.roll).walks = s.walks := rfl
@[simp] theorem State.roll_l1 (s : State) : (s.roll).l1 = s.l1 := rfl
@[simp] theorem State.roll_l2 (s : State) : (s.roll).l2 = s.l2 := rfl
@[simp] theorem State.roll_mapping (s : State) : (s.roll).mapping = s.mapping := rfl
@[simp] theorem State.roll_acks (s : State) : (s.roll).acks = s.acks := rfl
@[simp] theorem State.roll_asks (s : State) : (s.roll).asks = s.asks := rfl
@[simp] theorem State.roll_waits (s : State) : (s.roll).waits = s.waits := rfl
@[simp] theorem State.roll_parts (s : State) : (s.roll).parts = s.parts := rfl
@[simp] theorem State.roll_sorts (s : State) : (s.roll).sorts = s.sorts := rfl
@[simp] theorem State.roll_replicas (s : State) : (s.roll).replicas = s.replicas := rfl
@[simp] theorem State.roll_migrations (s : State) : (s.roll).migrations = s.migrations := rfl
@[simp] theorem State.roll_held (s : State) : (s.roll).held = s.held := rfl
@[simp] theorem State.roll_packets (s : State) : (s.roll).packets = s.packets := rfl
@[simp] theorem State.roll_traces (s : State) : (s.roll).traces = s.traces := rfl
@[simp] theorem State.roll_fabricOut (s : State) : (s.roll).fabricOut = s.fabricOut := rfl
@[simp] theorem State.roll_controlWrites (s : State) : (s.roll).controlWrites = s.controlWrites := rfl
@[simp] theorem State.roll_links (s : State) : (s.roll).links = s.links := rfl
@[simp] theorem State.roll_lency (s : State) : (s.roll).lency = s.lency := rfl
@[simp] theorem State.roll_fatals (s : State) : (s.roll).fatals = s.fatals := rfl
@[simp] theorem State.roll_frozen (s : State) : (s.roll).frozen = s.frozen := rfl
@[simp] theorem State.roll_agenda (s : State) : (s.roll).agenda = s.agenda := rfl
@[simp] theorem State.roll_tick (s : State) : (s.roll).tick = s.tick := rfl
@[simp] theorem State.roll_cycle (s : State) : (s.roll).cycle = s.cycle := rfl
@[simp] theorem State.roll_ns (s : State) : (s.roll).ns = s.ns := rfl
@[simp] theorem State.roll_chosen (s : State) : (s.roll).chosen = s.chosen := rfl
@[simp] theorem State.roll_cur (s : State) : (s.roll).cur = s.cur := rfl
@[simp] theorem State.roll_granted (s : State) : (s.roll).granted = s.granted := rfl
@[simp] theorem State.roll_halted (s : State) : (s.roll).halted = s.halted := rfl
@[simp] theorem State.roll_firmware (s : State) : (s.roll).firmware = s.firmware := rfl
@[simp] theorem State.roll_measured (s : State) : (s.roll).measured = s.measured := rfl

@[simp] theorem State.sendFabric_ident (s : State) (n : Nat) (p : MeshPacket) (o : Option (Nat × Nat)) (r : Nat) : (s.sendFabric n p o r).ident = s.ident := rfl
@[simp] theorem State.sendFabric_groups (s : State) (n : Nat) (p : MeshPacket) (o : Option (Nat × Nat)) (r : Nat) : (s.sendFabric n p o r).groups = s.groups := rfl
@[simp] theorem State.sendFabric_workgroups (s : State) (n : Nat) (p : MeshPacket) (o : Option (Nat × Nat)) (r : Nat) : (s.sendFabric n p o r).workgroups = s.workgroups := rfl
@[simp] theorem State.sendFabric_launches (s : State) (n : Nat) (p : MeshPacket) (o : Option (Nat × Nat)) (r : Nat) : (s.sendFabric n p o r).launches = s.launches := rfl
@[simp] theorem State.sendFabric_children (s : State) (n : Nat) (p : MeshPacket) (o : Option (Nat × Nat)) (r : Nat) : (s.sendFabric n p o r).children = s.children := rfl
@[simp] theorem State.sendFabric_passes (s : State) (n : Nat) (p : MeshPacket) (o : Option (Nat × Nat)) (r : Nat) : (s.sendFabric n p o r).passes = s.passes := rfl
@[simp] theorem State.sendFabric_contexts (s : State) (n : Nat) (p : MeshPacket) (o : Option (Nat × Nat)) (r : Nat) : (s.sendFabric n p o r).contexts = s.contexts := rfl
@[simp] theorem State.sendFabric_dies (s : State) (n : Nat) (p : MeshPacket) (o : Option (Nat × Nat)) (r : Nat) : (s.sendFabric n p o r).dies = s.dies := rfl
@[simp] theorem State.sendFabric_queues (s : State) (n : Nat) (p : MeshPacket) (o : Option (Nat × Nat)) (r : Nat) : (s.sendFabric n p o r).queues = s.queues := rfl
@[simp] theorem State.sendFabric_regions (s : State) (n : Nat) (p : MeshPacket) (o : Option (Nat × Nat)) (r : Nat) : (s.sendFabric n p o r).regions = s.regions := rfl
@[simp] theorem State.sendFabric_islands (s : State) (n : Nat) (p : MeshPacket) (o : Option (Nat × Nat)) (r : Nat) : (s.sendFabric n p o r).islands = s.islands := rfl
@[simp] theorem State.sendFabric_mem (s : State) (n : Nat) (p : MeshPacket) (o : Option (Nat × Nat)) (r : Nat) : (s.sendFabric n p o r).mem = s.mem := rfl
@[simp] theorem State.sendFabric_tags (s : State) (n : Nat) (p : MeshPacket) (o : Option (Nat × Nat)) (r : Nat) : (s.sendFabric n p o r).tags = s.tags := rfl
@[simp] theorem State.sendFabric_poison (s : State) (n : Nat) (p : MeshPacket) (o : Option (Nat × Nat)) (r : Nat) : (s.sendFabric n p o r).poison = s.poison := rfl
@[simp] theorem State.sendFabric_tlb (s : State) (n : Nat) (p : MeshPacket) (o : Option (Nat × Nat)) (r : Nat) : (s.sendFabric n p o r).tlb = s.tlb := rfl
@[simp] theorem State.sendFabric_walks (s : State) (n : Nat) (p : MeshPacket) (o : Option (Nat × Nat)) (r : Nat) : (s.sendFabric n p o r).walks = s.walks := rfl
@[simp] theorem State.sendFabric_l1 (s : State) (n : Nat) (p : MeshPacket) (o : Option (Nat × Nat)) (r : Nat) : (s.sendFabric n p o r).l1 = s.l1 := rfl
@[simp] theorem State.sendFabric_l2 (s : State) (n : Nat) (p : MeshPacket) (o : Option (Nat × Nat)) (r : Nat) : (s.sendFabric n p o r).l2 = s.l2 := rfl
@[simp] theorem State.sendFabric_mapping (s : State) (n : Nat) (p : MeshPacket) (o : Option (Nat × Nat)) (r : Nat) : (s.sendFabric n p o r).mapping = s.mapping := rfl
@[simp] theorem State.sendFabric_acks (s : State) (n : Nat) (p : MeshPacket) (o : Option (Nat × Nat)) (r : Nat) : (s.sendFabric n p o r).acks = s.acks := rfl
@[simp] theorem State.sendFabric_asks (s : State) (n : Nat) (p : MeshPacket) (o : Option (Nat × Nat)) (r : Nat) : (s.sendFabric n p o r).asks = s.asks := rfl
@[simp] theorem State.sendFabric_waits (s : State) (n : Nat) (p : MeshPacket) (o : Option (Nat × Nat)) (r : Nat) : (s.sendFabric n p o r).waits = s.waits := rfl
@[simp] theorem State.sendFabric_parts (s : State) (n : Nat) (p : MeshPacket) (o : Option (Nat × Nat)) (r : Nat) : (s.sendFabric n p o r).parts = s.parts := rfl
@[simp] theorem State.sendFabric_sorts (s : State) (n : Nat) (p : MeshPacket) (o : Option (Nat × Nat)) (r : Nat) : (s.sendFabric n p o r).sorts = s.sorts := rfl
@[simp] theorem State.sendFabric_replicas (s : State) (n : Nat) (p : MeshPacket) (o : Option (Nat × Nat)) (r : Nat) : (s.sendFabric n p o r).replicas = s.replicas := rfl
@[simp] theorem State.sendFabric_migrations (s : State) (n : Nat) (p : MeshPacket) (o : Option (Nat × Nat)) (r : Nat) : (s.sendFabric n p o r).migrations = s.migrations := rfl
@[simp] theorem State.sendFabric_held (s : State) (n : Nat) (p : MeshPacket) (o : Option (Nat × Nat)) (r : Nat) : (s.sendFabric n p o r).held = s.held := rfl
@[simp] theorem State.sendFabric_packets (s : State) (n : Nat) (p : MeshPacket) (o : Option (Nat × Nat)) (r : Nat) : (s.sendFabric n p o r).packets = s.packets := rfl
@[simp] theorem State.sendFabric_traces (s : State) (n : Nat) (p : MeshPacket) (o : Option (Nat × Nat)) (r : Nat) : (s.sendFabric n p o r).traces = s.traces := rfl
@[simp] theorem State.sendFabric_controlWrites (s : State) (n : Nat) (p : MeshPacket) (o : Option (Nat × Nat)) (r : Nat) : (s.sendFabric n p o r).controlWrites = s.controlWrites := rfl
@[simp] theorem State.sendFabric_links (s : State) (n : Nat) (p : MeshPacket) (o : Option (Nat × Nat)) (r : Nat) : (s.sendFabric n p o r).links = s.links := rfl
@[simp] theorem State.sendFabric_lency (s : State) (n : Nat) (p : MeshPacket) (o : Option (Nat × Nat)) (r : Nat) : (s.sendFabric n p o r).lency = s.lency := rfl
@[simp] theorem State.sendFabric_fatals (s : State) (n : Nat) (p : MeshPacket) (o : Option (Nat × Nat)) (r : Nat) : (s.sendFabric n p o r).fatals = s.fatals := rfl
@[simp] theorem State.sendFabric_frozen (s : State) (n : Nat) (p : MeshPacket) (o : Option (Nat × Nat)) (r : Nat) : (s.sendFabric n p o r).frozen = s.frozen := rfl
@[simp] theorem State.sendFabric_agenda (s : State) (n : Nat) (p : MeshPacket) (o : Option (Nat × Nat)) (r : Nat) : (s.sendFabric n p o r).agenda = s.agenda := rfl
@[simp] theorem State.sendFabric_tick (s : State) (n : Nat) (p : MeshPacket) (o : Option (Nat × Nat)) (r : Nat) : (s.sendFabric n p o r).tick = s.tick := rfl
@[simp] theorem State.sendFabric_cycle (s : State) (n : Nat) (p : MeshPacket) (o : Option (Nat × Nat)) (r : Nat) : (s.sendFabric n p o r).cycle = s.cycle := rfl
@[simp] theorem State.sendFabric_ns (s : State) (n : Nat) (p : MeshPacket) (o : Option (Nat × Nat)) (r : Nat) : (s.sendFabric n p o r).ns = s.ns := rfl
@[simp] theorem State.sendFabric_chosen (s : State) (n : Nat) (p : MeshPacket) (o : Option (Nat × Nat)) (r : Nat) : (s.sendFabric n p o r).chosen = s.chosen := rfl
@[simp] theorem State.sendFabric_cur (s : State) (n : Nat) (p : MeshPacket) (o : Option (Nat × Nat)) (r : Nat) : (s.sendFabric n p o r).cur = s.cur := rfl
@[simp] theorem State.sendFabric_granted (s : State) (n : Nat) (p : MeshPacket) (o : Option (Nat × Nat)) (r : Nat) : (s.sendFabric n p o r).granted = s.granted := rfl
@[simp] theorem State.sendFabric_halted (s : State) (n : Nat) (p : MeshPacket) (o : Option (Nat × Nat)) (r : Nat) : (s.sendFabric n p o r).halted = s.halted := rfl
@[simp] theorem State.sendFabric_loose (s : State) (n : Nat) (p : MeshPacket) (o : Option (Nat × Nat)) (r : Nat) : (s.sendFabric n p o r).loose = s.loose := rfl
@[simp] theorem State.sendFabric_fair (s : State) (n : Nat) (p : MeshPacket) (o : Option (Nat × Nat)) (r : Nat) : (s.sendFabric n p o r).fair = s.fair := rfl
@[simp] theorem State.sendFabric_firmware (s : State) (n : Nat) (p : MeshPacket) (o : Option (Nat × Nat)) (r : Nat) : (s.sendFabric n p o r).firmware = s.firmware := rfl
@[simp] theorem State.sendFabric_measured (s : State) (n : Nat) (p : MeshPacket) (o : Option (Nat × Nat)) (r : Nat) : (s.sendFabric n p o r).measured = s.measured := rfl

@[simp] theorem State.cache_ident (s : State) (t : Tlb) : (s.cache t).ident = s.ident := rfl
@[simp] theorem State.cache_groups (s : State) (t : Tlb) : (s.cache t).groups = s.groups := rfl
@[simp] theorem State.cache_workgroups (s : State) (t : Tlb) : (s.cache t).workgroups = s.workgroups := rfl
@[simp] theorem State.cache_launches (s : State) (t : Tlb) : (s.cache t).launches = s.launches := rfl
@[simp] theorem State.cache_children (s : State) (t : Tlb) : (s.cache t).children = s.children := rfl
@[simp] theorem State.cache_passes (s : State) (t : Tlb) : (s.cache t).passes = s.passes := rfl
@[simp] theorem State.cache_contexts (s : State) (t : Tlb) : (s.cache t).contexts = s.contexts := rfl
@[simp] theorem State.cache_dies (s : State) (t : Tlb) : (s.cache t).dies = s.dies := rfl
@[simp] theorem State.cache_queues (s : State) (t : Tlb) : (s.cache t).queues = s.queues := rfl
@[simp] theorem State.cache_regions (s : State) (t : Tlb) : (s.cache t).regions = s.regions := rfl
@[simp] theorem State.cache_islands (s : State) (t : Tlb) : (s.cache t).islands = s.islands := rfl
@[simp] theorem State.cache_mem (s : State) (t : Tlb) : (s.cache t).mem = s.mem := rfl
@[simp] theorem State.cache_tags (s : State) (t : Tlb) : (s.cache t).tags = s.tags := rfl
@[simp] theorem State.cache_poison (s : State) (t : Tlb) : (s.cache t).poison = s.poison := rfl
@[simp] theorem State.cache_walks (s : State) (t : Tlb) : (s.cache t).walks = s.walks := rfl
@[simp] theorem State.cache_l1 (s : State) (t : Tlb) : (s.cache t).l1 = s.l1 := rfl
@[simp] theorem State.cache_l2 (s : State) (t : Tlb) : (s.cache t).l2 = s.l2 := rfl
@[simp] theorem State.cache_mapping (s : State) (t : Tlb) : (s.cache t).mapping = s.mapping := rfl
@[simp] theorem State.cache_acks (s : State) (t : Tlb) : (s.cache t).acks = s.acks := rfl
@[simp] theorem State.cache_asks (s : State) (t : Tlb) : (s.cache t).asks = s.asks := rfl
@[simp] theorem State.cache_waits (s : State) (t : Tlb) : (s.cache t).waits = s.waits := rfl
@[simp] theorem State.cache_parts (s : State) (t : Tlb) : (s.cache t).parts = s.parts := rfl
@[simp] theorem State.cache_sorts (s : State) (t : Tlb) : (s.cache t).sorts = s.sorts := rfl
@[simp] theorem State.cache_replicas (s : State) (t : Tlb) : (s.cache t).replicas = s.replicas := rfl
@[simp] theorem State.cache_migrations (s : State) (t : Tlb) : (s.cache t).migrations = s.migrations := rfl
@[simp] theorem State.cache_held (s : State) (t : Tlb) : (s.cache t).held = s.held := rfl
@[simp] theorem State.cache_packets (s : State) (t : Tlb) : (s.cache t).packets = s.packets := rfl
@[simp] theorem State.cache_traces (s : State) (t : Tlb) : (s.cache t).traces = s.traces := rfl
@[simp] theorem State.cache_fabricOut (s : State) (t : Tlb) : (s.cache t).fabricOut = s.fabricOut := rfl
@[simp] theorem State.cache_controlWrites (s : State) (t : Tlb) : (s.cache t).controlWrites = s.controlWrites := rfl
@[simp] theorem State.cache_links (s : State) (t : Tlb) : (s.cache t).links = s.links := rfl
@[simp] theorem State.cache_lency (s : State) (t : Tlb) : (s.cache t).lency = s.lency := rfl
@[simp] theorem State.cache_fatals (s : State) (t : Tlb) : (s.cache t).fatals = s.fatals := rfl
@[simp] theorem State.cache_frozen (s : State) (t : Tlb) : (s.cache t).frozen = s.frozen := rfl
@[simp] theorem State.cache_agenda (s : State) (t : Tlb) : (s.cache t).agenda = s.agenda := rfl
@[simp] theorem State.cache_tick (s : State) (t : Tlb) : (s.cache t).tick = s.tick := rfl
@[simp] theorem State.cache_cycle (s : State) (t : Tlb) : (s.cache t).cycle = s.cycle := rfl
@[simp] theorem State.cache_ns (s : State) (t : Tlb) : (s.cache t).ns = s.ns := rfl
@[simp] theorem State.cache_chosen (s : State) (t : Tlb) : (s.cache t).chosen = s.chosen := rfl
@[simp] theorem State.cache_cur (s : State) (t : Tlb) : (s.cache t).cur = s.cur := rfl
@[simp] theorem State.cache_granted (s : State) (t : Tlb) : (s.cache t).granted = s.granted := rfl
@[simp] theorem State.cache_halted (s : State) (t : Tlb) : (s.cache t).halted = s.halted := rfl
@[simp] theorem State.cache_loose (s : State) (t : Tlb) : (s.cache t).loose = s.loose := rfl
@[simp] theorem State.cache_fair (s : State) (t : Tlb) : (s.cache t).fair = s.fair := rfl
@[simp] theorem State.cache_firmware (s : State) (t : Tlb) : (s.cache t).firmware = s.firmware := rfl
@[simp] theorem State.cache_measured (s : State) (t : Tlb) : (s.cache t).measured = s.measured := rfl

@[simp] theorem State.fitL1_ident (s : State) (d c : Nat) : (s.fitL1 d c).ident = s.ident := rfl
@[simp] theorem State.fitL1_groups (s : State) (d c : Nat) : (s.fitL1 d c).groups = s.groups := rfl
@[simp] theorem State.fitL1_workgroups (s : State) (d c : Nat) : (s.fitL1 d c).workgroups = s.workgroups := rfl
@[simp] theorem State.fitL1_launches (s : State) (d c : Nat) : (s.fitL1 d c).launches = s.launches := rfl
@[simp] theorem State.fitL1_children (s : State) (d c : Nat) : (s.fitL1 d c).children = s.children := rfl
@[simp] theorem State.fitL1_passes (s : State) (d c : Nat) : (s.fitL1 d c).passes = s.passes := rfl
@[simp] theorem State.fitL1_contexts (s : State) (d c : Nat) : (s.fitL1 d c).contexts = s.contexts := rfl
@[simp] theorem State.fitL1_dies (s : State) (d c : Nat) : (s.fitL1 d c).dies = s.dies := rfl
@[simp] theorem State.fitL1_queues (s : State) (d c : Nat) : (s.fitL1 d c).queues = s.queues := rfl
@[simp] theorem State.fitL1_regions (s : State) (d c : Nat) : (s.fitL1 d c).regions = s.regions := rfl
@[simp] theorem State.fitL1_islands (s : State) (d c : Nat) : (s.fitL1 d c).islands = s.islands := rfl
@[simp] theorem State.fitL1_mem (s : State) (d c : Nat) : (s.fitL1 d c).mem = s.mem := rfl
@[simp] theorem State.fitL1_tags (s : State) (d c : Nat) : (s.fitL1 d c).tags = s.tags := rfl
@[simp] theorem State.fitL1_poison (s : State) (d c : Nat) : (s.fitL1 d c).poison = s.poison := rfl
@[simp] theorem State.fitL1_tlb (s : State) (d c : Nat) : (s.fitL1 d c).tlb = s.tlb := rfl
@[simp] theorem State.fitL1_walks (s : State) (d c : Nat) : (s.fitL1 d c).walks = s.walks := rfl
@[simp] theorem State.fitL1_l2 (s : State) (d c : Nat) : (s.fitL1 d c).l2 = s.l2 := rfl
@[simp] theorem State.fitL1_mapping (s : State) (d c : Nat) : (s.fitL1 d c).mapping = s.mapping := rfl
@[simp] theorem State.fitL1_acks (s : State) (d c : Nat) : (s.fitL1 d c).acks = s.acks := rfl
@[simp] theorem State.fitL1_asks (s : State) (d c : Nat) : (s.fitL1 d c).asks = s.asks := rfl
@[simp] theorem State.fitL1_waits (s : State) (d c : Nat) : (s.fitL1 d c).waits = s.waits := rfl
@[simp] theorem State.fitL1_parts (s : State) (d c : Nat) : (s.fitL1 d c).parts = s.parts := rfl
@[simp] theorem State.fitL1_sorts (s : State) (d c : Nat) : (s.fitL1 d c).sorts = s.sorts := rfl
@[simp] theorem State.fitL1_replicas (s : State) (d c : Nat) : (s.fitL1 d c).replicas = s.replicas := rfl
@[simp] theorem State.fitL1_migrations (s : State) (d c : Nat) : (s.fitL1 d c).migrations = s.migrations := rfl
@[simp] theorem State.fitL1_held (s : State) (d c : Nat) : (s.fitL1 d c).held = s.held := rfl
@[simp] theorem State.fitL1_packets (s : State) (d c : Nat) : (s.fitL1 d c).packets = s.packets := rfl
@[simp] theorem State.fitL1_traces (s : State) (d c : Nat) : (s.fitL1 d c).traces = s.traces := rfl
@[simp] theorem State.fitL1_fabricOut (s : State) (d c : Nat) : (s.fitL1 d c).fabricOut = s.fabricOut := rfl
@[simp] theorem State.fitL1_controlWrites (s : State) (d c : Nat) : (s.fitL1 d c).controlWrites = s.controlWrites := rfl
@[simp] theorem State.fitL1_links (s : State) (d c : Nat) : (s.fitL1 d c).links = s.links := rfl
@[simp] theorem State.fitL1_lency (s : State) (d c : Nat) : (s.fitL1 d c).lency = s.lency := rfl
@[simp] theorem State.fitL1_fatals (s : State) (d c : Nat) : (s.fitL1 d c).fatals = s.fatals := rfl
@[simp] theorem State.fitL1_frozen (s : State) (d c : Nat) : (s.fitL1 d c).frozen = s.frozen := rfl
@[simp] theorem State.fitL1_agenda (s : State) (d c : Nat) : (s.fitL1 d c).agenda = s.agenda := rfl
@[simp] theorem State.fitL1_tick (s : State) (d c : Nat) : (s.fitL1 d c).tick = s.tick := rfl
@[simp] theorem State.fitL1_cycle (s : State) (d c : Nat) : (s.fitL1 d c).cycle = s.cycle := rfl
@[simp] theorem State.fitL1_ns (s : State) (d c : Nat) : (s.fitL1 d c).ns = s.ns := rfl
@[simp] theorem State.fitL1_chosen (s : State) (d c : Nat) : (s.fitL1 d c).chosen = s.chosen := rfl
@[simp] theorem State.fitL1_cur (s : State) (d c : Nat) : (s.fitL1 d c).cur = s.cur := rfl
@[simp] theorem State.fitL1_granted (s : State) (d c : Nat) : (s.fitL1 d c).granted = s.granted := rfl
@[simp] theorem State.fitL1_halted (s : State) (d c : Nat) : (s.fitL1 d c).halted = s.halted := rfl
@[simp] theorem State.fitL1_loose (s : State) (d c : Nat) : (s.fitL1 d c).loose = s.loose := rfl
@[simp] theorem State.fitL1_fair (s : State) (d c : Nat) : (s.fitL1 d c).fair = s.fair := rfl
@[simp] theorem State.fitL1_firmware (s : State) (d c : Nat) : (s.fitL1 d c).firmware = s.firmware := rfl
@[simp] theorem State.fitL1_measured (s : State) (d c : Nat) : (s.fitL1 d c).measured = s.measured := rfl

@[simp] theorem State.dropLine_ident (s : State) (g : Group) (k : Nat) : (s.dropLine g k).ident = s.ident := rfl
@[simp] theorem State.dropLine_groups (s : State) (g : Group) (k : Nat) : (s.dropLine g k).groups = s.groups := rfl
@[simp] theorem State.dropLine_workgroups (s : State) (g : Group) (k : Nat) : (s.dropLine g k).workgroups = s.workgroups := rfl
@[simp] theorem State.dropLine_launches (s : State) (g : Group) (k : Nat) : (s.dropLine g k).launches = s.launches := rfl
@[simp] theorem State.dropLine_children (s : State) (g : Group) (k : Nat) : (s.dropLine g k).children = s.children := rfl
@[simp] theorem State.dropLine_passes (s : State) (g : Group) (k : Nat) : (s.dropLine g k).passes = s.passes := rfl
@[simp] theorem State.dropLine_contexts (s : State) (g : Group) (k : Nat) : (s.dropLine g k).contexts = s.contexts := rfl
@[simp] theorem State.dropLine_dies (s : State) (g : Group) (k : Nat) : (s.dropLine g k).dies = s.dies := rfl
@[simp] theorem State.dropLine_queues (s : State) (g : Group) (k : Nat) : (s.dropLine g k).queues = s.queues := rfl
@[simp] theorem State.dropLine_regions (s : State) (g : Group) (k : Nat) : (s.dropLine g k).regions = s.regions := rfl
@[simp] theorem State.dropLine_islands (s : State) (g : Group) (k : Nat) : (s.dropLine g k).islands = s.islands := rfl
@[simp] theorem State.dropLine_mem (s : State) (g : Group) (k : Nat) : (s.dropLine g k).mem = s.mem := rfl
@[simp] theorem State.dropLine_tags (s : State) (g : Group) (k : Nat) : (s.dropLine g k).tags = s.tags := rfl
@[simp] theorem State.dropLine_poison (s : State) (g : Group) (k : Nat) : (s.dropLine g k).poison = s.poison := rfl
@[simp] theorem State.dropLine_tlb (s : State) (g : Group) (k : Nat) : (s.dropLine g k).tlb = s.tlb := rfl
@[simp] theorem State.dropLine_walks (s : State) (g : Group) (k : Nat) : (s.dropLine g k).walks = s.walks := rfl
@[simp] theorem State.dropLine_l2 (s : State) (g : Group) (k : Nat) : (s.dropLine g k).l2 = s.l2 := rfl
@[simp] theorem State.dropLine_mapping (s : State) (g : Group) (k : Nat) : (s.dropLine g k).mapping = s.mapping := rfl
@[simp] theorem State.dropLine_acks (s : State) (g : Group) (k : Nat) : (s.dropLine g k).acks = s.acks := rfl
@[simp] theorem State.dropLine_asks (s : State) (g : Group) (k : Nat) : (s.dropLine g k).asks = s.asks := rfl
@[simp] theorem State.dropLine_waits (s : State) (g : Group) (k : Nat) : (s.dropLine g k).waits = s.waits := rfl
@[simp] theorem State.dropLine_parts (s : State) (g : Group) (k : Nat) : (s.dropLine g k).parts = s.parts := rfl
@[simp] theorem State.dropLine_sorts (s : State) (g : Group) (k : Nat) : (s.dropLine g k).sorts = s.sorts := rfl
@[simp] theorem State.dropLine_replicas (s : State) (g : Group) (k : Nat) : (s.dropLine g k).replicas = s.replicas := rfl
@[simp] theorem State.dropLine_migrations (s : State) (g : Group) (k : Nat) : (s.dropLine g k).migrations = s.migrations := rfl
@[simp] theorem State.dropLine_held (s : State) (g : Group) (k : Nat) : (s.dropLine g k).held = s.held := rfl
@[simp] theorem State.dropLine_packets (s : State) (g : Group) (k : Nat) : (s.dropLine g k).packets = s.packets := rfl
@[simp] theorem State.dropLine_traces (s : State) (g : Group) (k : Nat) : (s.dropLine g k).traces = s.traces := rfl
@[simp] theorem State.dropLine_fabricOut (s : State) (g : Group) (k : Nat) : (s.dropLine g k).fabricOut = s.fabricOut := rfl
@[simp] theorem State.dropLine_controlWrites (s : State) (g : Group) (k : Nat) : (s.dropLine g k).controlWrites = s.controlWrites := rfl
@[simp] theorem State.dropLine_links (s : State) (g : Group) (k : Nat) : (s.dropLine g k).links = s.links := rfl
@[simp] theorem State.dropLine_lency (s : State) (g : Group) (k : Nat) : (s.dropLine g k).lency = s.lency := rfl
@[simp] theorem State.dropLine_fatals (s : State) (g : Group) (k : Nat) : (s.dropLine g k).fatals = s.fatals := rfl
@[simp] theorem State.dropLine_frozen (s : State) (g : Group) (k : Nat) : (s.dropLine g k).frozen = s.frozen := rfl
@[simp] theorem State.dropLine_agenda (s : State) (g : Group) (k : Nat) : (s.dropLine g k).agenda = s.agenda := rfl
@[simp] theorem State.dropLine_tick (s : State) (g : Group) (k : Nat) : (s.dropLine g k).tick = s.tick := rfl
@[simp] theorem State.dropLine_cycle (s : State) (g : Group) (k : Nat) : (s.dropLine g k).cycle = s.cycle := rfl
@[simp] theorem State.dropLine_ns (s : State) (g : Group) (k : Nat) : (s.dropLine g k).ns = s.ns := rfl
@[simp] theorem State.dropLine_chosen (s : State) (g : Group) (k : Nat) : (s.dropLine g k).chosen = s.chosen := rfl
@[simp] theorem State.dropLine_cur (s : State) (g : Group) (k : Nat) : (s.dropLine g k).cur = s.cur := rfl
@[simp] theorem State.dropLine_granted (s : State) (g : Group) (k : Nat) : (s.dropLine g k).granted = s.granted := rfl
@[simp] theorem State.dropLine_halted (s : State) (g : Group) (k : Nat) : (s.dropLine g k).halted = s.halted := rfl
@[simp] theorem State.dropLine_loose (s : State) (g : Group) (k : Nat) : (s.dropLine g k).loose = s.loose := rfl
@[simp] theorem State.dropLine_fair (s : State) (g : Group) (k : Nat) : (s.dropLine g k).fair = s.fair := rfl
@[simp] theorem State.dropLine_firmware (s : State) (g : Group) (k : Nat) : (s.dropLine g k).firmware = s.firmware := rfl
@[simp] theorem State.dropLine_measured (s : State) (g : Group) (k : Nat) : (s.dropLine g k).measured = s.measured := rfl

@[simp] theorem State.writeLine_ident (s : State) (g : Group) (k : Nat) (bs : List Byte) : (s.writeLine g k bs).ident = s.ident := rfl
@[simp] theorem State.writeLine_groups (s : State) (g : Group) (k : Nat) (bs : List Byte) : (s.writeLine g k bs).groups = s.groups := rfl
@[simp] theorem State.writeLine_workgroups (s : State) (g : Group) (k : Nat) (bs : List Byte) : (s.writeLine g k bs).workgroups = s.workgroups := rfl
@[simp] theorem State.writeLine_launches (s : State) (g : Group) (k : Nat) (bs : List Byte) : (s.writeLine g k bs).launches = s.launches := rfl
@[simp] theorem State.writeLine_children (s : State) (g : Group) (k : Nat) (bs : List Byte) : (s.writeLine g k bs).children = s.children := rfl
@[simp] theorem State.writeLine_passes (s : State) (g : Group) (k : Nat) (bs : List Byte) : (s.writeLine g k bs).passes = s.passes := rfl
@[simp] theorem State.writeLine_contexts (s : State) (g : Group) (k : Nat) (bs : List Byte) : (s.writeLine g k bs).contexts = s.contexts := rfl
@[simp] theorem State.writeLine_dies (s : State) (g : Group) (k : Nat) (bs : List Byte) : (s.writeLine g k bs).dies = s.dies := rfl
@[simp] theorem State.writeLine_queues (s : State) (g : Group) (k : Nat) (bs : List Byte) : (s.writeLine g k bs).queues = s.queues := rfl
@[simp] theorem State.writeLine_regions (s : State) (g : Group) (k : Nat) (bs : List Byte) : (s.writeLine g k bs).regions = s.regions := rfl
@[simp] theorem State.writeLine_islands (s : State) (g : Group) (k : Nat) (bs : List Byte) : (s.writeLine g k bs).islands = s.islands := rfl
@[simp] theorem State.writeLine_mem (s : State) (g : Group) (k : Nat) (bs : List Byte) : (s.writeLine g k bs).mem = s.mem := rfl
@[simp] theorem State.writeLine_tags (s : State) (g : Group) (k : Nat) (bs : List Byte) : (s.writeLine g k bs).tags = s.tags := rfl
@[simp] theorem State.writeLine_poison (s : State) (g : Group) (k : Nat) (bs : List Byte) : (s.writeLine g k bs).poison = s.poison := rfl
@[simp] theorem State.writeLine_tlb (s : State) (g : Group) (k : Nat) (bs : List Byte) : (s.writeLine g k bs).tlb = s.tlb := rfl
@[simp] theorem State.writeLine_walks (s : State) (g : Group) (k : Nat) (bs : List Byte) : (s.writeLine g k bs).walks = s.walks := rfl
@[simp] theorem State.writeLine_l2 (s : State) (g : Group) (k : Nat) (bs : List Byte) : (s.writeLine g k bs).l2 = s.l2 := rfl
@[simp] theorem State.writeLine_mapping (s : State) (g : Group) (k : Nat) (bs : List Byte) : (s.writeLine g k bs).mapping = s.mapping := rfl
@[simp] theorem State.writeLine_acks (s : State) (g : Group) (k : Nat) (bs : List Byte) : (s.writeLine g k bs).acks = s.acks := rfl
@[simp] theorem State.writeLine_asks (s : State) (g : Group) (k : Nat) (bs : List Byte) : (s.writeLine g k bs).asks = s.asks := rfl
@[simp] theorem State.writeLine_waits (s : State) (g : Group) (k : Nat) (bs : List Byte) : (s.writeLine g k bs).waits = s.waits := rfl
@[simp] theorem State.writeLine_parts (s : State) (g : Group) (k : Nat) (bs : List Byte) : (s.writeLine g k bs).parts = s.parts := rfl
@[simp] theorem State.writeLine_sorts (s : State) (g : Group) (k : Nat) (bs : List Byte) : (s.writeLine g k bs).sorts = s.sorts := rfl
@[simp] theorem State.writeLine_replicas (s : State) (g : Group) (k : Nat) (bs : List Byte) : (s.writeLine g k bs).replicas = s.replicas := rfl
@[simp] theorem State.writeLine_migrations (s : State) (g : Group) (k : Nat) (bs : List Byte) : (s.writeLine g k bs).migrations = s.migrations := rfl
@[simp] theorem State.writeLine_held (s : State) (g : Group) (k : Nat) (bs : List Byte) : (s.writeLine g k bs).held = s.held := rfl
@[simp] theorem State.writeLine_packets (s : State) (g : Group) (k : Nat) (bs : List Byte) : (s.writeLine g k bs).packets = s.packets := rfl
@[simp] theorem State.writeLine_traces (s : State) (g : Group) (k : Nat) (bs : List Byte) : (s.writeLine g k bs).traces = s.traces := rfl
@[simp] theorem State.writeLine_fabricOut (s : State) (g : Group) (k : Nat) (bs : List Byte) : (s.writeLine g k bs).fabricOut = s.fabricOut := rfl
@[simp] theorem State.writeLine_controlWrites (s : State) (g : Group) (k : Nat) (bs : List Byte) : (s.writeLine g k bs).controlWrites = s.controlWrites := rfl
@[simp] theorem State.writeLine_links (s : State) (g : Group) (k : Nat) (bs : List Byte) : (s.writeLine g k bs).links = s.links := rfl
@[simp] theorem State.writeLine_lency (s : State) (g : Group) (k : Nat) (bs : List Byte) : (s.writeLine g k bs).lency = s.lency := rfl
@[simp] theorem State.writeLine_fatals (s : State) (g : Group) (k : Nat) (bs : List Byte) : (s.writeLine g k bs).fatals = s.fatals := rfl
@[simp] theorem State.writeLine_frozen (s : State) (g : Group) (k : Nat) (bs : List Byte) : (s.writeLine g k bs).frozen = s.frozen := rfl
@[simp] theorem State.writeLine_agenda (s : State) (g : Group) (k : Nat) (bs : List Byte) : (s.writeLine g k bs).agenda = s.agenda := rfl
@[simp] theorem State.writeLine_tick (s : State) (g : Group) (k : Nat) (bs : List Byte) : (s.writeLine g k bs).tick = s.tick := rfl
@[simp] theorem State.writeLine_cycle (s : State) (g : Group) (k : Nat) (bs : List Byte) : (s.writeLine g k bs).cycle = s.cycle := rfl
@[simp] theorem State.writeLine_ns (s : State) (g : Group) (k : Nat) (bs : List Byte) : (s.writeLine g k bs).ns = s.ns := rfl
@[simp] theorem State.writeLine_chosen (s : State) (g : Group) (k : Nat) (bs : List Byte) : (s.writeLine g k bs).chosen = s.chosen := rfl
@[simp] theorem State.writeLine_cur (s : State) (g : Group) (k : Nat) (bs : List Byte) : (s.writeLine g k bs).cur = s.cur := rfl
@[simp] theorem State.writeLine_granted (s : State) (g : Group) (k : Nat) (bs : List Byte) : (s.writeLine g k bs).granted = s.granted := rfl
@[simp] theorem State.writeLine_halted (s : State) (g : Group) (k : Nat) (bs : List Byte) : (s.writeLine g k bs).halted = s.halted := rfl
@[simp] theorem State.writeLine_loose (s : State) (g : Group) (k : Nat) (bs : List Byte) : (s.writeLine g k bs).loose = s.loose := rfl
@[simp] theorem State.writeLine_fair (s : State) (g : Group) (k : Nat) (bs : List Byte) : (s.writeLine g k bs).fair = s.fair := rfl
@[simp] theorem State.writeLine_firmware (s : State) (g : Group) (k : Nat) (bs : List Byte) : (s.writeLine g k bs).firmware = s.firmware := rfl
@[simp] theorem State.writeLine_measured (s : State) (g : Group) (k : Nat) (bs : List Byte) : (s.writeLine g k bs).measured = s.measured := rfl

/-! ### Updates of a group -/

@[simp] theorem Group.setReg_id (g : Group) (r l : Nat) (v : Word) : (g.setReg r l v).id = g.id := rfl
@[simp] theorem Group.setReg_wg (g : Group) (r l : Nat) (v : Word) : (g.setReg r l v).wg = g.wg := rfl
@[simp] theorem Group.setReg_ctx (g : Group) (r l : Nat) (v : Word) : (g.setReg r l v).ctx = g.ctx := rfl
@[simp] theorem Group.setReg_die (g : Group) (r l : Nat) (v : Word) : (g.setReg r l v).die = g.die := rfl
@[simp] theorem Group.setReg_core (g : Group) (r l : Nat) (v : Word) : (g.setReg r l v).core = g.core := rfl
@[simp] theorem Group.setReg_grpx (g : Group) (r l : Nat) (v : Word) : (g.setReg r l v).grpx = g.grpx := rfl
@[simp] theorem Group.setReg_slot (g : Group) (r l : Nat) (v : Word) : (g.setReg r l v).slot = g.slot := rfl
@[simp] theorem Group.setReg_sliceSize (g : Group) (r l : Nat) (v : Word) : (g.setReg r l v).sliceSize = g.sliceSize := rfl
@[simp] theorem Group.setReg_regCount (g : Group) (r l : Nat) (v : Word) : (g.setReg r l v).regCount = g.regCount := rfl
@[simp] theorem Group.setReg_scalars (g : Group) (r l : Nat) (v : Word) : (g.setReg r l v).scalars = g.scalars := rfl
@[simp] theorem Group.setReg_preds (g : Group) (r l : Nat) (v : Word) : (g.setReg r l v).preds = g.preds := rfl
@[simp] theorem Group.setReg_retired (g : Group) (r l : Nat) (v : Word) : (g.setReg r l v).retired = g.retired := rfl
@[simp] theorem Group.setReg_splits (g : Group) (r l : Nat) (v : Word) : (g.setReg r l v).splits = g.splits := rfl
@[simp] theorem Group.setReg_joins (g : Group) (r l : Nat) (v : Word) : (g.setReg r l v).joins = g.joins := rfl
@[simp] theorem Group.setReg_defers (g : Group) (r l : Nat) (v : Word) : (g.setReg r l v).defers = g.defers := rfl
@[simp] theorem Group.setReg_recent (g : Group) (r l : Nat) (v : Word) : (g.setReg r l v).recent = g.recent := rfl
@[simp] theorem Group.setReg_calls (g : Group) (r l : Nat) (v : Word) : (g.setReg r l v).calls = g.calls := rfl
@[simp] theorem Group.setReg_flights (g : Group) (r l : Nat) (v : Word) : (g.setReg r l v).flights = g.flights := rfl
@[simp] theorem Group.setReg_olds (g : Group) (r l : Nat) (v : Word) : (g.setReg r l v).olds = g.olds := rfl
@[simp] theorem Group.setReg_orders (g : Group) (r l : Nat) (v : Word) : (g.setReg r l v).orders = g.orders := rfl
@[simp] theorem Group.setReg_efaults (g : Group) (r l : Nat) (v : Word) : (g.setReg r l v).efaults = g.efaults := rfl
@[simp] theorem Group.setReg_rays (g : Group) (r l : Nat) (v : Word) : (g.setReg r l v).rays = g.rays := rfl
@[simp] theorem Group.setReg_ports (g : Group) (r l : Nat) (v : Word) : (g.setReg r l v).ports = g.ports := rfl
@[simp] theorem Group.setReg_bt (g : Group) (r l : Nat) (v : Word) : (g.setReg r l v).bt = g.bt := rfl
@[simp] theorem Group.setReg_fstat (g : Group) (r l : Nat) (v : Word) : (g.setReg r l v).fstat = g.fstat := rfl
@[simp] theorem Group.setReg_region (g : Group) (r l : Nat) (v : Word) : (g.setReg r l v).region = g.region := rfl
@[simp] theorem Group.setReg_handler (g : Group) (r l : Nat) (v : Word) : (g.setReg r l v).handler = g.handler := rfl
@[simp] theorem Group.setReg_isHost (g : Group) (r l : Nat) (v : Word) : (g.setReg r l v).isHost = g.isHost := rfl
@[simp] theorem Group.setReg_sys (g : Group) (r l : Nat) (v : Word) : (g.setReg r l v).sys = g.sys := rfl

@[simp] theorem Group.setScalar_id (g : Group) (n : Nat) (v : Word) : (g.setScalar n v).id = g.id := rfl
@[simp] theorem Group.setScalar_wg (g : Group) (n : Nat) (v : Word) : (g.setScalar n v).wg = g.wg := rfl
@[simp] theorem Group.setScalar_ctx (g : Group) (n : Nat) (v : Word) : (g.setScalar n v).ctx = g.ctx := rfl
@[simp] theorem Group.setScalar_die (g : Group) (n : Nat) (v : Word) : (g.setScalar n v).die = g.die := rfl
@[simp] theorem Group.setScalar_core (g : Group) (n : Nat) (v : Word) : (g.setScalar n v).core = g.core := rfl
@[simp] theorem Group.setScalar_grpx (g : Group) (n : Nat) (v : Word) : (g.setScalar n v).grpx = g.grpx := rfl
@[simp] theorem Group.setScalar_slot (g : Group) (n : Nat) (v : Word) : (g.setScalar n v).slot = g.slot := rfl
@[simp] theorem Group.setScalar_sliceSize (g : Group) (n : Nat) (v : Word) : (g.setScalar n v).sliceSize = g.sliceSize := rfl
@[simp] theorem Group.setScalar_regCount (g : Group) (n : Nat) (v : Word) : (g.setScalar n v).regCount = g.regCount := rfl
@[simp] theorem Group.setScalar_regs (g : Group) (n : Nat) (v : Word) : (g.setScalar n v).regs = g.regs := rfl
@[simp] theorem Group.setScalar_preds (g : Group) (n : Nat) (v : Word) : (g.setScalar n v).preds = g.preds := rfl
@[simp] theorem Group.setScalar_retired (g : Group) (n : Nat) (v : Word) : (g.setScalar n v).retired = g.retired := rfl
@[simp] theorem Group.setScalar_splits (g : Group) (n : Nat) (v : Word) : (g.setScalar n v).splits = g.splits := rfl
@[simp] theorem Group.setScalar_joins (g : Group) (n : Nat) (v : Word) : (g.setScalar n v).joins = g.joins := rfl
@[simp] theorem Group.setScalar_defers (g : Group) (n : Nat) (v : Word) : (g.setScalar n v).defers = g.defers := rfl
@[simp] theorem Group.setScalar_recent (g : Group) (n : Nat) (v : Word) : (g.setScalar n v).recent = g.recent := rfl
@[simp] theorem Group.setScalar_calls (g : Group) (n : Nat) (v : Word) : (g.setScalar n v).calls = g.calls := rfl
@[simp] theorem Group.setScalar_flights (g : Group) (n : Nat) (v : Word) : (g.setScalar n v).flights = g.flights := rfl
@[simp] theorem Group.setScalar_olds (g : Group) (n : Nat) (v : Word) : (g.setScalar n v).olds = g.olds := rfl
@[simp] theorem Group.setScalar_orders (g : Group) (n : Nat) (v : Word) : (g.setScalar n v).orders = g.orders := rfl
@[simp] theorem Group.setScalar_efaults (g : Group) (n : Nat) (v : Word) : (g.setScalar n v).efaults = g.efaults := rfl
@[simp] theorem Group.setScalar_rays (g : Group) (n : Nat) (v : Word) : (g.setScalar n v).rays = g.rays := rfl
@[simp] theorem Group.setScalar_ports (g : Group) (n : Nat) (v : Word) : (g.setScalar n v).ports = g.ports := rfl
@[simp] theorem Group.setScalar_bt (g : Group) (n : Nat) (v : Word) : (g.setScalar n v).bt = g.bt := rfl
@[simp] theorem Group.setScalar_fstat (g : Group) (n : Nat) (v : Word) : (g.setScalar n v).fstat = g.fstat := rfl
@[simp] theorem Group.setScalar_region (g : Group) (n : Nat) (v : Word) : (g.setScalar n v).region = g.region := rfl
@[simp] theorem Group.setScalar_handler (g : Group) (n : Nat) (v : Word) : (g.setScalar n v).handler = g.handler := rfl
@[simp] theorem Group.setScalar_isHost (g : Group) (n : Nat) (v : Word) : (g.setScalar n v).isHost = g.isHost := rfl
@[simp] theorem Group.setScalar_sys (g : Group) (n : Nat) (v : Word) : (g.setScalar n v).sys = g.sys := rfl

@[simp] theorem Group.setPred_id (g : Group) (n : Nat) (m v : LaneMask) : (g.setPred n m v).id = g.id := by unfold Group.setPred; split <;> rfl
@[simp] theorem Group.setPred_wg (g : Group) (n : Nat) (m v : LaneMask) : (g.setPred n m v).wg = g.wg := by unfold Group.setPred; split <;> rfl
@[simp] theorem Group.setPred_ctx (g : Group) (n : Nat) (m v : LaneMask) : (g.setPred n m v).ctx = g.ctx := by unfold Group.setPred; split <;> rfl
@[simp] theorem Group.setPred_die (g : Group) (n : Nat) (m v : LaneMask) : (g.setPred n m v).die = g.die := by unfold Group.setPred; split <;> rfl
@[simp] theorem Group.setPred_core (g : Group) (n : Nat) (m v : LaneMask) : (g.setPred n m v).core = g.core := by unfold Group.setPred; split <;> rfl
@[simp] theorem Group.setPred_grpx (g : Group) (n : Nat) (m v : LaneMask) : (g.setPred n m v).grpx = g.grpx := by unfold Group.setPred; split <;> rfl
@[simp] theorem Group.setPred_slot (g : Group) (n : Nat) (m v : LaneMask) : (g.setPred n m v).slot = g.slot := by unfold Group.setPred; split <;> rfl
@[simp] theorem Group.setPred_sliceSize (g : Group) (n : Nat) (m v : LaneMask) : (g.setPred n m v).sliceSize = g.sliceSize := by unfold Group.setPred; split <;> rfl
@[simp] theorem Group.setPred_regCount (g : Group) (n : Nat) (m v : LaneMask) : (g.setPred n m v).regCount = g.regCount := by unfold Group.setPred; split <;> rfl
@[simp] theorem Group.setPred_regs (g : Group) (n : Nat) (m v : LaneMask) : (g.setPred n m v).regs = g.regs := by unfold Group.setPred; split <;> rfl
@[simp] theorem Group.setPred_scalars (g : Group) (n : Nat) (m v : LaneMask) : (g.setPred n m v).scalars = g.scalars := by unfold Group.setPred; split <;> rfl
@[simp] theorem Group.setPred_retired (g : Group) (n : Nat) (m v : LaneMask) : (g.setPred n m v).retired = g.retired := by unfold Group.setPred; split <;> rfl
@[simp] theorem Group.setPred_splits (g : Group) (n : Nat) (m v : LaneMask) : (g.setPred n m v).splits = g.splits := by unfold Group.setPred; split <;> rfl
@[simp] theorem Group.setPred_joins (g : Group) (n : Nat) (m v : LaneMask) : (g.setPred n m v).joins = g.joins := by unfold Group.setPred; split <;> rfl
@[simp] theorem Group.setPred_defers (g : Group) (n : Nat) (m v : LaneMask) : (g.setPred n m v).defers = g.defers := by unfold Group.setPred; split <;> rfl
@[simp] theorem Group.setPred_recent (g : Group) (n : Nat) (m v : LaneMask) : (g.setPred n m v).recent = g.recent := by unfold Group.setPred; split <;> rfl
@[simp] theorem Group.setPred_calls (g : Group) (n : Nat) (m v : LaneMask) : (g.setPred n m v).calls = g.calls := by unfold Group.setPred; split <;> rfl
@[simp] theorem Group.setPred_flights (g : Group) (n : Nat) (m v : LaneMask) : (g.setPred n m v).flights = g.flights := by unfold Group.setPred; split <;> rfl
@[simp] theorem Group.setPred_olds (g : Group) (n : Nat) (m v : LaneMask) : (g.setPred n m v).olds = g.olds := by unfold Group.setPred; split <;> rfl
@[simp] theorem Group.setPred_orders (g : Group) (n : Nat) (m v : LaneMask) : (g.setPred n m v).orders = g.orders := by unfold Group.setPred; split <;> rfl
@[simp] theorem Group.setPred_efaults (g : Group) (n : Nat) (m v : LaneMask) : (g.setPred n m v).efaults = g.efaults := by unfold Group.setPred; split <;> rfl
@[simp] theorem Group.setPred_rays (g : Group) (n : Nat) (m v : LaneMask) : (g.setPred n m v).rays = g.rays := by unfold Group.setPred; split <;> rfl
@[simp] theorem Group.setPred_ports (g : Group) (n : Nat) (m v : LaneMask) : (g.setPred n m v).ports = g.ports := by unfold Group.setPred; split <;> rfl
@[simp] theorem Group.setPred_bt (g : Group) (n : Nat) (m v : LaneMask) : (g.setPred n m v).bt = g.bt := by unfold Group.setPred; split <;> rfl
@[simp] theorem Group.setPred_fstat (g : Group) (n : Nat) (m v : LaneMask) : (g.setPred n m v).fstat = g.fstat := by unfold Group.setPred; split <;> rfl
@[simp] theorem Group.setPred_region (g : Group) (n : Nat) (m v : LaneMask) : (g.setPred n m v).region = g.region := by unfold Group.setPred; split <;> rfl
@[simp] theorem Group.setPred_handler (g : Group) (n : Nat) (m v : LaneMask) : (g.setPred n m v).handler = g.handler := by unfold Group.setPred; split <;> rfl
@[simp] theorem Group.setPred_isHost (g : Group) (n : Nat) (m v : LaneMask) : (g.setPred n m v).isHost = g.isHost := by unfold Group.setPred; split <;> rfl
@[simp] theorem Group.setPred_sys (g : Group) (n : Nat) (m v : LaneMask) : (g.setPred n m v).sys = g.sys := by unfold Group.setPred; split <;> rfl

@[simp] theorem Group.modSplit_id (g : Group) (pid : Nat) (f : Split → Split) : (g.modSplit pid f).id = g.id := rfl
@[simp] theorem Group.modSplit_wg (g : Group) (pid : Nat) (f : Split → Split) : (g.modSplit pid f).wg = g.wg := rfl
@[simp] theorem Group.modSplit_ctx (g : Group) (pid : Nat) (f : Split → Split) : (g.modSplit pid f).ctx = g.ctx := rfl
@[simp] theorem Group.modSplit_die (g : Group) (pid : Nat) (f : Split → Split) : (g.modSplit pid f).die = g.die := rfl
@[simp] theorem Group.modSplit_core (g : Group) (pid : Nat) (f : Split → Split) : (g.modSplit pid f).core = g.core := rfl
@[simp] theorem Group.modSplit_grpx (g : Group) (pid : Nat) (f : Split → Split) : (g.modSplit pid f).grpx = g.grpx := rfl
@[simp] theorem Group.modSplit_slot (g : Group) (pid : Nat) (f : Split → Split) : (g.modSplit pid f).slot = g.slot := rfl
@[simp] theorem Group.modSplit_sliceSize (g : Group) (pid : Nat) (f : Split → Split) : (g.modSplit pid f).sliceSize = g.sliceSize := rfl
@[simp] theorem Group.modSplit_regCount (g : Group) (pid : Nat) (f : Split → Split) : (g.modSplit pid f).regCount = g.regCount := rfl
@[simp] theorem Group.modSplit_regs (g : Group) (pid : Nat) (f : Split → Split) : (g.modSplit pid f).regs = g.regs := rfl
@[simp] theorem Group.modSplit_scalars (g : Group) (pid : Nat) (f : Split → Split) : (g.modSplit pid f).scalars = g.scalars := rfl
@[simp] theorem Group.modSplit_preds (g : Group) (pid : Nat) (f : Split → Split) : (g.modSplit pid f).preds = g.preds := rfl
@[simp] theorem Group.modSplit_retired (g : Group) (pid : Nat) (f : Split → Split) : (g.modSplit pid f).retired = g.retired := rfl
@[simp] theorem Group.modSplit_joins (g : Group) (pid : Nat) (f : Split → Split) : (g.modSplit pid f).joins = g.joins := rfl
@[simp] theorem Group.modSplit_defers (g : Group) (pid : Nat) (f : Split → Split) : (g.modSplit pid f).defers = g.defers := rfl
@[simp] theorem Group.modSplit_recent (g : Group) (pid : Nat) (f : Split → Split) : (g.modSplit pid f).recent = g.recent := rfl
@[simp] theorem Group.modSplit_calls (g : Group) (pid : Nat) (f : Split → Split) : (g.modSplit pid f).calls = g.calls := rfl
@[simp] theorem Group.modSplit_flights (g : Group) (pid : Nat) (f : Split → Split) : (g.modSplit pid f).flights = g.flights := rfl
@[simp] theorem Group.modSplit_olds (g : Group) (pid : Nat) (f : Split → Split) : (g.modSplit pid f).olds = g.olds := rfl
@[simp] theorem Group.modSplit_orders (g : Group) (pid : Nat) (f : Split → Split) : (g.modSplit pid f).orders = g.orders := rfl
@[simp] theorem Group.modSplit_efaults (g : Group) (pid : Nat) (f : Split → Split) : (g.modSplit pid f).efaults = g.efaults := rfl
@[simp] theorem Group.modSplit_rays (g : Group) (pid : Nat) (f : Split → Split) : (g.modSplit pid f).rays = g.rays := rfl
@[simp] theorem Group.modSplit_ports (g : Group) (pid : Nat) (f : Split → Split) : (g.modSplit pid f).ports = g.ports := rfl
@[simp] theorem Group.modSplit_bt (g : Group) (pid : Nat) (f : Split → Split) : (g.modSplit pid f).bt = g.bt := rfl
@[simp] theorem Group.modSplit_fstat (g : Group) (pid : Nat) (f : Split → Split) : (g.modSplit pid f).fstat = g.fstat := rfl
@[simp] theorem Group.modSplit_region (g : Group) (pid : Nat) (f : Split → Split) : (g.modSplit pid f).region = g.region := rfl
@[simp] theorem Group.modSplit_handler (g : Group) (pid : Nat) (f : Split → Split) : (g.modSplit pid f).handler = g.handler := rfl
@[simp] theorem Group.modSplit_isHost (g : Group) (pid : Nat) (f : Split → Split) : (g.modSplit pid f).isHost = g.isHost := rfl
@[simp] theorem Group.modSplit_sys (g : Group) (pid : Nat) (f : Split → Split) : (g.modSplit pid f).sys = g.sys := rfl

@[simp] theorem Group.raiseFlags_id (g : Group) (n : Nat) : (g.raiseFlags n).id = g.id := rfl
@[simp] theorem Group.raiseFlags_wg (g : Group) (n : Nat) : (g.raiseFlags n).wg = g.wg := rfl
@[simp] theorem Group.raiseFlags_ctx (g : Group) (n : Nat) : (g.raiseFlags n).ctx = g.ctx := rfl
@[simp] theorem Group.raiseFlags_die (g : Group) (n : Nat) : (g.raiseFlags n).die = g.die := rfl
@[simp] theorem Group.raiseFlags_core (g : Group) (n : Nat) : (g.raiseFlags n).core = g.core := rfl
@[simp] theorem Group.raiseFlags_grpx (g : Group) (n : Nat) : (g.raiseFlags n).grpx = g.grpx := rfl
@[simp] theorem Group.raiseFlags_slot (g : Group) (n : Nat) : (g.raiseFlags n).slot = g.slot := rfl
@[simp] theorem Group.raiseFlags_sliceSize (g : Group) (n : Nat) : (g.raiseFlags n).sliceSize = g.sliceSize := rfl
@[simp] theorem Group.raiseFlags_regCount (g : Group) (n : Nat) : (g.raiseFlags n).regCount = g.regCount := rfl
@[simp] theorem Group.raiseFlags_regs (g : Group) (n : Nat) : (g.raiseFlags n).regs = g.regs := rfl
@[simp] theorem Group.raiseFlags_scalars (g : Group) (n : Nat) : (g.raiseFlags n).scalars = g.scalars := rfl
@[simp] theorem Group.raiseFlags_preds (g : Group) (n : Nat) : (g.raiseFlags n).preds = g.preds := rfl
@[simp] theorem Group.raiseFlags_retired (g : Group) (n : Nat) : (g.raiseFlags n).retired = g.retired := rfl
@[simp] theorem Group.raiseFlags_splits (g : Group) (n : Nat) : (g.raiseFlags n).splits = g.splits := rfl
@[simp] theorem Group.raiseFlags_joins (g : Group) (n : Nat) : (g.raiseFlags n).joins = g.joins := rfl
@[simp] theorem Group.raiseFlags_defers (g : Group) (n : Nat) : (g.raiseFlags n).defers = g.defers := rfl
@[simp] theorem Group.raiseFlags_recent (g : Group) (n : Nat) : (g.raiseFlags n).recent = g.recent := rfl
@[simp] theorem Group.raiseFlags_calls (g : Group) (n : Nat) : (g.raiseFlags n).calls = g.calls := rfl
@[simp] theorem Group.raiseFlags_flights (g : Group) (n : Nat) : (g.raiseFlags n).flights = g.flights := rfl
@[simp] theorem Group.raiseFlags_olds (g : Group) (n : Nat) : (g.raiseFlags n).olds = g.olds := rfl
@[simp] theorem Group.raiseFlags_orders (g : Group) (n : Nat) : (g.raiseFlags n).orders = g.orders := rfl
@[simp] theorem Group.raiseFlags_efaults (g : Group) (n : Nat) : (g.raiseFlags n).efaults = g.efaults := rfl
@[simp] theorem Group.raiseFlags_rays (g : Group) (n : Nat) : (g.raiseFlags n).rays = g.rays := rfl
@[simp] theorem Group.raiseFlags_ports (g : Group) (n : Nat) : (g.raiseFlags n).ports = g.ports := rfl
@[simp] theorem Group.raiseFlags_bt (g : Group) (n : Nat) : (g.raiseFlags n).bt = g.bt := rfl
@[simp] theorem Group.raiseFlags_region (g : Group) (n : Nat) : (g.raiseFlags n).region = g.region := rfl
@[simp] theorem Group.raiseFlags_handler (g : Group) (n : Nat) : (g.raiseFlags n).handler = g.handler := rfl
@[simp] theorem Group.raiseFlags_isHost (g : Group) (n : Nat) : (g.raiseFlags n).isHost = g.isHost := rfl
@[simp] theorem Group.raiseFlags_sys (g : Group) (n : Nat) : (g.raiseFlags n).sys = g.sys := rfl

@[simp] theorem Group.addFlight_id (g : Group) (f : Flight) : (g.addFlight f).id = g.id := rfl
@[simp] theorem Group.addFlight_wg (g : Group) (f : Flight) : (g.addFlight f).wg = g.wg := rfl
@[simp] theorem Group.addFlight_ctx (g : Group) (f : Flight) : (g.addFlight f).ctx = g.ctx := rfl
@[simp] theorem Group.addFlight_die (g : Group) (f : Flight) : (g.addFlight f).die = g.die := rfl
@[simp] theorem Group.addFlight_core (g : Group) (f : Flight) : (g.addFlight f).core = g.core := rfl
@[simp] theorem Group.addFlight_grpx (g : Group) (f : Flight) : (g.addFlight f).grpx = g.grpx := rfl
@[simp] theorem Group.addFlight_slot (g : Group) (f : Flight) : (g.addFlight f).slot = g.slot := rfl
@[simp] theorem Group.addFlight_sliceSize (g : Group) (f : Flight) : (g.addFlight f).sliceSize = g.sliceSize := rfl
@[simp] theorem Group.addFlight_regCount (g : Group) (f : Flight) : (g.addFlight f).regCount = g.regCount := rfl
@[simp] theorem Group.addFlight_regs (g : Group) (f : Flight) : (g.addFlight f).regs = g.regs := rfl
@[simp] theorem Group.addFlight_scalars (g : Group) (f : Flight) : (g.addFlight f).scalars = g.scalars := rfl
@[simp] theorem Group.addFlight_preds (g : Group) (f : Flight) : (g.addFlight f).preds = g.preds := rfl
@[simp] theorem Group.addFlight_retired (g : Group) (f : Flight) : (g.addFlight f).retired = g.retired := rfl
@[simp] theorem Group.addFlight_splits (g : Group) (f : Flight) : (g.addFlight f).splits = g.splits := rfl
@[simp] theorem Group.addFlight_joins (g : Group) (f : Flight) : (g.addFlight f).joins = g.joins := rfl
@[simp] theorem Group.addFlight_defers (g : Group) (f : Flight) : (g.addFlight f).defers = g.defers := rfl
@[simp] theorem Group.addFlight_recent (g : Group) (f : Flight) : (g.addFlight f).recent = g.recent := rfl
@[simp] theorem Group.addFlight_calls (g : Group) (f : Flight) : (g.addFlight f).calls = g.calls := rfl
@[simp] theorem Group.addFlight_olds (g : Group) (f : Flight) : (g.addFlight f).olds = g.olds := rfl
@[simp] theorem Group.addFlight_orders (g : Group) (f : Flight) : (g.addFlight f).orders = g.orders := rfl
@[simp] theorem Group.addFlight_efaults (g : Group) (f : Flight) : (g.addFlight f).efaults = g.efaults := rfl
@[simp] theorem Group.addFlight_rays (g : Group) (f : Flight) : (g.addFlight f).rays = g.rays := rfl
@[simp] theorem Group.addFlight_ports (g : Group) (f : Flight) : (g.addFlight f).ports = g.ports := rfl
@[simp] theorem Group.addFlight_bt (g : Group) (f : Flight) : (g.addFlight f).bt = g.bt := rfl
@[simp] theorem Group.addFlight_fstat (g : Group) (f : Flight) : (g.addFlight f).fstat = g.fstat := rfl
@[simp] theorem Group.addFlight_region (g : Group) (f : Flight) : (g.addFlight f).region = g.region := rfl
@[simp] theorem Group.addFlight_handler (g : Group) (f : Flight) : (g.addFlight f).handler = g.handler := rfl
@[simp] theorem Group.addFlight_isHost (g : Group) (f : Flight) : (g.addFlight f).isHost = g.isHost := rfl
@[simp] theorem Group.addFlight_sys (g : Group) (f : Flight) : (g.addFlight f).sys = g.sys := rfl

@[simp] theorem Group.pushPort_id (g : Group) (n : Nat) (e : Entry) : (g.pushPort n e).id = g.id := rfl
@[simp] theorem Group.pushPort_wg (g : Group) (n : Nat) (e : Entry) : (g.pushPort n e).wg = g.wg := rfl
@[simp] theorem Group.pushPort_ctx (g : Group) (n : Nat) (e : Entry) : (g.pushPort n e).ctx = g.ctx := rfl
@[simp] theorem Group.pushPort_die (g : Group) (n : Nat) (e : Entry) : (g.pushPort n e).die = g.die := rfl
@[simp] theorem Group.pushPort_core (g : Group) (n : Nat) (e : Entry) : (g.pushPort n e).core = g.core := rfl
@[simp] theorem Group.pushPort_grpx (g : Group) (n : Nat) (e : Entry) : (g.pushPort n e).grpx = g.grpx := rfl
@[simp] theorem Group.pushPort_slot (g : Group) (n : Nat) (e : Entry) : (g.pushPort n e).slot = g.slot := rfl
@[simp] theorem Group.pushPort_sliceSize (g : Group) (n : Nat) (e : Entry) : (g.pushPort n e).sliceSize = g.sliceSize := rfl
@[simp] theorem Group.pushPort_regCount (g : Group) (n : Nat) (e : Entry) : (g.pushPort n e).regCount = g.regCount := rfl
@[simp] theorem Group.pushPort_regs (g : Group) (n : Nat) (e : Entry) : (g.pushPort n e).regs = g.regs := rfl
@[simp] theorem Group.pushPort_scalars (g : Group) (n : Nat) (e : Entry) : (g.pushPort n e).scalars = g.scalars := rfl
@[simp] theorem Group.pushPort_preds (g : Group) (n : Nat) (e : Entry) : (g.pushPort n e).preds = g.preds := rfl
@[simp] theorem Group.pushPort_retired (g : Group) (n : Nat) (e : Entry) : (g.pushPort n e).retired = g.retired := rfl
@[simp] theorem Group.pushPort_splits (g : Group) (n : Nat) (e : Entry) : (g.pushPort n e).splits = g.splits := rfl
@[simp] theorem Group.pushPort_joins (g : Group) (n : Nat) (e : Entry) : (g.pushPort n e).joins = g.joins := rfl
@[simp] theorem Group.pushPort_defers (g : Group) (n : Nat) (e : Entry) : (g.pushPort n e).defers = g.defers := rfl
@[simp] theorem Group.pushPort_recent (g : Group) (n : Nat) (e : Entry) : (g.pushPort n e).recent = g.recent := rfl
@[simp] theorem Group.pushPort_calls (g : Group) (n : Nat) (e : Entry) : (g.pushPort n e).calls = g.calls := rfl
@[simp] theorem Group.pushPort_flights (g : Group) (n : Nat) (e : Entry) : (g.pushPort n e).flights = g.flights := rfl
@[simp] theorem Group.pushPort_olds (g : Group) (n : Nat) (e : Entry) : (g.pushPort n e).olds = g.olds := rfl
@[simp] theorem Group.pushPort_orders (g : Group) (n : Nat) (e : Entry) : (g.pushPort n e).orders = g.orders := rfl
@[simp] theorem Group.pushPort_efaults (g : Group) (n : Nat) (e : Entry) : (g.pushPort n e).efaults = g.efaults := rfl
@[simp] theorem Group.pushPort_rays (g : Group) (n : Nat) (e : Entry) : (g.pushPort n e).rays = g.rays := rfl
@[simp] theorem Group.pushPort_bt (g : Group) (n : Nat) (e : Entry) : (g.pushPort n e).bt = g.bt := rfl
@[simp] theorem Group.pushPort_fstat (g : Group) (n : Nat) (e : Entry) : (g.pushPort n e).fstat = g.fstat := rfl
@[simp] theorem Group.pushPort_region (g : Group) (n : Nat) (e : Entry) : (g.pushPort n e).region = g.region := rfl
@[simp] theorem Group.pushPort_handler (g : Group) (n : Nat) (e : Entry) : (g.pushPort n e).handler = g.handler := rfl
@[simp] theorem Group.pushPort_isHost (g : Group) (n : Nat) (e : Entry) : (g.pushPort n e).isHost = g.isHost := rfl
@[simp] theorem Group.pushPort_sys (g : Group) (n : Nat) (e : Entry) : (g.pushPort n e).sys = g.sys := rfl

/-! ### Lookups -/

theorem State.group?_id {s : State} {gid : Nat} {g : Group} (h : s.group? gid = some g) : g.id = gid := by
  simpa using List.find?_some h

theorem State.group?_mem {s : State} {gid : Nat} {g : Group} (h : s.group? gid = some g) : g ∈ s.groups := List.mem_of_find?_eq_some h

theorem Group.split?_id {g : Group} {pid : Nat} {p : Split} (h : g.split? pid = some p) : p.id = pid := by
  simpa using List.find?_some h

theorem Group.split?_mem {g : Group} {pid : Nat} {p : Split} (h : g.split? pid = some p) : p ∈ g.splits := List.mem_of_find?_eq_some h

theorem find?_map_id {α : Type} (l : List α) (f : α → α) (key : α → Nat) (k n : Nat) (hf : ∀ x, key x = k → key (f x) = k) :
    (l.map fun x => if key x = k then f x else x).find? (fun x => key x = n) =
      (l.find? fun x => key x = n).map fun x => if key x = k then f x else x := by
  induction l with
  | nil => rfl
  | cons a t ih =>
    simp only [List.map_cons, List.find?_cons]
    have : (key (if key a = k then f a else a) = n) ↔ key a = n := by
      split
      · next h => rw [hf a h, h]
      · rfl
    by_cases hn : key a = n
    · rw [decide_eq_true hn, decide_eq_true (this.mpr hn)]; rfl
    · rw [decide_eq_false hn, decide_eq_false (fun h => hn (this.mp h))]; exact ih

/-- A changed group is found changed; every other is found as it was. -/
theorem State.group?_modGroup (s : State) (gid n : Nat) (f : Group → Group) (hf : ∀ g, g.id = gid → (f g).id = gid) :
    (s.modGroup gid f).group? n = (s.group? n).map fun g => if g.id = gid then f g else g :=
  find?_map_id s.groups f Group.id gid n hf

theorem State.group?_modGroup_same (s : State) (gid : Nat) (f : Group → Group) (hf : ∀ g, g.id = gid → (f g).id = gid) :
    (s.modGroup gid f).group? gid = (s.group? gid).map f := by
  rw [State.group?_modGroup s gid gid f hf]
  cases h : s.group? gid with
  | none => rfl
  | some g => simp [State.group?_id h]

theorem State.group?_modGroup_ne (s : State) (gid n : Nat) (f : Group → Group) (hf : ∀ g, g.id = gid → (f g).id = gid) (hn : n ≠ gid) :
    (s.modGroup gid f).group? n = s.group? n := by
  rw [State.group?_modGroup s gid n f hf]
  cases h : s.group? n with
  | none => rfl
  | some g => simp [State.group?_id h, hn]

theorem Group.split?_modSplit (g : Group) (pid n : Nat) (f : Split → Split) (hf : ∀ p, p.id = pid → (f p).id = pid) :
    (g.modSplit pid f).split? n = (g.split? n).map fun p => if p.id = pid then f p else p :=
  find?_map_id g.splits f Split.id pid n hf

theorem Group.split?_modSplit_same (g : Group) (pid : Nat) (f : Split → Split) (hf : ∀ p, p.id = pid → (f p).id = pid) :
    (g.modSplit pid f).split? pid = (g.split? pid).map f := by
  rw [Group.split?_modSplit g pid pid f hf]
  cases h : g.split? pid with
  | none => rfl
  | some p => simp [Group.split?_id h]

theorem Group.split?_modSplit_ne (g : Group) (pid n : Nat) (f : Split → Split) (hf : ∀ p, p.id = pid → (f p).id = pid) (hn : n ≠ pid) :
    (g.modSplit pid f).split? n = g.split? n := by
  rw [Group.split?_modSplit g pid n f hf]
  cases h : g.split? n with
  | none => rfl
  | some p => simp [Group.split?_id h, hn]

/-! ### Registers -/

theorem Group.reg_setReg (g : Group) (r l r' l' : Nat) (v : Word) (hl : l < 32) (hl' : l' < 32) :
    (g.setReg r l v).reg r' l' = if r' = r ∧ l' = l then v else g.reg r' l' := by
  simp only [Group.reg, Group.setReg, sread_swrite]
  by_cases h : r' = r ∧ l' = l
  · rw [if_pos h, if_pos (by omega)]
  · rw [if_neg h, if_neg (by omega)]

theorem Group.scalar_setScalar (g : Group) (n n' : Nat) (v : Word) :
    (g.setScalar n v).scalar n' = if n' = n then v else g.scalar n' := sread_swrite g.scalars n v n'

/-! ### Tables of fixed size -/

@[simp] theorem modAt_length {α : Type} (l : List α) (n : Nat) (f : α → α) : (modAt l n f).length = l.length := by
  induction l generalizing n with
  | nil => rfl
  | cons a t ih => cases n <;> simp [modAt, ih]

@[simp] theorem setAt_length {α : Type} (l : List α) (n : Nat) (x : α) : (setAt l n x).length = l.length := by
  induction l generalizing n with
  | nil => rfl
  | cons a t ih => cases n <;> simp [setAt, ih]

theorem modAt_getD {α : Type} (l : List α) (n k : Nat) (f : α → α) (d : α) (h : n < l.length) :
    (modAt l n f).getD k d = if k = n then f (l.getD k d) else l.getD k d := by
  induction l generalizing n k with
  | nil => simp at h
  | cons a t ih =>
    cases n with
    | zero => cases k <;> simp [modAt]
    | succ n =>
      cases k with
      | zero => simp [modAt]
      | succ k => simpa [modAt] using ih n k (by simpa using h)

@[simp] theorem State.modContext_length (s : State) (c : Nat) (f : Context → Context) :
    (s.modContext c f).contexts.length = s.contexts.length := modAt_length _ _ _
@[simp] theorem State.modDie_length (s : State) (d : Nat) (f : Die → Die) :
    (s.modDie d f).dies.length = s.dies.length := modAt_length _ _ _
@[simp] theorem State.modIsland_length (s : State) (d : Nat) (f : Island → Island) :
    (s.modIsland d f).islands.length = s.islands.length := modAt_length _ _ _

theorem State.context_modContext (s : State) (c k : Nat) (f : Context → Context) (h : c < s.contexts.length) :
    (s.modContext c f).context k = if k = c then f (s.context k) else s.context k := modAt_getD _ _ _ _ _ h
theorem State.die_modDie (s : State) (d k : Nat) (f : Die → Die) (h : d < s.dies.length) :
    (s.modDie d f).die k = if k = d then f (s.die k) else s.die k := modAt_getD _ _ _ _ _ h

end Sys2Proof.Machine
end

