-- ==== Sys2Proof/Laws/Issue.lean ====
section
/-! SUPPORT. The issue of one word, said once: what a context holds, and what an instruction answers when it issues, faults or is
held. -/

namespace Sys2Proof.Machine

open Sys2Proof Sys2Proof.Safety

theorem Group.popPort_id (g : Group) (n : Nat) : (g.popPort n).id = g.id := by
  unfold Group.popPort
  split
  · unfold Group.notePopped; split <;> rfl
  · rfl

/-- The issuing split is the selected one, in a group of the state, with its clause. -/
theorem State.issuer_spec {s : State} {g : Group} {p : Split} {c : Clause} (h : s.issuer = some (g, p, c)) :
    s.cur = some (g.id, p.id) ∧ s.group? g.id = some g ∧ g.split? p.id = some p ∧ p.clause = some c := by
  unfold State.issuer at h
  split at h
  · cases h
  · next gid pid hc =>
    split at h
    · cases h
    · next g' hg =>
      split at h
      · cases h
      · next p' hp =>
        cases hcl : p'.clause with
        | none => simp [hcl] at h
        | some c' =>
          simp only [hcl, Option.map_some, Option.some.injEq, Prod.mk.injEq] at h
          obtain ⟨rfl, rfl, rfl⟩ := h
          have h1 := State.group?_id hg
          have h2 := Group.split?_id hp
          subst h1; subst h2
          exact ⟨hc, hg, hp, hcl⟩

theorem Group.popPorts_id {g h : Group} {ns : List Nat} {es : List (Nat × Entry)} (hp : g.popPorts ns = some (h, es)) :
    h.id = g.id := by
  induction ns generalizing g h es with
  | nil => cases hp; rfl
  | cons n t ih =>
    unfold Group.popPorts at hp
    split at hp
    · cases hp
    · cases hr : (g.popPort n).popPorts t with
      | none => simp [hr] at hp
      | some r =>
        simp only [hr, Option.map_some, Option.some.injEq, Prod.mk.injEq] at hp
        rw [← hp.1, ih (h := r.1) (es := r.2) hr, Group.popPort_id]

/-- Nothing is popped only where there is nothing to pop. -/
theorem Group.popPorts_nil {g h : Group} {ns : List Nat} (hp : g.popPorts ns = some (h, [])) : h = g := by
  cases ns with
  | nil => cases hp; rfl
  | cons n t =>
    unfold Group.popPorts at hp
    split at hp
    · cases hp
    · cases hr : (g.popPort n).popPorts t <;> simp [hr] at hp

@[simp] theorem Ctx.ordered_i (x : Ctx) : x.ordered.i = x.i := rfl
@[simp] theorem Ctx.ordered_p (x : Ctx) : x.ordered.p = x.p := rfl
@[simp] theorem Ctx.ordered_c (x : Ctx) : x.ordered.c = x.c := rfl
@[simp] theorem Ctx.ordered_lit (x : Ctx) : x.ordered.lit = x.lit := rfl
@[simp] theorem Ctx.ordered_popped (x : Ctx) : x.ordered.popped = x.popped := rfl

/-- What pops order changes what the group holds, never which group it is. -/
@[simp] theorem Ctx.ordered_gid (x : Ctx) : x.ordered.g.id = x.g.id := by
  unfold Ctx.ordered
  dsimp only
  cases h : (x.popped.foldl (fun s e => s.popOrder x.g x.p.mask e) x.s).group? x.g.id with
  | none => rfl
  | some g => exact State.group?_id h

/-- A word that has taken some entries, before what their pops order. -/
def Ctx.took (y : Ctx) (h : Group) (es : List (Nat × Entry)) : Ctx := { y with s := y.s.putGroup h, g := h, popped := es }

/-- What a word sees once it has taken the entries of its source ports: nothing changes where there are none; those taken when it was first
held are its again; or they leave its ports now. -/
theorem takeEntries_go {y x : Ctx} (h : takeEntries y = .go x) :
    x.i = y.i ∧ x.p = y.p ∧ x.c = y.c ∧ x.lit = y.lit ∧ x.g.id = y.g.id ∧
    (x = y ∨
      y.p.taken ≠ [] ∧ x = (y.took (y.g.modSplit y.p.id fun q => { q with taken := [] }) y.p.taken).ordered ∨
      ∃ k es, y.g.popPorts (srcPorts y.i) = some (k, es) ∧ es ≠ [] ∧ x = (y.took k es).ordered) := by
  unfold takeEntries at h
  split at h
  · split at h
    · cases h
    · next k hp =>
      cases h
      have hk := Group.popPorts_nil hp
      subst hk
      exact ⟨rfl, rfl, rfl, rfl, rfl, .inl rfl⟩
    · next k e es hp =>
      cases h
      exact ⟨rfl, rfl, rfl, rfl, by simpa using Group.popPorts_id hp, .inr (.inr ⟨k, e :: es, hp, List.cons_ne_nil _ _, rfl⟩)⟩
  · next ht =>
    cases h
    exact ⟨rfl, rfl, rfl, rfl, by simp, .inr (.inl ⟨by simpa using ht, rfl⟩)⟩

/-- A word goes on only when its checks pass: with no lane acting as it stands, otherwise with its entries taken. -/
theorem preIssue_cases {i : Instr} {s : State} {g : Group} {p : Split} {c : Clause} {x : Ctx} (h : preIssue i s g p c = .go x) :
    checkWord i s g p c = none ∧
    (acts i c = false ∧ x = freshCtx i s g p c ∨
      acts i c = true ∧ holdWord i s g p = none ∧ takeEntries (freshCtx i s g p c) = .go x) := by
  unfold preIssue at h
  split at h
  · cases h
  · next hc =>
    refine ⟨hc, ?_⟩
    split at h
    · cases h
    · split at h
      · next ha => cases h; exact .inl ⟨by simpa using ha, rfl⟩
      · next ha =>
        split at h
        · cases h
        · next hh => exact .inr ⟨by simpa using ha, hh, h⟩

/-- What an instruction sees when it issues: the issuing split and clause, itself, and its group; with no port popped nothing else has
changed. -/
theorem preIssue_go {i : Instr} {s : State} {g : Group} {p : Split} {c : Clause} {x : Ctx} (h : preIssue i s g p c = .go x) :
    x.i = i ∧ x.p = p ∧ x.c = c ∧ x.g.id = g.id ∧
    (x = freshCtx i s g p c ∨ ∃ k es, es ≠ [] ∧ x = ((freshCtx i s g p c).took k es).ordered) := by
  obtain ⟨-, ⟨-, rfl⟩ | ⟨-, -, ht⟩⟩ := preIssue_cases h
  · exact ⟨rfl, rfl, rfl, rfl, .inl rfl⟩
  · obtain ⟨h1, h2, h3, -, h5, h6⟩ := takeEntries_go ht
    refine ⟨h1, h2, h3, h5, ?_⟩
    obtain h6 | ⟨hn, h6⟩ | ⟨k, es, -, hn, h6⟩ := h6
    · exact .inl h6
    · exact .inr ⟨_, _, hn, h6⟩
    · exact .inr ⟨k, es, hn, h6⟩

theorem issues_instr {i : Instr} {s : State} {x : Ctx} (h : Issues i s x) : x.i = i := by
  obtain ⟨g, p, c, -, hx⟩ := h
  exact (preIssue_go hx).1

/-! ### A word with no lane active (R13, R18) -/

/-- An effect that is done is the word's when the word acts, or is on no path. -/
theorem Ctx.idle_done {x : Ctx} {t : State} (h : acts x.i x.c = true ∨ x.i.path = none) : x.idle (.done t) = .done t := by
  unfold Ctx.idle
  split
  · rfl
  · next ha => rw [h.resolve_left ha]

/-- With no lane active an instruction of a path takes its turn on the path. -/
theorem Ctx.idle_passes {x : Ctx} {t : State} {q : Path} (ha : acts x.i x.c = false) (hq : x.i.path = some q)
    (hn : quietIdle x.i = false) : x.idle (.done t) = .done (t.modGroup x.g.id fun g => g.passOver q) := by
  simp [Ctx.idle, ha, hq, hn]

/-- But for the engine instructions that raise no counter then (R271, R275, R284). -/
theorem Ctx.idle_quiet {x : Ctx} {t : State} (hn : quietIdle x.i = true) : x.idle (.done t) = .done t := by
  unfold Ctx.idle
  split
  · rfl
  · cases x.i.path with
    | none => rfl
    | some q => rfl

@[simp] theorem Ctx.idle_fault (x : Ctx) (t : Trap) : x.idle (.fault t) = .fault t := by
  unfold Ctx.idle
  split <;> cases x.i.path <;> rfl

@[simp] theorem Ctx.idle_hold (x : Ctx) (k : Hold) : x.idle (.hold k) = .hold k := by
  unfold Ctx.idle
  split <;> cases x.i.path <;> rfl

@[simp] theorem Ctx.idle_moved (x : Ctx) (t : State) : x.idle (.moved t) = .moved t := by
  unfold Ctx.idle
  split <;> cases x.i.path <;> rfl

@[simp] theorem Ctx.idle_raised (x : Ctx) (t : Trap) (s : State) : x.idle (.raised t s) = .raised t s := by
  unfold Ctx.idle
  split <;> cases x.i.path <;> rfl

/-- An instruction that issues completes its own effect in its context. -/
theorem issue_go {i : Instr} {s : State} {x : Ctx} (h : Issues i s x) (body : Ctx → Res) :
    issue i s body = .next (s.finish x.g.id x.p.id (wordCount i) (x.idle (body x))) := by
  obtain ⟨g, p, c, hi, hx⟩ := h
  obtain ⟨-, hp, -, hg, -⟩ := preIssue_go hx
  unfold issue
  rw [hi]
  dsimp only
  rw [hx, hg, hp]

/-- The same of an effect that is done: the split moves on. -/
theorem issue_done {i : Instr} {s t : State} {x : Ctx} (h : Issues i s x) (body : Ctx → Res) (hb : x.idle (body x) = .done t) :
    issue i s body = .next (moveOn x t) := by
  rw [issue_go h, hb, moveOn, issues_instr h]
  rfl

theorem issue_fault {i : Instr} {s : State} {x : Ctx} {t : Trap} (h : Issues i s x) (body : Ctx → Res) (hb : body x = .fault t) :
    issue i s body = .next (s.raise x.g.id x.p.id t) := by
  rw [issue_go h, hb, Ctx.idle_fault]
  rfl

theorem issue_hold {i : Instr} {s : State} {x : Ctx} {k : Hold} (h : Issues i s x) (body : Ctx → Res) (hb : body x = .hold k) :
    issue i s body = .next (s.holdSplit x.g.id x.p.id k) := by
  rw [issue_go h, hb, Ctx.idle_hold]
  rfl

theorem issue_moved {i : Instr} {s t : State} {x : Ctx} (h : Issues i s x) (body : Ctx → Res) (hb : body x = .moved t) :
    issue i s body = .next t := by
  rw [issue_go h, hb, Ctx.idle_moved]
  rfl

theorem issue_raised {i : Instr} {s t : State} {x : Ctx} {f : Trap} (h : Issues i s x) (body : Ctx → Res)
    (hb : body x = .raised f t) : issue i s body = .next (t.raise x.g.id x.p.id f) := by
  rw [issue_go h, hb, Ctx.idle_raised]
  rfl

/-- A word whose checks fail raises their fault, whatever its effect would be. -/
theorem issue_refused {i : Instr} {s : State} {g : Group} {p : Split} {c : Clause} {t : Trap} (hi : s.issuer = some (g, p, c))
    (h : preIssue i s g p c = .fault t) (body : Ctx → Res) : issue i s body = .next (s.raise g.id p.id t) := by
  unfold issue
  rw [hi]
  dsimp only
  rw [h]

theorem issue_held {i : Instr} {s : State} {g : Group} {p : Split} {c : Clause} {k : Hold} (hi : s.issuer = some (g, p, c))
    (h : preIssue i s g p c = .hold k) (body : Ctx → Res) : issue i s body = .next (s.holdSplit g.id p.id k) := by
  unfold issue
  rw [hi]
  dsimp only
  rw [h]

/-- With a split selected, an instruction of a split always answers a next state. -/
theorem issue_next {i : Instr} {s : State} {g : Group} {p : Split} {c : Clause} (hi : s.issuer = some (g, p, c))
    (body : Ctx → Res) : ∃ t, issue i s body = .next t := by
  unfold issue
  rw [hi]
  dsimp only
  split <;> exact ⟨_, rfl⟩

end Sys2Proof.Machine
end

