-- ==== Sys2Proof/Laws/Keeps.lean ====
section
/-! SUPPORT. The shared operations keep memory canonical and the fixed tables whole: one lemma for each, to be cited by every
instruction's and every event's proof. -/

namespace Sys2Proof.Machine

open Sys2Proof Sys2Proof.Safety

/-- From the first state to the second, what is canonical stays canonical and tables keep their sizes. -/
def Keeps (s t : State) : Prop := (Canonical s → Canonical t) ∧ (TablesWhole s → TablesWhole t)

theorem Keeps.refl (s : State) : Keeps s s := ⟨id, id⟩

theorem Keeps.trans {s t u : State} (h : Keeps s t) (k : Keeps t u) : Keeps s u := ⟨k.1 ∘ h.1, k.2 ∘ h.2⟩

/-- A state with the same memory, tags and table sizes. -/
theorem Keeps.of_eq {s t : State} (hm : t.mem = s.mem) (ht : t.tags = s.tags) (hc : t.contexts.length = s.contexts.length)
    (hd : t.dies.length = s.dies.length) (hq : t.queues.length = s.queues.length) (hi : t.islands.length = s.islands.length) :
    Keeps s t := by
  unfold Keeps Canonical TablesWhole
  rw [hm, ht, hc, hd, hq, hi]
  exact ⟨id, id⟩

theorem Keeps.foldl {α : Type} (f : State → α → State) (h : ∀ s a, Keeps s (f s a)) (l : List α) (s : State) :
    Keeps s (l.foldl f s) := by
  induction l generalizing s with
  | nil => exact .refl s
  | cons a t ih => exact (h s a).trans (ih _)

/-! ### Updates -/

theorem Keeps.modGroup (s : State) (gid : Nat) (f : Group → Group) : Keeps s (s.modGroup gid f) :=
  .of_eq rfl rfl rfl rfl rfl rfl
theorem Keeps.modSplit (s : State) (gid pid : Nat) (f : Split → Split) : Keeps s (s.modSplit gid pid f) := .modGroup ..
theorem Keeps.modWorkgroup (s : State) (n : Nat) (f : Workgroup → Workgroup) : Keeps s (s.modWorkgroup n f) :=
  .of_eq rfl rfl rfl rfl rfl rfl
theorem Keeps.modLaunch (s : State) (n : Nat) (f : Launch → Launch) : Keeps s (s.modLaunch n f) :=
  .of_eq rfl rfl rfl rfl rfl rfl
theorem Keeps.modPass (s : State) (n : Nat) (f : Pass → Pass) : Keeps s (s.modPass n f) := .of_eq rfl rfl rfl rfl rfl rfl
theorem Keeps.modContext (s : State) (n : Nat) (f : Context → Context) : Keeps s (s.modContext n f) :=
  .of_eq rfl rfl (by simp) rfl rfl rfl
theorem Keeps.modDie (s : State) (n : Nat) (f : Die → Die) : Keeps s (s.modDie n f) := .of_eq rfl rfl rfl (by simp) rfl rfl
theorem Keeps.modLink (s : State) (n : Nat) (f : Link → Link) : Keeps s (s.modLink n f) := .of_eq rfl rfl rfl rfl rfl rfl
theorem Keeps.modPort (s : State) (n : Nat) (f : LencyPort → LencyPort) : Keeps s (s.modPort n f) :=
  .of_eq rfl rfl rfl rfl rfl rfl
theorem Keeps.modIsland (s : State) (n : Nat) (f : Island → Island) : Keeps s (s.modIsland n f) :=
  .of_eq rfl rfl rfl rfl rfl (by simp)
theorem Keeps.modHeld (s : State) (n : Nat) (f : HeldStore → HeldStore) : Keeps s (s.modHeld n f) :=
  .of_eq rfl rfl rfl rfl rfl rfl
theorem Keeps.dropHeld (s : State) (n : Nat) : Keeps s (s.dropHeld n) := .of_eq rfl rfl rfl rfl rfl rfl
theorem Keeps.send (s : State) (p : MeshPacket) : Keeps s (s.send p) := .of_eq rfl rfl rfl rfl rfl rfl
theorem Keeps.bump (s : State) : Keeps s s.bump := .of_eq rfl rfl rfl rfl rfl rfl
theorem Keeps.clock (s : State) : Keeps s s.clock := .of_eq rfl rfl rfl rfl rfl rfl

/-! ### Memory -/

theorem Keeps.writeMem (s : State) (k : Nat) (bs : List Byte) : Keeps s (s.writeMem k bs) :=
  ⟨fun h => ⟨State.wf_writeMem s k bs h.1, h.2⟩, id⟩
theorem Keeps.writeTag (s : State) (k : Nat) (t : BitVec 4) : Keeps s (s.writeTag k t) :=
  ⟨fun h => ⟨h.1, State.wf_writeTag s k t h.2⟩, id⟩
theorem Keeps.writeKeys (s : State) (ks : List Nat) (bs : List Byte) : Keeps s (s.writeKeys ks bs) :=
  .foldl (fun s k => { s.writeMem k bs with l2 := s.l2.filter fun e => e.bytes.isEmpty || !overlap e.key 128 k bs.length })
    (fun s k => .trans (.writeMem s k bs) (.of_eq rfl rfl rfl rfl rfl rfl)) ks s
theorem Keeps.writeCopies (s : State) (die pa : Nat) (bs : List Byte) : Keeps s (s.writeCopies die pa bs) := by
  unfold State.writeCopies
  split
  · exact .writeKeys ..
  · exact .refl s
theorem Keeps.physWrite (s : State) (die pa n v : Nat) : Keeps s (s.physWrite die pa n v) := .writeCopies ..

/-! ### Requests for lines, and to other packages (R398, R407) -/

theorem Keeps.nextTag (s : State) : Keeps s s.nextTag.2 := .of_eq rfl rfl rfl rfl rfl rfl

theorem Keeps.sendFabric (s : State) (n : Nat) (p : MeshPacket) (o : Option (Nat × Nat)) (r : Nat) : Keeps s (s.sendFabric n p o r) :=
  .of_eq rfl rfl rfl rfl rfl rfl

theorem Keeps.askLine (s : State) (die home : Nat) (w : Bool) (line : Nat) : Keeps s (s.askLine die home w line).2 := by
  unfold State.askLine
  repeat' split
  all_goals exact .refl s

theorem Keeps.fetchLine (s : State) (die home : Nat) (w : Bool) (line : Nat) : Keeps s (s.fetchLine die home w line) := by
  unfold State.fetchLine
  dsimp only
  generalize (if w = true then _ else _ : Bool) = b
  cases b
  · exact .askLine ..
  · exact .refl s

theorem Keeps.ask (s : State) (g : Group) (fid : Nat) (ls : LaneMask) (r : Request) (ty aux : Nat) (bs : List Byte) (w : Bool) (k : Word) :
    Keeps s (s.ask g fid ls r ty aux bs w k).2 :=
  .of_eq rfl rfl rfl rfl rfl rfl

theorem Keeps.sendStores (s : State) (g : Group) (fid : Nat) (m : LaneMask) (q : Option Path) (aux : Nat) (rs : List (Request × List Byte))
    (k : Nat → Word) : Keeps s (s.sendStores g fid m q aux rs k) := by
  unfold State.sendStores
  dsimp only
  have h := Keeps.foldl (fun (s : State) (e : Request × List Byte) => (s.ask g fid (laneBit e.1.lane) e.1 3 aux e.2 true (k e.1.lane)).2)
    (fun s e => .ask ..) (rs.filter fun e => s.reachable e.1) s
  split
  · exact h
  · exact h.trans (.modGroup ..)

/-! ### The accesses a group has still to perform (R226, R230) -/

theorem Keeps.fitL1 (s : State) (d c : Nat) : Keeps s (s.fitL1 d c) := .of_eq rfl rfl rfl rfl rfl rfl
theorem Keeps.dropLines (s : State) (f : L1Line → Bool) : Keeps s (s.dropLines f) := .of_eq rfl rfl rfl rfl rfl rfl
theorem Keeps.dropLine (s : State) (g : Group) (k : Nat) : Keeps s (s.dropLine g k) := .dropLines ..
theorem Keeps.dropL1 (s : State) (g : Group) : Keeps s (s.dropL1 g) := .dropLines ..
theorem Keeps.writeLine (s : State) (g : Group) (k : Nat) (bs : List Byte) : Keeps s (s.writeLine g k bs) :=
  .of_eq rfl rfl rfl rfl rfl rfl

theorem Keeps.fixReads (s : State) (g : Group) (f : Flight) (sel : LateRead → Bool) (val : LateRead → Nat) :
    Keeps s (s.fixReads g f sel val) := by
  unfold State.fixReads
  dsimp only
  split
  · exact .refl s
  · exact .trans (.foldl (fun s (r : LateRead) => s.dropLine g r.key) (fun s r => .dropLine s g r.key) _ s) (.modGroup ..)

theorem Keeps.fixIn (s : State) (g : Group) (f : Flight) (sel : LateRead → Bool) : Keeps s (s.fixIn g f sel) := .fixReads ..

theorem Keeps.fixGroup (s : State) (gid : Nat) (sel : LateRead → Bool) : Keeps s (s.fixGroup gid sel) := by
  unfold State.fixGroup
  split
  · exact .refl s
  · exact .foldl _ (fun s f => .fixIn s _ f sel) _ s

theorem Keeps.fixOver (s : State) (k n : Nat) : Keeps s (s.fixOver k n) :=
  .foldl (fun (s : State) (g : Group) => s.fixGroup g.id fun r => overlap r.key (loadBytes r.width) k n) (fun s g => .fixGroup s g.id _) _ s

theorem Keeps.dropL2 (s : State) (die : Nat) (f : L2Line → Bool) : Keeps s (s.dropL2 die f) :=
  .trans (.foldl (fun s (e : L2Line) => s.fixOver e.key 128) (fun s e => .fixOver s e.key 128) _ s) (.of_eq rfl rfl rfl rfl rfl rfl)

theorem Keeps.dropOlds (s : State) (gid : Nat) (f : OldSector → Bool) : Keeps s (s.dropOlds gid f) := by
  unfold State.dropOlds
  split
  · exact .refl s
  · exact .trans (.foldl (fun s (o : OldSector) => s.fixGroup gid fun r => overlap r.key (loadBytes r.width) o.key 32)
      (fun s o => .fixGroup s gid _) _ s) (.modGroup ..)

theorem Keeps.noteSector (s : State) (gid : Nat) (ls : LaneMask) (fid : Nat) (q : Path) (k : Nat) : Keeps s (s.noteSector gid ls fid q k) := by
  unfold State.noteSector
  dsimp only
  split
  · exact .modGroup ..
  · exact .dropOlds ..

theorem Keeps.putBytes (s : State) (g : Group) (k : Nat) (bs : List Byte) : Keeps s (s.putBytes g k bs) :=
  (Keeps.writeMem s k bs).trans (.of_eq rfl rfl rfl rfl rfl rfl)

theorem Keeps.writeEvent (s : State) (g : Group) (ls : LaneMask) (fid : Nat) (q : Option Path) (k : Nat) (bs : List Byte) :
    Keeps s (s.writeEvent g ls fid q k bs) := by
  unfold State.writeEvent
  refine .trans ?_ (.trans (.putBytes ..) (.modGroup ..))
  cases q with
  | none => exact .refl s
  | some q => exact .foldl _ (fun s k => .noteSector s g.id ls fid q k) _ s

theorem Keeps.performWrite (s : State) (g : Group) (ls : LaneMask) (f : Nat) (q : Option Path) (w : LaneWrite) :
    Keeps s (s.performWrite g ls f q w) := .writeEvent ..

theorem Keeps.performWrites (s : State) (g : Group) (ls : LaneMask) (f : Nat) (q : Option Path) (ws : List LaneWrite) :
    Keeps s (s.performWrites g ls f q ws) := .foldl _ (fun s w => .performWrite s g ls f q w) ws s

theorem Keeps.performAtom (s : State) (g : Group) (f : Flight) (u : AtomUnit) : Keeps s (s.performAtom g f u) :=
  .trans (.trans (.writeEvent s g f.lanes f.id f.path u.key _) (.dropLine ..)) (.modGroup ..)

theorem Keeps.askWrite (s : State) (g : Group) (fid : Nat) (w : LaneWrite) : Keeps s (s.askWrite g fid w) := by
  unfold State.askWrite
  repeat' split
  all_goals first
    | exact .refl s
    | exact .fetchLine ..

theorem Keeps.askAtom (s : State) (g : Group) (fid : Nat) (u : AtomUnit) : Keeps s (s.askAtom g fid u) := by
  unfold State.askAtom
  repeat' split
  all_goals first
    | exact .refl s
    | exact .fetchLine ..
    | exact .trans (.trans (.nextTag s) (.foldl _ (fun s pl => .send s _) _ _)) (.modGroup ..)

theorem Keeps.flushWrites (s : State) (g : Group) (f : Flight) (sel : Nat × Nat → Bool) : Keeps s (s.flushWrites g f sel) := by
  refine .foldl _ (fun s w => ?_) f.writes s
  dsimp only
  repeat' split
  all_goals first
    | exact .refl s
    | exact .trans (.performWrite ..) (.modGroup ..)
    | exact .askWrite ..

theorem Keeps.flushAtoms (s : State) (g : Group) (f : Flight) (sel : Nat × Nat → Bool) : Keeps s (s.flushAtoms g f sel) := by
  refine .foldl _ (fun s u => ?_) f.atoms s
  repeat' split
  all_goals first
    | exact .refl s
    | exact .performAtom ..
    | exact .askAtom ..

theorem Keeps.settleFlight (s : State) (gid fid : Nat) (sel : Nat × Nat → Bool) : Keeps s (s.settleFlight gid fid sel) := by
  unfold State.settleFlight
  split
  · exact .refl s
  · exact .trans (.trans (.flushWrites ..) (.flushAtoms ..)) (.fixIn ..)

theorem Keeps.performReady (s : State) (gid : Nat) : Keeps s (s.performReady gid) := by
  unfold State.performReady
  split
  · exact .refl s
  · exact .foldl (fun (s : State) (f : Flight) => s.settleFlight gid f.id fun _ => true) (fun s f => .settleFlight s gid f.id _) _ s

theorem Keeps.performAll (s : State) (gid : Nat) : Keeps s (s.performAll gid) := .trans (.performReady s gid) (.dropOlds ..)

theorem Keeps.orderFor (s : State) (g : Group) (ls : LaneMask) (q : Option Path) (cells : List (Nat × Nat)) :
    Keeps s (s.orderFor g ls q cells) :=
  .foldl (fun (s : State) (f : Flight) => s.settleFlight g.id f.id fun c => meets c (g.chainCells ls q cells))
    (fun s f => .settleFlight s g.id f.id _) _ s

theorem Keeps.addOrder (s : State) (gid : Nat) (ls : LaneMask) (k : OrderKind) (w : Bool) : Keeps s (s.addOrder gid ls k w) := .modGroup ..

theorem Keeps.release (s : State) (gid : Nat) (ls : LaneMask) (sc : Scope) : Keeps s (s.release gid ls sc) := .addOrder ..

theorem Keeps.acquire (s : State) (g : Group) (ls : LaneMask) (sc : Scope) : Keeps s (s.acquire g ls sc) := by
  unfold State.acquire
  dsimp only
  split
  · exact .dropOlds ..
  · exact .trans (.dropOlds s g.id _) (.dropL1 ..)

/-! ### Translation and the checks of an access -/

theorem Keeps.cache (s : State) (t : Tlb) : Keeps s (s.cache t) := .of_eq rfl rfl rfl rfl rfl rfl

theorem Keeps.discardStale (s : State) (t : Trap) : Keeps s (s.discardStale t) := by
  unfold State.discardStale
  split
  · exact .refl s
  · exact .of_eq rfl rfl rfl rfl rfl rfl

theorem Keeps.cacheL1 (s : State) (c : Option Nat) (t : Tlb) : Keeps s (s.cacheL1 c t) := by
  unfold State.cacheL1
  split
  · exact .cache ..
  · exact .refl s

theorem Keeps.cacheWalk (s : State) (ctx die va : Nat) (lf : Leaf) : Keeps s (s.cacheWalk ctx die va lf) := by
  unfold State.cacheWalk
  split
  · exact .refl s
  · exact .of_eq rfl rfl rfl rfl rfl rfl

theorem Keeps.fetchWalk (s : State) (die : Nat) (lf : Leaf) : Keeps s (s.fetchWalk die lf) := by
  refine .foldl _ (fun s a => ?_) _ s
  repeat' split
  all_goals first | exact .refl s | exact .fetchLine ..

/-- A leaf that is used changes memory only by its A and D bits. -/
theorem Keeps.useLeaf (s : State) (ctx die : Nat) (core : Option Nat) (va : Nat) (need : Need) (lf : Leaf) :
    Keeps s (s.useLeaf ctx die core va need lf).1 := by
  unfold State.useLeaf
  dsimp only
  refine .trans ?_ (.trans (.cache ..) (.cacheL1 ..))
  have h := Keeps.trans (.fetchWalk s die lf) (.cacheWalk _ ctx die va lf)
  repeat' split
  all_goals first
    | exact h
    | exact h.trans (.physWrite ..)

/-- A translation changes memory only by the A and D bits of the leaf it walks to, and the caches. -/
theorem Keeps.translate {s t : State} {ctx die va : Nat} {need : Need} {core : Option Nat} {x : Xlat}
    (h : translate s ctx die va need core = .ok (t, x)) : Keeps s t := by
  unfold Machine.translate at h
  split at h
  · simp only [Except.ok.injEq, Prod.mk.injEq] at h
    obtain ⟨rfl, -⟩ := h
    exact .cacheL1 ..
  split at h
  · cases h
  dsimp only at h
  repeat' split at h
  all_goals first
    | cases h; done
    | simp only [Except.ok.injEq] at h
      have hu := congrArg Prod.fst h
      subst hu
      exact .useLeaf ..

theorem Keeps.grantAt {s t : State} {p : Place} {pa size tag coh e : Nat} {need : Need} {tagged rep : Bool} {g : Grant}
    (h : s.grantAt p pa size need tagged tag coh rep e = .ok (t, g)) : t = s := by
  unfold State.grantAt at h
  dsimp only at h
  repeat' split at h
  all_goals first
    | cases h; done
    | cases h; rfl

theorem Keeps.accessMapped {s t : State} {a : Agent} {ea size : Nat} {need : Need} {c : Bool} {g : Grant}
    (h : accessMapped s a ea size need c = .ok (t, g)) : Keeps s t := by
  unfold Machine.accessMapped at h
  split at h
  · cases h
  · next s' x hx =>
    rw [Keeps.grantAt h]
    exact .translate hx

/-- The checks of one access keep what they find, but for the translation. -/
theorem Keeps.access {s t : State} {a : Agent} {ea size align : Nat} {need : Need} {c : Bool} {g : Grant}
    (h : access s a ea size align need c = .ok (t, g)) : Keeps s t := by
  unfold Machine.access at h
  split at h
  · cases h
  · split at h
    · cases h
    · exact .accessMapped h

/-- Checks run for each item keep what each of them keeps. -/
theorem Keeps.eachItem {α β : Type} {s t : State} {items : List β} {lane : β → Nat} {ea : β → DWord} {once : Bool}
    {f : State → β → Except Stop (State × α)} {gs : List (β × α)} (hf : ∀ s i t x, f s i = .ok (t, x) → Keeps s t)
    (h : eachItem s items lane ea once f = .ok (t, gs)) : Keeps s t := by
  have key : ∀ (l : List β) (acc : State × List (β × α) × List (Nat × DWord × Trap) × Bool),
      Keeps acc.1 (l.foldl (fun acc i => match f acc.1 i with
        | .ok (s', x) => (s', acc.2.1 ++ [(i, x)], acc.2.2.1, acc.2.2.2)
        | .error (some t) => (acc.1, acc.2.1, acc.2.2.1 ++ [(lane i, ea i, t)], acc.2.2.2)
        | .error none => (acc.1, acc.2.1, acc.2.2.1, true)) acc).1 := by
    intro l
    induction l with
    | nil => exact fun acc => .refl _
    | cons i l ih =>
      intro acc
      rw [List.foldl_cons]
      refine .trans ?_ (ih _)
      split
      · next s' x hx => exact hf _ _ _ _ hx
      · exact .refl _
      · exact .refl _
  unfold Machine.eachItem at h
  dsimp only at h
  split at h
  · cases h
  · split at h
    · cases h
    · cases h; exact key items (s, [], [], false)

theorem Keeps.eachLane {α : Type} {s t : State} {lanes : List Nat} {ea : Nat → DWord} {once : Bool}
    {f : State → Nat → Except Stop (State × α)} {gs : List (Nat × α)} (hf : ∀ s i t x, f s i = .ok (t, x) → Keeps s t)
    (h : eachLane s lanes ea once f = .ok (t, gs)) : Keeps s t := Keeps.eachItem hf h

/-! ### Groups, records and faults -/

theorem Keeps.spillRecord (s : State) (g : Group) (n : Nat) : Keeps s (s.spillRecord g n) := .writeMem ..

theorem Keeps.rejoined (s : State) (gid : Nat) (ls : LaneMask) : Keeps s (s.rejoined gid ls) := by
  unfold State.rejoined
  split
  · exact .refl s
  · exact .trans (.addOrder s gid ls .join false) (.dropOlds ..)

theorem Keeps.putGroup (s : State) (g : Group) : Keeps s (s.putGroup g) := by
  have key : Keeps s (s.modGroup g.id fun _ => g) := .modGroup ..
  unfold State.putGroup
  dsimp only
  split
  · exact key
  · exact .trans (.trans key (.rejoined ..)) (.foldl _ (fun s n => .spillRecord s g n) _ _)

theorem Keeps.boxEvent (s : State) (die kind source : Nat) (d : DWord) : Keeps s (s.boxEvent die kind source d) := .modDie ..

theorem Keeps.queueRecord (s : State) (die fq : Nat) (bs : List Byte) : Keeps s (s.queueRecord die fq bs) := by
  unfold State.queueRecord
  dsimp only
  split
  · exact .refl s
  · split
    · exact .physWrite ..
    · exact .trans (.writeCopies ..) (.physWrite ..)

theorem Keeps.countRecord (s : State) (r : FaultRecord) : Keeps s (s.countRecord r).2 := .modDie ..

theorem Keeps.putRecord (s : State) (c : Nat) (r : FaultRecord) : Keeps s (s.putRecord c r) :=
  .trans (.trans (.countRecord s r) (.boxEvent ..)) (.queueRecord ..)

theorem Keeps.freezeEvent (s : State) (d : Nat) (m : Master) : Keeps s (s.freezeEvent d m) :=
  .trans (.of_eq rfl rfl rfl rfl rfl rfl : Keeps s { s with tick := s.tick + 2 }) (.boxEvent ..)

theorem Keeps.freezeAlone (s : State) (d : Nat) (m : Master) : Keeps s (s.freezeAlone d m) := by
  unfold State.freezeAlone
  split
  · exact .refl s
  · exact .trans (.trans (.trans (.of_eq rfl rfl rfl rfl rfl rfl : Keeps s { s with frozen := s.frozen ++ [(d, m)] })
      (.putRecord ..)) (.freezeEvent ..)) (.of_eq rfl rfl rfl rfl rfl rfl)

theorem Keeps.checkQueue (s : State) (d c : Nat) : Keeps s (s.checkQueue d c) := by
  unfold State.checkQueue
  split
  · exact .freezeAlone ..
  · exact .refl s

theorem Keeps.freezeMaster (s : State) (d : Nat) (m : Master) : Keeps s (s.freezeMaster d m) := by
  unfold State.freezeMaster
  split
  · exact .refl s
  · exact .trans (.freezeAlone ..) (.checkQueue ..)

theorem Keeps.writeRecord (s : State) (c : Nat) (r : FaultRecord) : Keeps s (s.writeRecord c r) :=
  .trans (.putRecord s c r) (.checkQueue ..)

theorem Keeps.sendAway (s : State) (g : Group) (r : Region) : Keeps s (s.sendAway g r) := by
  unfold State.sendAway
  split
  · exact .refl s
  · exact .trans (.trans (.foldl (fun s (h : Home) => s.fetchLine g.die h.die true (lineOf h.pa)) (fun s h => .fetchLine ..) r.homes s)
      (.sendStores ..)) (.modGroup ..)

theorem Keeps.performVersion (s : State) (g : Group) (r : Region) : Keeps s (s.performVersion g r) := by
  unfold State.performVersion
  refine .trans ?_ (.sendAway ..)
  induction r.version with
  | nil => exact .refl s
  | cons e t ih =>
    rw [List.foldr_cons]
    split
    · exact ih
    · exact ih.trans (.putBytes ..)

theorem Keeps.harden (s : State) (gid pid n : Nat) : Keeps s (s.harden gid pid n) := by
  unfold State.harden
  repeat' split
  all_goals first | exact .refl s | exact .trans (.performVersion ..) (.modGroup ..)

theorem Keeps.abortRegion (s : State) (gid pid : Nat) : Keeps s (s.abortRegion gid pid) := by
  unfold State.abortRegion
  repeat' split
  all_goals first | exact .refl s

theorem Keeps.fatal (s : State) (g : Group) (p : Split) (t : Trap) (n : Bool) : Keeps s (s.fatal g p t n) :=
  .of_eq rfl rfl rfl rfl rfl rfl

theorem Keeps.escalate (s : State) (gid pid : Nat) (t : Trap) : Keeps s (s.escalate gid pid t) := by
  unfold State.escalate
  dsimp only
  repeat' split
  all_goals first | exact .modGroup .. | exact .trans (.modGroup s gid _) (.writeRecord ..)

theorem Keeps.saveFrames (s : State) (g : Group) (wb : Nat) (ls : List Nat) : Keeps s (s.saveFrames g wb ls) :=
  .foldl _ (fun s _ => .writeMem s _ _) ls s

theorem Keeps.settleSlices (s : State) (gid : Nat) (ls : LaneMask) : Keeps s (s.settleSlices gid ls) := by
  unfold State.settleSlices
  split
  · exact .refl s
  · exact .foldl (fun (s : State) (f : Flight) => s.settleFlight gid f.id fun _ => true) (fun s f => .settleFlight s gid f.id _) _ s

theorem Keeps.enterHandler (s : State) (g : Group) (p : Split) (t : Trap) : Keeps s (s.enterHandler g p t) :=
  .trans (.trans (.settleSlices s g.id p.mask) (.saveFrames ..)) (.modGroup ..)

/-- Taking a fault down its road. -/
theorem Keeps.takeRoad (s : State) (gid pid : Nat) (t : Trap) : Keeps s (s.takeRoad gid pid t) := by
  unfold State.takeRoad
  dsimp only
  have ha : Keeps s (if (decide (t.cause.cls = CauseClass.h) || decide (t.cause.cls = CauseClass.p)) = true
      then s.abortRegion gid pid else s) := by
    split
    · exact .abortRegion ..
    · exact .refl s
  refine ha.trans ?_
  repeat' split
  all_goals first
    | exact .refl _
    | exact .fatal ..
    | exact .enterHandler ..
    | exact .trans (.modGroup _ gid _) (.escalate ..)

theorem Keeps.deliver (s : State) (gid : Nat) : Keeps s (s.deliver gid) := by
  unfold State.deliver
  repeat' split
  all_goals first
    | exact .refl s
    | exact .fatal ..
    | exact .takeRoad ..

theorem Keeps.raise (s : State) (gid pid : Nat) (t : Trap) : Keeps s (s.raise gid pid t) := by
  unfold State.raise
  split
  · exact .freezeMaster ..
  · exact .trans (.trans (.discardStale s t) (.modGroup ..)) (.deliver ..)

theorem Keeps.leaveHandler (s : State) (g : Group) (h : Handler) (pid : Nat) (e : Bool) : Keeps s (s.leaveHandler g h pid e) := by
  unfold State.leaveHandler
  split
  · exact .refl s
  · exact .trans (.settleSlices s g.id _) (.putGroup ..)

theorem Keeps.holdSplit (s : State) (gid pid : Nat) (h : Hold) : Keeps s (s.holdSplit gid pid h) := .modSplit ..

theorem Keeps.goHeader (s : State) (gid pid : Nat) (a : DWord) : Keeps s (s.goHeader gid pid a) := by
  unfold State.goHeader
  split
  · exact .refl s
  · exact .putGroup ..

theorem Keeps.advance (s : State) (gid pid n : Nat) : Keeps s (s.advance gid pid n) := by
  unfold State.advance
  repeat' split
  all_goals first | exact .refl s | exact .goHeader ..

/-! ### Issue -/

/-- What a result of an instruction's own effect keeps of the state its context sees. -/
def Res.Kept (s : State) : Res → Prop
  | .done t => Keeps s t
  | .moved t => Keeps s t
  | .fault _ => True
  | .hold _ => True
  | .held _ t => Keeps s t
  | .raised _ t => Keeps s t

theorem Keeps.finish {s : State} (gid pid n : Nat) {r : Res} (h : r.Kept s) : Keeps s (s.finish gid pid n r) := by
  cases r with
  | done t => exact h.trans (.advance ..)
  | moved t => exact h
  | fault t => exact .raise ..
  | hold k => exact .holdSplit ..
  | held k t => exact h.trans (.holdSplit ..)
  | raised f t => exact h.trans (.raise ..)

/-- What a word's own effect keeps, the word keeps where no lane acts (R13, R18). -/
theorem Res.Kept.idle {s : State} (x : Ctx) {r : Res} (h : r.Kept s) : (x.idle r).Kept s := by
  unfold Ctx.idle
  split
  · split
    · exact Keeps.trans h (.modSplit ..)
    · exact h
  · split
    · split
      · exact h
      · exact Keeps.trans h (.modGroup ..)
    · exact h

end Sys2Proof.Machine
end

