-- ==== Sys2Proof/Laws/PerInstr.lean ====
section
/-! SUPPORT. One lemma per constructor: the word that an instruction encodes to decodes to it (R27–R41). -/

namespace Sys2Proof

theorem modifier_some {α : Type} (x : α) (k : α → Decoded) : modifier (some x) k = k x := rfl
theorem field_some {α : Type} (x : α) (k : α → Decoded) : field (some x) k = k x := rfl
theorem unused_112 (k : Decoded) : unused 112 k = k := rfl
theorem finish_wf {i : Instr} (h : i.wf = true) : finish i = .ok i := if_pos h

/-- The inverted p7 is no predicate of a transfer. -/
theorem immOk_of_wf {i : Instr} (h : i.wf = true) : i.immOk = true := by
  unfold Instr.wf at h
  simp only [Bool.and_eq_true] at h
  exact h.1.1.1.1

theorem xferOk {p : XferPred} (h : p.ok = true) : ¬ (p.p = 7 ∧ p.inv = true) := by
  intro ⟨h1, h2⟩
  obtain ⟨q, i⟩ := p
  subst h1; subst h2
  exact absurd h (by decide)

end Sys2Proof

namespace Sys2Proof.Laws.RoundTrip

open Sys2Proof

/-- The round trip of a well-formed instruction, and of a header. -/
def Statement (i : Instr) : Prop :=
  i.wf = true → (i.isInstruction = true → decode (encode i) = .ok i) ∧ ∀ h, i = .clauseHeader h → decodeHeader (encode i) = some h

theorem clauseHeader (h : Header) : Statement (.clauseHeader h) := by
  intro hw
  refine ⟨fun c => (Bool.noConfusion c), fun k e => ?_⟩
  cases e
  exact decodeHeader_encode h hw

theorem longLatencyComplete (g : Nat) (f : Nat) : Statement (.longLatencyComplete g f) := by
  intro _
  exact ⟨fun c => (Bool.noConfusion c), fun k e => (by cases e)⟩

theorem pathCompletion (g : Nat) (p : Nat) : Statement (.pathCompletion g p) := by
  intro _
  exact ⟨fun c => (Bool.noConfusion c), fun k e => (by cases e)⟩

theorem watchdogMemwait (g : Nat) (p : Nat) : Statement (.watchdogMemwait g p) := by
  intro _
  exact ⟨fun c => (Bool.noConfusion c), fun k e => (by cases e)⟩

theorem waitmemWake (g : Nat) (p : Nat) : Statement (.waitmemWake g p) := by
  intro _
  exact ⟨fun c => (Bool.noConfusion c), fun k e => (by cases e)⟩

theorem waitmemRecheck (g : Nat) (p : Nat) : Statement (.waitmemRecheck g p) := by
  intro _
  exact ⟨fun c => (Bool.noConfusion c), fun k e => (by cases e)⟩

theorem mov (w : Wide) (d : Operand) (a : Operand) : Statement (.mov w d a) := by
  intro hw
  refine ⟨fun _ => ?_, fun k e => (by cases e)⟩
  refine (decode_pack _ _ _ _ _ (by decide) (by have := Wide.code_lt w; omega) (by have := Operand.code_lt d; omega) (by have := Operand.code_lt a; omega) (by decide)).trans ?_
  show modifier _ _ = _
  simp only [Wide.ofCode_code, Operand.ofCode_code, modifier_some, field_some, unused_112, finish_wf hw]

theorem sel (p : PredSel) (d : Operand) (a : Operand) (b : Operand) : Statement (.sel p d a b) := by
  intro hw
  refine ⟨fun _ => ?_, fun k e => (by cases e)⟩
  refine (decode_pack _ _ _ _ _ (by decide) (by have := PredSel.code_lt p; omega) (by have := Operand.code_lt d; omega) (by have := Operand.code_lt a; omega) (by have := Operand.code_lt b; omega)).trans ?_
  show modifier _ _ = _
  simp only [PredSel.ofCode_code, Operand.ofCode_code, modifier_some, field_some, finish_wf hw]

theorem iadd (t : AType) (d : Operand) (a : Operand) (b : Operand) : Statement (.iadd t d a b) := by
  intro hw
  refine ⟨fun _ => ?_, fun k e => (by cases e)⟩
  refine (decode_pack _ _ _ _ _ (by decide) (by have := AType.code_lt t; omega) (by have := Operand.code_lt d; omega) (by have := Operand.code_lt a; omega) (by have := Operand.code_lt b; omega)).trans ?_
  show modifier _ _ = _
  simp only [AType.ofCode_code, Operand.ofCode_code, modifier_some, field_some, finish_wf hw]

theorem isub (t : AType) (d : Operand) (a : Operand) (b : Operand) : Statement (.isub t d a b) := by
  intro hw
  refine ⟨fun _ => ?_, fun k e => (by cases e)⟩
  refine (decode_pack _ _ _ _ _ (by decide) (by have := AType.code_lt t; omega) (by have := Operand.code_lt d; omega) (by have := Operand.code_lt a; omega) (by have := Operand.code_lt b; omega)).trans ?_
  show modifier _ _ = _
  simp only [AType.ofCode_code, Operand.ofCode_code, modifier_some, field_some, finish_wf hw]

theorem imul (t : IType) (d : Operand) (a : Operand) (b : Operand) : Statement (.imul t d a b) := by
  intro hw
  refine ⟨fun _ => ?_, fun k e => (by cases e)⟩
  refine (decode_pack _ _ _ _ _ (by decide) (by have := IType.code_lt t; omega) (by have := Operand.code_lt d; omega) (by have := Operand.code_lt a; omega) (by have := Operand.code_lt b; omega)).trans ?_
  show modifier _ _ = _
  simp only [IType.ofCode_code, Operand.ofCode_code, modifier_some, field_some, finish_wf hw]

theorem imulh (t : IType) (d : Operand) (a : Operand) (b : Operand) : Statement (.imulh t d a b) := by
  intro hw
  refine ⟨fun _ => ?_, fun k e => (by cases e)⟩
  refine (decode_pack _ _ _ _ _ (by decide) (by have := IType.code_lt t; omega) (by have := Operand.code_lt d; omega) (by have := Operand.code_lt a; omega) (by have := Operand.code_lt b; omega)).trans ?_
  show modifier _ _ = _
  simp only [IType.ofCode_code, Operand.ofCode_code, modifier_some, field_some, finish_wf hw]

theorem imad (t : AType) (d : Operand) (a : Operand) (b : Operand) : Statement (.imad t d a b) := by
  intro hw
  refine ⟨fun _ => ?_, fun k e => (by cases e)⟩
  refine (decode_pack _ _ _ _ _ (by decide) (by have := AType.code_lt t; omega) (by have := Operand.code_lt d; omega) (by have := Operand.code_lt a; omega) (by have := Operand.code_lt b; omega)).trans ?_
  show modifier _ _ = _
  simp only [AType.ofCode_code, Operand.ofCode_code, modifier_some, field_some, finish_wf hw]

theorem idiv (t : IType) (d : Operand) (a : Operand) (b : Operand) : Statement (.idiv t d a b) := by
  intro hw
  refine ⟨fun _ => ?_, fun k e => (by cases e)⟩
  refine (decode_pack _ _ _ _ _ (by decide) (by have := IType.code_lt t; omega) (by have := Operand.code_lt d; omega) (by have := Operand.code_lt a; omega) (by have := Operand.code_lt b; omega)).trans ?_
  show modifier _ _ = _
  simp only [IType.ofCode_code, Operand.ofCode_code, modifier_some, field_some, finish_wf hw]

theorem irem (t : IType) (d : Operand) (a : Operand) (b : Operand) : Statement (.irem t d a b) := by
  intro hw
  refine ⟨fun _ => ?_, fun k e => (by cases e)⟩
  refine (decode_pack _ _ _ _ _ (by decide) (by have := IType.code_lt t; omega) (by have := Operand.code_lt d; omega) (by have := Operand.code_lt a; omega) (by have := Operand.code_lt b; omega)).trans ?_
  show modifier _ _ = _
  simp only [IType.ofCode_code, Operand.ofCode_code, modifier_some, field_some, finish_wf hw]

theorem imin (t : IType) (d : Operand) (a : Operand) (b : Operand) : Statement (.imin t d a b) := by
  intro hw
  refine ⟨fun _ => ?_, fun k e => (by cases e)⟩
  refine (decode_pack _ _ _ _ _ (by decide) (by have := IType.code_lt t; omega) (by have := Operand.code_lt d; omega) (by have := Operand.code_lt a; omega) (by have := Operand.code_lt b; omega)).trans ?_
  show modifier _ _ = _
  simp only [IType.ofCode_code, Operand.ofCode_code, modifier_some, field_some, finish_wf hw]

theorem imax (t : IType) (d : Operand) (a : Operand) (b : Operand) : Statement (.imax t d a b) := by
  intro hw
  refine ⟨fun _ => ?_, fun k e => (by cases e)⟩
  refine (decode_pack _ _ _ _ _ (by decide) (by have := IType.code_lt t; omega) (by have := Operand.code_lt d; omega) (by have := Operand.code_lt a; omega) (by have := Operand.code_lt b; omega)).trans ?_
  show modifier _ _ = _
  simp only [IType.ofCode_code, Operand.ofCode_code, modifier_some, field_some, finish_wf hw]

theorem icmp (c : ICond) (pd : PredReg) (a : Operand) (b : Operand) : Statement (.icmp c pd a b) := by
  intro hw
  refine ⟨fun _ => ?_, fun k e => (by cases e)⟩
  refine (decode_pack _ _ _ _ _ (by decide) (by have := ICond.code_lt c; omega) (by have := PredReg.code_lt pd; omega) (by have := Operand.code_lt a; omega) (by have := Operand.code_lt b; omega)).trans ?_
  show modifier _ _ = _
  simp only [ICond.ofCode_code, PredReg.ofCode_code, Operand.ofCode_code, modifier_some, field_some, finish_wf hw]

theorem lea (k : Shift) (d : Operand) (a : Operand) (b : Operand) : Statement (.lea k d a b) := by
  intro hw
  refine ⟨fun _ => ?_, fun k e => (by cases e)⟩
  refine (decode_pack _ _ _ _ _ (by decide) (by have := Shift.code_lt k; omega) (by have := Operand.code_lt d; omega) (by have := Operand.code_lt a; omega) (by have := Operand.code_lt b; omega)).trans ?_
  show modifier _ _ = _
  simp only [Shift.ofCode_code, Operand.ofCode_code, modifier_some, field_some, finish_wf hw]

theorem land (w : Wide) (d : Operand) (a : Operand) (b : Operand) : Statement (.land w d a b) := by
  intro hw
  refine ⟨fun _ => ?_, fun k e => (by cases e)⟩
  refine (decode_pack _ _ _ _ _ (by decide) (by have := Wide.code_lt w; omega) (by have := Operand.code_lt d; omega) (by have := Operand.code_lt a; omega) (by have := Operand.code_lt b; omega)).trans ?_
  show modifier _ _ = _
  simp only [Wide.ofCode_code, Operand.ofCode_code, modifier_some, field_some, finish_wf hw]

theorem lor (w : Wide) (d : Operand) (a : Operand) (b : Operand) : Statement (.lor w d a b) := by
  intro hw
  refine ⟨fun _ => ?_, fun k e => (by cases e)⟩
  refine (decode_pack _ _ _ _ _ (by decide) (by have := Wide.code_lt w; omega) (by have := Operand.code_lt d; omega) (by have := Operand.code_lt a; omega) (by have := Operand.code_lt b; omega)).trans ?_
  show modifier _ _ = _
  simp only [Wide.ofCode_code, Operand.ofCode_code, modifier_some, field_some, finish_wf hw]

theorem lxor (w : Wide) (d : Operand) (a : Operand) (b : Operand) : Statement (.lxor w d a b) := by
  intro hw
  refine ⟨fun _ => ?_, fun k e => (by cases e)⟩
  refine (decode_pack _ _ _ _ _ (by decide) (by have := Wide.code_lt w; omega) (by have := Operand.code_lt d; omega) (by have := Operand.code_lt a; omega) (by have := Operand.code_lt b; omega)).trans ?_
  show modifier _ _ = _
  simp only [Wide.ofCode_code, Operand.ofCode_code, modifier_some, field_some, finish_wf hw]

theorem landn (w : Wide) (d : Operand) (a : Operand) (b : Operand) : Statement (.landn w d a b) := by
  intro hw
  refine ⟨fun _ => ?_, fun k e => (by cases e)⟩
  refine (decode_pack _ _ _ _ _ (by decide) (by have := Wide.code_lt w; omega) (by have := Operand.code_lt d; omega) (by have := Operand.code_lt a; omega) (by have := Operand.code_lt b; omega)).trans ?_
  show modifier _ _ = _
  simp only [Wide.ofCode_code, Operand.ofCode_code, modifier_some, field_some, finish_wf hw]

theorem shl (w : Wide) (d : Operand) (a : Operand) (b : Operand) : Statement (.shl w d a b) := by
  intro hw
  refine ⟨fun _ => ?_, fun k e => (by cases e)⟩
  refine (decode_pack _ _ _ _ _ (by decide) (by have := Wide.code_lt w; omega) (by have := Operand.code_lt d; omega) (by have := Operand.code_lt a; omega) (by have := Operand.code_lt b; omega)).trans ?_
  show modifier _ _ = _
  simp only [Wide.ofCode_code, Operand.ofCode_code, modifier_some, field_some, finish_wf hw]

theorem shr (w : Wide) (d : Operand) (a : Operand) (b : Operand) : Statement (.shr w d a b) := by
  intro hw
  refine ⟨fun _ => ?_, fun k e => (by cases e)⟩
  refine (decode_pack _ _ _ _ _ (by decide) (by have := Wide.code_lt w; omega) (by have := Operand.code_lt d; omega) (by have := Operand.code_lt a; omega) (by have := Operand.code_lt b; omega)).trans ?_
  show modifier _ _ = _
  simp only [Wide.ofCode_code, Operand.ofCode_code, modifier_some, field_some, finish_wf hw]

theorem sar (w : Wide) (d : Operand) (a : Operand) (b : Operand) : Statement (.sar w d a b) := by
  intro hw
  refine ⟨fun _ => ?_, fun k e => (by cases e)⟩
  refine (decode_pack _ _ _ _ _ (by decide) (by have := Wide.code_lt w; omega) (by have := Operand.code_lt d; omega) (by have := Operand.code_lt a; omega) (by have := Operand.code_lt b; omega)).trans ?_
  show modifier _ _ = _
  simp only [Wide.ofCode_code, Operand.ofCode_code, modifier_some, field_some, finish_wf hw]

theorem rotl (w : Wide) (d : Operand) (a : Operand) (b : Operand) : Statement (.rotl w d a b) := by
  intro hw
  refine ⟨fun _ => ?_, fun k e => (by cases e)⟩
  refine (decode_pack _ _ _ _ _ (by decide) (by have := Wide.code_lt w; omega) (by have := Operand.code_lt d; omega) (by have := Operand.code_lt a; omega) (by have := Operand.code_lt b; omega)).trans ?_
  show modifier _ _ = _
  simp only [Wide.ofCode_code, Operand.ofCode_code, modifier_some, field_some, finish_wf hw]

theorem bfe (sg : Sgn) (d : Operand) (a : Operand) (b : Operand) : Statement (.bfe sg d a b) := by
  intro hw
  refine ⟨fun _ => ?_, fun k e => (by cases e)⟩
  refine (decode_pack _ _ _ _ _ (by decide) (by have := Sgn.code_lt sg; omega) (by have := Operand.code_lt d; omega) (by have := Operand.code_lt a; omega) (by have := Operand.code_lt b; omega)).trans ?_
  show modifier _ _ = _
  simp only [Sgn.ofCode_code, Operand.ofCode_code, modifier_some, field_some, finish_wf hw]

theorem bfi (d : Operand) (a : Operand) (b : Operand) : Statement (.bfi d a b) := by
  intro hw
  refine ⟨fun _ => ?_, fun k e => (by cases e)⟩
  refine (decode_pack _ _ _ _ _ (by decide) (by decide) (by have := Operand.code_lt d; omega) (by have := Operand.code_lt a; omega) (by have := Operand.code_lt b; omega)).trans ?_
  show field _ _ = _
  simp only [Operand.ofCode_code, field_some, finish_wf hw]

theorem popc (d : Operand) (a : Operand) : Statement (.popc d a) := by
  intro hw
  refine ⟨fun _ => ?_, fun k e => (by cases e)⟩
  refine (decode_pack _ _ _ _ _ (by decide) (by decide) (by have := Operand.code_lt d; omega) (by have := Operand.code_lt a; omega) (by decide)).trans ?_
  show field _ _ = _
  simp only [Operand.ofCode_code, field_some, unused_112, finish_wf hw]

theorem clz (d : Operand) (a : Operand) : Statement (.clz d a) := by
  intro hw
  refine ⟨fun _ => ?_, fun k e => (by cases e)⟩
  refine (decode_pack _ _ _ _ _ (by decide) (by decide) (by have := Operand.code_lt d; omega) (by have := Operand.code_lt a; omega) (by decide)).trans ?_
  show field _ _ = _
  simp only [Operand.ofCode_code, field_some, unused_112, finish_wf hw]

theorem ctz (d : Operand) (a : Operand) : Statement (.ctz d a) := by
  intro hw
  refine ⟨fun _ => ?_, fun k e => (by cases e)⟩
  refine (decode_pack _ _ _ _ _ (by decide) (by decide) (by have := Operand.code_lt d; omega) (by have := Operand.code_lt a; omega) (by decide)).trans ?_
  show field _ _ = _
  simp only [Operand.ofCode_code, field_some, unused_112, finish_wf hw]

theorem brev (d : Operand) (a : Operand) : Statement (.brev d a) := by
  intro hw
  refine ⟨fun _ => ?_, fun k e => (by cases e)⟩
  refine (decode_pack _ _ _ _ _ (by decide) (by decide) (by have := Operand.code_lt d; omega) (by have := Operand.code_lt a; omega) (by decide)).trans ?_
  show field _ _ = _
  simp only [Operand.ofCode_code, field_some, unused_112, finish_wf hw]

theorem bswap (d : Operand) (a : Operand) : Statement (.bswap d a) := by
  intro hw
  refine ⟨fun _ => ?_, fun k e => (by cases e)⟩
  refine (decode_pack _ _ _ _ _ (by decide) (by decide) (by have := Operand.code_lt d; omega) (by have := Operand.code_lt a; omega) (by decide)).trans ?_
  show field _ _ = _
  simp only [Operand.ofCode_code, field_some, unused_112, finish_wf hw]

theorem perm (d : Operand) (a : Operand) (b : Operand) : Statement (.perm d a b) := by
  intro hw
  refine ⟨fun _ => ?_, fun k e => (by cases e)⟩
  refine (decode_pack _ _ _ _ _ (by decide) (by decide) (by have := Operand.code_lt d; omega) (by have := Operand.code_lt a; omega) (by have := Operand.code_lt b; omega)).trans ?_
  show field _ _ = _
  simp only [Operand.ofCode_code, field_some, finish_wf hw]

theorem plop (o : PlopOp) (pd : PredReg) (pa : PredReg) (pb : PredReg) : Statement (.plop o pd pa pb) := by
  intro hw
  refine ⟨fun _ => ?_, fun k e => (by cases e)⟩
  refine (decode_pack _ _ _ _ _ (by decide) (by have := PlopOp.code_lt o; omega) (by have := PredReg.code_lt pd; omega) (by have := PredReg.code_lt pa; omega) (by have := PredReg.code_lt pb; omega)).trans ?_
  show modifier _ _ = _
  simp only [PlopOp.ofCode_code, PredReg.ofCode_code, modifier_some, field_some, finish_wf hw]

theorem idp4 (g : Idp4Sign) (d : Operand) (a : Operand) (b : Operand) : Statement (.idp4 g d a b) := by
  intro hw
  refine ⟨fun _ => ?_, fun k e => (by cases e)⟩
  refine (decode_pack _ _ _ _ _ (by decide) (by have := Idp4Sign.code_lt g; omega) (by have := Operand.code_lt d; omega) (by have := Operand.code_lt a; omega) (by have := Operand.code_lt b; omega)).trans ?_
  show modifier _ _ = _
  simp only [Idp4Sign.ofCode_code, Operand.ofCode_code, modifier_some, field_some, finish_wf hw]

theorem window (a : Operand) : Statement (.window a) := by
  intro hw
  refine ⟨fun _ => ?_, fun k e => (by cases e)⟩
  refine (decode_pack _ _ _ _ _ (by decide) (by decide) (by decide) (by have := Operand.code_lt a; omega) (by decide)).trans ?_
  simp only [decodeFields, decodeOps1, Operand.ofCode_code, field_some, unused_112, finish_wf hw]

theorem rdcntCycle (d : Operand) : Statement (.rdcntCycle d) := by
  intro hw
  refine ⟨fun _ => ?_, fun k e => (by cases e)⟩
  refine (decode_pack _ _ _ _ _ (by decide) (by decide) (by have := Operand.code_lt d; omega) (by decide) (by decide)).trans ?_
  show field _ _ = _
  simp only [Operand.ofCode_code, field_some, unused_112, finish_wf hw]

theorem rdcntTime (d : Operand) : Statement (.rdcntTime d) := by
  intro hw
  refine ⟨fun _ => ?_, fun k e => (by cases e)⟩
  refine (decode_pack _ _ _ _ _ (by decide) (by decide) (by have := Operand.code_lt d; omega) (by decide) (by decide)).trans ?_
  show field _ _ = _
  simp only [Operand.ofCode_code, field_some, unused_112, finish_wf hw]

theorem rdcntClauses (d : Operand) : Statement (.rdcntClauses d) := by
  intro hw
  refine ⟨fun _ => ?_, fun k e => (by cases e)⟩
  refine (decode_pack _ _ _ _ _ (by decide) (by decide) (by have := Operand.code_lt d; omega) (by decide) (by decide)).trans ?_
  show field _ _ = _
  simp only [Operand.ofCode_code, field_some, unused_112, finish_wf hw]

theorem rdcntPath (d : Operand) (a : Operand) : Statement (.rdcntPath d a) := by
  intro hw
  refine ⟨fun _ => ?_, fun k e => (by cases e)⟩
  refine (decode_pack _ _ _ _ _ (by decide) (by decide) (by have := Operand.code_lt d; omega) (by have := Operand.code_lt a; omega) (by decide)).trans ?_
  show field _ _ = _
  simp only [Operand.ofCode_code, field_some, unused_112, finish_wf hw]

theorem br (p : XferPred) (off : BitVec 21) : Statement (.br p off) := by
  intro hw
  have hi := immOk_of_wf hw
  refine ⟨fun _ => ?_, fun k e => (by cases e)⟩
  refine (decode_packOffset _ _ _ (by decide) (by have := XferPred.code_lt p; omega)).trans ?_
  show modifier _ _ = _
  simp only [offset_fields, XferPred.ofCode_code _ (xferOk hi), modifier_some, finish_wf hw]

theorem jmpr (p : XferPred) (a : Operand) : Statement (.jmpr p a) := by
  intro hw
  have hi := immOk_of_wf hw
  refine ⟨fun _ => ?_, fun k e => (by cases e)⟩
  refine (decode_pack _ _ _ _ _ (by decide) (by have := XferPred.code_lt p; omega) (by decide) (by have := Operand.code_lt a; omega) (by decide)).trans ?_
  show modifier _ _ = _
  simp only [XferPred.ofCode_code _ (xferOk hi), Operand.ofCode_code, modifier_some, field_some, unused_112, finish_wf hw]

theorem call (p : XferPred) (off : BitVec 21) : Statement (.call p off) := by
  intro hw
  have hi := immOk_of_wf hw
  refine ⟨fun _ => ?_, fun k e => (by cases e)⟩
  refine (decode_packOffset _ _ _ (by decide) (by have := XferPred.code_lt p; omega)).trans ?_
  show modifier _ _ = _
  simp only [offset_fields, XferPred.ofCode_code _ (xferOk hi), modifier_some, finish_wf hw]

theorem ret (p : XferPred) : Statement (.ret p) := by
  intro hw
  have hi := immOk_of_wf hw
  refine ⟨fun _ => ?_, fun k e => (by cases e)⟩
  refine (decode_pack _ _ _ _ _ (by decide) (by have := XferPred.code_lt p; omega) (by decide) (by decide) (by decide)).trans ?_
  show modifier _ _ = _
  simp only [XferPred.ofCode_code _ (xferOk hi), modifier_some, unused_112, finish_wf hw]

theorem exit (p : XferPred) : Statement (.exit p) := by
  intro hw
  have hi := immOk_of_wf hw
  refine ⟨fun _ => ?_, fun k e => (by cases e)⟩
  refine (decode_pack _ _ _ _ _ (by decide) (by have := XferPred.code_lt p; omega) (by decide) (by decide) (by decide)).trans ?_
  show modifier _ _ = _
  simp only [XferPred.ofCode_code _ (xferOk hi), modifier_some, unused_112, finish_wf hw]

theorem joinat (off : BitVec 21) : Statement (.joinat off) := by
  intro hw
  refine ⟨fun _ => ?_, fun k e => (by cases e)⟩
  refine (decode_packOffset _ _ _ (by decide) (by decide)).trans ?_
  simp only [decodeFields, decodeOps2, offset_fields, finish_wf hw]

theorem trap (a : Operand) : Statement (.trap a) := by
  intro hw
  refine ⟨fun _ => ?_, fun k e => (by cases e)⟩
  refine (decode_pack _ _ _ _ _ (by decide) (by decide) (by decide) (by have := Operand.code_lt a; omega) (by decide)).trans ?_
  simp only [decodeFields, decodeOps2, Operand.ofCode_code, field_some, unused_112, finish_wf hw]

theorem ld (w : LWidth) (d : Operand) (a : Operand) (b : Operand) : Statement (.ld w d a b) := by
  intro hw
  refine ⟨fun _ => ?_, fun k e => (by cases e)⟩
  refine (decode_pack _ _ _ _ _ (by decide) (by have := LWidth.code_lt w; omega) (by have := Operand.code_lt d; omega) (by have := Operand.code_lt a; omega) (by have := Operand.code_lt b; omega)).trans ?_
  show modifier _ _ = _
  simp only [LWidth.ofCode_code, Operand.ofCode_code, modifier_some, field_some, finish_wf hw]

theorem st (w : SWidth) (d : Operand) (a : Operand) (b : Operand) : Statement (.st w d a b) := by
  intro hw
  refine ⟨fun _ => ?_, fun k e => (by cases e)⟩
  refine (decode_pack _ _ _ _ _ (by decide) (by have := SWidth.code_lt w; omega) (by have := Operand.code_lt d; omega) (by have := Operand.code_lt a; omega) (by have := Operand.code_lt b; omega)).trans ?_
  show modifier _ _ = _
  simp only [SWidth.ofCode_code, Operand.ofCode_code, modifier_some, field_some, finish_wf hw]

theorem ldl (w : LWidth) (d : Operand) (a : Operand) (b : Operand) : Statement (.ldl w d a b) := by
  intro hw
  refine ⟨fun _ => ?_, fun k e => (by cases e)⟩
  refine (decode_pack _ _ _ _ _ (by decide) (by have := LWidth.code_lt w; omega) (by have := Operand.code_lt d; omega) (by have := Operand.code_lt a; omega) (by have := Operand.code_lt b; omega)).trans ?_
  show modifier _ _ = _
  simp only [LWidth.ofCode_code, Operand.ofCode_code, modifier_some, field_some, finish_wf hw]

theorem stl (w : SWidth) (d : Operand) (a : Operand) (b : Operand) : Statement (.stl w d a b) := by
  intro hw
  refine ⟨fun _ => ?_, fun k e => (by cases e)⟩
  refine (decode_pack _ _ _ _ _ (by decide) (by have := SWidth.code_lt w; omega) (by have := Operand.code_lt d; omega) (by have := Operand.code_lt a; omega) (by have := Operand.code_lt b; omega)).trans ?_
  show modifier _ _ = _
  simp only [SWidth.ofCode_code, Operand.ofCode_code, modifier_some, field_some, finish_wf hw]

theorem lds (w : LWidth) (d : Operand) (a : Operand) (b : Operand) : Statement (.lds w d a b) := by
  intro hw
  refine ⟨fun _ => ?_, fun k e => (by cases e)⟩
  refine (decode_pack _ _ _ _ _ (by decide) (by have := LWidth.code_lt w; omega) (by have := Operand.code_lt d; omega) (by have := Operand.code_lt a; omega) (by have := Operand.code_lt b; omega)).trans ?_
  show modifier _ _ = _
  simp only [LWidth.ofCode_code, Operand.ofCode_code, modifier_some, field_some, finish_wf hw]

theorem sts (w : SWidth) (d : Operand) (a : Operand) (b : Operand) : Statement (.sts w d a b) := by
  intro hw
  refine ⟨fun _ => ?_, fun k e => (by cases e)⟩
  refine (decode_pack _ _ _ _ _ (by decide) (by have := SWidth.code_lt w; omega) (by have := Operand.code_lt d; omega) (by have := Operand.code_lt a; omega) (by have := Operand.code_lt b; omega)).trans ?_
  show modifier _ _ = _
  simp only [SWidth.ofCode_code, Operand.ofCode_code, modifier_some, field_some, finish_wf hw]

theorem ldc (w : LWidth) (d : Operand) (a : Operand) (b : Operand) : Statement (.ldc w d a b) := by
  intro hw
  refine ⟨fun _ => ?_, fun k e => (by cases e)⟩
  refine (decode_pack _ _ _ _ _ (by decide) (by have := LWidth.code_lt w; omega) (by have := Operand.code_lt d; omega) (by have := Operand.code_lt a; omega) (by have := Operand.code_lt b; omega)).trans ?_
  show modifier _ _ = _
  simp only [LWidth.ofCode_code, Operand.ofCode_code, modifier_some, field_some, finish_wf hw]

theorem stc (w : SWidth) (d : Operand) (a : Operand) (b : Operand) : Statement (.stc w d a b) := by
  intro hw
  refine ⟨fun _ => ?_, fun k e => (by cases e)⟩
  refine (decode_pack _ _ _ _ _ (by decide) (by have := SWidth.code_lt w; omega) (by have := Operand.code_lt d; omega) (by have := Operand.code_lt a; omega) (by have := Operand.code_lt b; omega)).trans ?_
  show modifier _ _ = _
  simp only [SWidth.ofCode_code, Operand.ofCode_code, modifier_some, field_some, finish_wf hw]

theorem ldd (w : LWidth) (d : Operand) (a : Operand) (b : Operand) : Statement (.ldd w d a b) := by
  intro hw
  refine ⟨fun _ => ?_, fun k e => (by cases e)⟩
  refine (decode_pack _ _ _ _ _ (by decide) (by have := LWidth.code_lt w; omega) (by have := Operand.code_lt d; omega) (by have := Operand.code_lt a; omega) (by have := Operand.code_lt b; omega)).trans ?_
  show modifier _ _ = _
  simp only [LWidth.ofCode_code, Operand.ofCode_code, modifier_some, field_some, finish_wf hw]

theorem std (w : SWidth) (d : Operand) (a : Operand) (b : Operand) : Statement (.std w d a b) := by
  intro hw
  refine ⟨fun _ => ?_, fun k e => (by cases e)⟩
  refine (decode_pack _ _ _ _ _ (by decide) (by have := SWidth.code_lt w; omega) (by have := Operand.code_lt d; omega) (by have := Operand.code_lt a; omega) (by have := Operand.code_lt b; omega)).trans ?_
  show modifier _ _ = _
  simp only [SWidth.ofCode_code, Operand.ofCode_code, modifier_some, field_some, finish_wf hw]

theorem ldb (w : LWidth) (d : Operand) (k : BtSlot) (b : Operand) : Statement (.ldb w d k b) := by
  intro hw
  refine ⟨fun _ => ?_, fun k e => (by cases e)⟩
  refine (decode_pack _ _ _ _ _ (by decide) (by have := LWidth.code_lt w; omega) (by have := Operand.code_lt d; omega) (by have := BtSlot.code_lt k; omega) (by have := Operand.code_lt b; omega)).trans ?_
  show modifier _ _ = _
  simp only [LWidth.ofCode_code, Operand.ofCode_code, BtSlot.ofCode_code, modifier_some, field_some, finish_wf hw]

theorem stb (w : SWidth) (d : Operand) (k : BtSlot) (b : Operand) : Statement (.stb w d k b) := by
  intro hw
  refine ⟨fun _ => ?_, fun k e => (by cases e)⟩
  refine (decode_pack _ _ _ _ _ (by decide) (by have := SWidth.code_lt w; omega) (by have := Operand.code_lt d; omega) (by have := BtSlot.code_lt k; omega) (by have := Operand.code_lt b; omega)).trans ?_
  show modifier _ _ = _
  simp only [SWidth.ofCode_code, Operand.ofCode_code, BtSlot.ofCode_code, modifier_some, field_some, finish_wf hw]

theorem atoms (o : AtomicOp) (d : Operand) (a : Operand) (b : Operand) : Statement (.atoms o d a b) := by
  intro hw
  refine ⟨fun _ => ?_, fun k e => (by cases e)⟩
  refine (decode_pack _ _ _ _ _ (by decide) (by have := AtomicOp.code_lt o; omega) (by have := Operand.code_lt d; omega) (by have := Operand.code_lt a; omega) (by have := Operand.code_lt b; omega)).trans ?_
  show modifier _ _ = _
  simp only [AtomicOp.ofCode_code, Operand.ofCode_code, modifier_some, field_some, finish_wf hw]

theorem atomg (o : AtomicOp) (d : Operand) (a : Operand) (b : Operand) : Statement (.atomg o d a b) := by
  intro hw
  refine ⟨fun _ => ?_, fun k e => (by cases e)⟩
  refine (decode_pack _ _ _ _ _ (by decide) (by have := AtomicOp.code_lt o; omega) (by have := Operand.code_lt d; omega) (by have := Operand.code_lt a; omega) (by have := Operand.code_lt b; omega)).trans ?_
  show modifier _ _ = _
  simp only [AtomicOp.ofCode_code, Operand.ofCode_code, modifier_some, field_some, finish_wf hw]

theorem redg (o : RedOp) (d : Operand) (a : Operand) : Statement (.redg o d a) := by
  intro hw
  refine ⟨fun _ => ?_, fun k e => (by cases e)⟩
  refine (decode_pack _ _ _ _ _ (by decide) (by have := RedOp.code_lt o; omega) (by have := Operand.code_lt d; omega) (by have := Operand.code_lt a; omega) (by decide)).trans ?_
  show modifier _ _ = _
  simp only [RedOp.ofCode_code, Operand.ofCode_code, modifier_some, field_some, unused_112, finish_wf hw]

theorem atomc (o : AtomicOp) (d : Operand) (a : Operand) (b : Operand) : Statement (.atomc o d a b) := by
  intro hw
  refine ⟨fun _ => ?_, fun k e => (by cases e)⟩
  refine (decode_pack _ _ _ _ _ (by decide) (by have := AtomicOp.code_lt o; omega) (by have := Operand.code_lt d; omega) (by have := Operand.code_lt a; omega) (by have := Operand.code_lt b; omega)).trans ?_
  show modifier _ _ = _
  simp only [AtomicOp.ofCode_code, Operand.ofCode_code, modifier_some, field_some, finish_wf hw]

theorem fence (sc : Scope) (k : FenceKind) : Statement (.fence sc k) := by
  intro hw
  refine ⟨fun _ => ?_, fun k e => (by cases e)⟩
  refine (decode_pack _ _ _ _ _ (by decide) (by have := Scope.code_lt sc; omega) (by decide) (by decide) (by have := FenceKind.code_lt k; omega)).trans ?_
  show modifier _ _ = _
  simp only [Scope.ofCode_code, FenceKind.ofCode_code, modifier_some, field_some, unused_112, finish_wf hw]

theorem pfence (pp : PathNo) (pq : PathNo) : Statement (.pfence pp pq) := by
  intro hw
  refine ⟨fun _ => ?_, fun k e => (by cases e)⟩
  refine (decode_pack _ _ _ _ _ (by decide) (by decide) (by decide) (by have := PathNo.code_lt pp; omega) (by have := PathNo.code_lt pq; omega)).trans ?_
  simp only [decodeFields, decodeOps3, PathNo.ofCode_code, field_some, unused_112, finish_wf hw]

theorem waitp (pp : PathNo) (b : Operand) : Statement (.waitp pp b) := by
  intro hw
  refine ⟨fun _ => ?_, fun k e => (by cases e)⟩
  refine (decode_pack _ _ _ _ _ (by decide) (by decide) (by decide) (by have := PathNo.code_lt pp; omega) (by have := Operand.code_lt b; omega)).trans ?_
  simp only [decodeFields, decodeOps3, PathNo.ofCode_code, Operand.ofCode_code, field_some, unused_112, finish_wf hw]

theorem waitmem (sc : Scope) (a : Operand) (b : Operand) : Statement (.waitmem sc a b) := by
  intro hw
  refine ⟨fun _ => ?_, fun k e => (by cases e)⟩
  refine (decode_pack _ _ _ _ _ (by decide) (by have := Scope.code_lt sc; omega) (by decide) (by have := Operand.code_lt a; omega) (by have := Operand.code_lt b; omega)).trans ?_
  show modifier _ _ = _
  simp only [Scope.ofCode_code, Operand.ofCode_code, modifier_some, field_some, unused_112, finish_wf hw]

theorem btset (k : BtSlot) (a : Operand) (b : Operand) : Statement (.btset k a b) := by
  intro hw
  refine ⟨fun _ => ?_, fun k e => (by cases e)⟩
  refine (decode_pack _ _ _ _ _ (by decide) (by decide) (by have := BtSlot.code_lt k; omega) (by have := Operand.code_lt a; omega) (by have := Operand.code_lt b; omega)).trans ?_
  show field _ _ = _
  simp only [BtSlot.ofCode_code, Operand.ofCode_code, field_some, finish_wf hw]

theorem tagset (d : Operand) (a : Operand) : Statement (.tagset d a) := by
  intro hw
  refine ⟨fun _ => ?_, fun k e => (by cases e)⟩
  refine (decode_pack _ _ _ _ _ (by decide) (by decide) (by have := Operand.code_lt d; omega) (by have := Operand.code_lt a; omega) (by decide)).trans ?_
  show field _ _ = _
  simp only [Operand.ofCode_code, field_some, unused_112, finish_wf hw]

theorem tagget (d : Operand) (a : Operand) : Statement (.tagget d a) := by
  intro hw
  refine ⟨fun _ => ?_, fun k e => (by cases e)⟩
  refine (decode_pack _ _ _ _ _ (by decide) (by decide) (by have := Operand.code_lt d; omega) (by have := Operand.code_lt a; omega) (by decide)).trans ?_
  show field _ _ = _
  simp only [Operand.ofCode_code, field_some, unused_112, finish_wf hw]

theorem tagptr (d : Operand) (a : Operand) (b : Operand) : Statement (.tagptr d a b) := by
  intro hw
  refine ⟨fun _ => ?_, fun k e => (by cases e)⟩
  refine (decode_pack _ _ _ _ _ (by decide) (by decide) (by have := Operand.code_lt d; omega) (by have := Operand.code_lt a; omega) (by have := Operand.code_lt b; omega)).trans ?_
  show field _ _ = _
  simp only [Operand.ofCode_code, field_some, finish_wf hw]

theorem pref (lv : PrefLevel) (a : Operand) (b : Operand) : Statement (.pref lv a b) := by
  intro hw
  refine ⟨fun _ => ?_, fun k e => (by cases e)⟩
  refine (decode_pack _ _ _ _ _ (by decide) (by have := PrefLevel.code_lt lv; omega) (by decide) (by have := Operand.code_lt a; omega) (by have := Operand.code_lt b; omega)).trans ?_
  show modifier _ _ = _
  simp only [PrefLevel.ofCode_code, Operand.ofCode_code, modifier_some, field_some, unused_112, finish_wf hw]

theorem fadd (r : Rnd) (d : Operand) (a : Operand) (b : Operand) : Statement (.fadd r d a b) := by
  intro hw
  refine ⟨fun _ => ?_, fun k e => (by cases e)⟩
  refine (decode_pack _ _ _ _ _ (by decide) (by have := Rnd.code_lt r; omega) (by have := Operand.code_lt d; omega) (by have := Operand.code_lt a; omega) (by have := Operand.code_lt b; omega)).trans ?_
  show modifier _ _ = _
  simp only [Rnd.ofCode_code, Operand.ofCode_code, modifier_some, field_some, finish_wf hw]

theorem fsub (r : Rnd) (d : Operand) (a : Operand) (b : Operand) : Statement (.fsub r d a b) := by
  intro hw
  refine ⟨fun _ => ?_, fun k e => (by cases e)⟩
  refine (decode_pack _ _ _ _ _ (by decide) (by have := Rnd.code_lt r; omega) (by have := Operand.code_lt d; omega) (by have := Operand.code_lt a; omega) (by have := Operand.code_lt b; omega)).trans ?_
  show modifier _ _ = _
  simp only [Rnd.ofCode_code, Operand.ofCode_code, modifier_some, field_some, finish_wf hw]

theorem fmul (r : Rnd) (d : Operand) (a : Operand) (b : Operand) : Statement (.fmul r d a b) := by
  intro hw
  refine ⟨fun _ => ?_, fun k e => (by cases e)⟩
  refine (decode_pack _ _ _ _ _ (by decide) (by have := Rnd.code_lt r; omega) (by have := Operand.code_lt d; omega) (by have := Operand.code_lt a; omega) (by have := Operand.code_lt b; omega)).trans ?_
  show modifier _ _ = _
  simp only [Rnd.ofCode_code, Operand.ofCode_code, modifier_some, field_some, finish_wf hw]

theorem ffma (r : Rnd) (d : Operand) (a : Operand) (b : Operand) : Statement (.ffma r d a b) := by
  intro hw
  refine ⟨fun _ => ?_, fun k e => (by cases e)⟩
  refine (decode_pack _ _ _ _ _ (by decide) (by have := Rnd.code_lt r; omega) (by have := Operand.code_lt d; omega) (by have := Operand.code_lt a; omega) (by have := Operand.code_lt b; omega)).trans ?_
  show modifier _ _ = _
  simp only [Rnd.ofCode_code, Operand.ofCode_code, modifier_some, field_some, finish_wf hw]

theorem fmin (nm : NanMode) (d : Operand) (a : Operand) (b : Operand) : Statement (.fmin nm d a b) := by
  intro hw
  refine ⟨fun _ => ?_, fun k e => (by cases e)⟩
  refine (decode_pack _ _ _ _ _ (by decide) (by have := NanMode.code_lt nm; omega) (by have := Operand.code_lt d; omega) (by have := Operand.code_lt a; omega) (by have := Operand.code_lt b; omega)).trans ?_
  show modifier _ _ = _
  simp only [NanMode.ofCode_code, Operand.ofCode_code, modifier_some, field_some, finish_wf hw]

theorem fmax (nm : NanMode) (d : Operand) (a : Operand) (b : Operand) : Statement (.fmax nm d a b) := by
  intro hw
  refine ⟨fun _ => ?_, fun k e => (by cases e)⟩
  refine (decode_pack _ _ _ _ _ (by decide) (by have := NanMode.code_lt nm; omega) (by have := Operand.code_lt d; omega) (by have := Operand.code_lt a; omega) (by have := Operand.code_lt b; omega)).trans ?_
  show modifier _ _ = _
  simp only [NanMode.ofCode_code, Operand.ofCode_code, modifier_some, field_some, finish_wf hw]

theorem fcmp (c : FCond) (pd : PredReg) (a : Operand) (b : Operand) : Statement (.fcmp c pd a b) := by
  intro hw
  refine ⟨fun _ => ?_, fun k e => (by cases e)⟩
  refine (decode_pack _ _ _ _ _ (by decide) (by have := FCond.code_lt c; omega) (by have := PredReg.code_lt pd; omega) (by have := Operand.code_lt a; omega) (by have := Operand.code_lt b; omega)).trans ?_
  show modifier _ _ = _
  simp only [FCond.ofCode_code, PredReg.ofCode_code, Operand.ofCode_code, modifier_some, field_some, finish_wf hw]

theorem fclass (d : Operand) (a : Operand) : Statement (.fclass d a) := by
  intro hw
  refine ⟨fun _ => ?_, fun k e => (by cases e)⟩
  refine (decode_pack _ _ _ _ _ (by decide) (by decide) (by have := Operand.code_lt d; omega) (by have := Operand.code_lt a; omega) (by decide)).trans ?_
  show field _ _ = _
  simp only [Operand.ofCode_code, field_some, unused_112, finish_wf hw]

theorem fabs (d : Operand) (a : Operand) : Statement (.fabs d a) := by
  intro hw
  refine ⟨fun _ => ?_, fun k e => (by cases e)⟩
  refine (decode_pack _ _ _ _ _ (by decide) (by decide) (by have := Operand.code_lt d; omega) (by have := Operand.code_lt a; omega) (by decide)).trans ?_
  show field _ _ = _
  simp only [Operand.ofCode_code, field_some, unused_112, finish_wf hw]

theorem fneg (d : Operand) (a : Operand) : Statement (.fneg d a) := by
  intro hw
  refine ⟨fun _ => ?_, fun k e => (by cases e)⟩
  refine (decode_pack _ _ _ _ _ (by decide) (by decide) (by have := Operand.code_lt d; omega) (by have := Operand.code_lt a; omega) (by decide)).trans ?_
  show field _ _ = _
  simp only [Operand.ofCode_code, field_some, unused_112, finish_wf hw]

theorem frcp (d : Operand) (a : Operand) : Statement (.frcp d a) := by
  intro hw
  refine ⟨fun _ => ?_, fun k e => (by cases e)⟩
  refine (decode_pack _ _ _ _ _ (by decide) (by decide) (by have := Operand.code_lt d; omega) (by have := Operand.code_lt a; omega) (by decide)).trans ?_
  show field _ _ = _
  simp only [Operand.ofCode_code, field_some, unused_112, finish_wf hw]

theorem frsq (d : Operand) (a : Operand) : Statement (.frsq d a) := by
  intro hw
  refine ⟨fun _ => ?_, fun k e => (by cases e)⟩
  refine (decode_pack _ _ _ _ _ (by decide) (by decide) (by have := Operand.code_lt d; omega) (by have := Operand.code_lt a; omega) (by decide)).trans ?_
  show field _ _ = _
  simp only [Operand.ofCode_code, field_some, unused_112, finish_wf hw]

theorem fsqrt (d : Operand) (a : Operand) : Statement (.fsqrt d a) := by
  intro hw
  refine ⟨fun _ => ?_, fun k e => (by cases e)⟩
  refine (decode_pack _ _ _ _ _ (by decide) (by decide) (by have := Operand.code_lt d; omega) (by have := Operand.code_lt a; omega) (by decide)).trans ?_
  show field _ _ = _
  simp only [Operand.ofCode_code, field_some, unused_112, finish_wf hw]

theorem fexp2 (d : Operand) (a : Operand) : Statement (.fexp2 d a) := by
  intro hw
  refine ⟨fun _ => ?_, fun k e => (by cases e)⟩
  refine (decode_pack _ _ _ _ _ (by decide) (by decide) (by have := Operand.code_lt d; omega) (by have := Operand.code_lt a; omega) (by decide)).trans ?_
  show field _ _ = _
  simp only [Operand.ofCode_code, field_some, unused_112, finish_wf hw]

theorem flog2 (d : Operand) (a : Operand) : Statement (.flog2 d a) := by
  intro hw
  refine ⟨fun _ => ?_, fun k e => (by cases e)⟩
  refine (decode_pack _ _ _ _ _ (by decide) (by decide) (by have := Operand.code_lt d; omega) (by have := Operand.code_lt a; omega) (by decide)).trans ?_
  show field _ _ = _
  simp only [Operand.ofCode_code, field_some, unused_112, finish_wf hw]

theorem fsin (d : Operand) (a : Operand) : Statement (.fsin d a) := by
  intro hw
  refine ⟨fun _ => ?_, fun k e => (by cases e)⟩
  refine (decode_pack _ _ _ _ _ (by decide) (by decide) (by have := Operand.code_lt d; omega) (by have := Operand.code_lt a; omega) (by decide)).trans ?_
  show field _ _ = _
  simp only [Operand.ofCode_code, field_some, unused_112, finish_wf hw]

theorem fcos (d : Operand) (a : Operand) : Statement (.fcos d a) := by
  intro hw
  refine ⟨fun _ => ?_, fun k e => (by cases e)⟩
  refine (decode_pack _ _ _ _ _ (by decide) (by decide) (by have := Operand.code_lt d; omega) (by have := Operand.code_lt a; omega) (by decide)).trans ?_
  show field _ _ = _
  simp only [Operand.ofCode_code, field_some, unused_112, finish_wf hw]

theorem ftanh (d : Operand) (a : Operand) : Statement (.ftanh d a) := by
  intro hw
  refine ⟨fun _ => ?_, fun k e => (by cases e)⟩
  refine (decode_pack _ _ _ _ _ (by decide) (by decide) (by have := Operand.code_lt d; omega) (by have := Operand.code_lt a; omega) (by decide)).trans ?_
  show field _ _ = _
  simp only [Operand.ofCode_code, field_some, unused_112, finish_wf hw]

theorem ffrac (d : Operand) (a : Operand) : Statement (.ffrac d a) := by
  intro hw
  refine ⟨fun _ => ?_, fun k e => (by cases e)⟩
  refine (decode_pack _ _ _ _ _ (by decide) (by decide) (by have := Operand.code_lt d; omega) (by have := Operand.code_lt a; omega) (by decide)).trans ?_
  show field _ _ = _
  simp only [Operand.ofCode_code, field_some, unused_112, finish_wf hw]

theorem fdiv (r : Rnd) (d : Operand) (a : Operand) (b : Operand) : Statement (.fdiv r d a b) := by
  intro hw
  refine ⟨fun _ => ?_, fun k e => (by cases e)⟩
  refine (decode_pack _ _ _ _ _ (by decide) (by have := Rnd.code_lt r; omega) (by have := Operand.code_lt d; omega) (by have := Operand.code_lt a; omega) (by have := Operand.code_lt b; omega)).trans ?_
  show modifier _ _ = _
  simp only [Rnd.ofCode_code, Operand.ofCode_code, modifier_some, field_some, finish_wf hw]

theorem fround (r : Rnd) (d : Operand) (a : Operand) : Statement (.fround r d a) := by
  intro hw
  refine ⟨fun _ => ?_, fun k e => (by cases e)⟩
  refine (decode_pack _ _ _ _ _ (by decide) (by have := Rnd.code_lt r; omega) (by have := Operand.code_lt d; omega) (by have := Operand.code_lt a; omega) (by decide)).trans ?_
  show modifier _ _ = _
  simp only [Rnd.ofCode_code, Operand.ofCode_code, modifier_some, field_some, unused_112, finish_wf hw]

theorem hadd2 (f : HFmt) (d : Operand) (a : Operand) (b : Operand) : Statement (.hadd2 f d a b) := by
  intro hw
  refine ⟨fun _ => ?_, fun k e => (by cases e)⟩
  refine (decode_pack _ _ _ _ _ (by decide) (by have := HFmt.code_lt f; omega) (by have := Operand.code_lt d; omega) (by have := Operand.code_lt a; omega) (by have := Operand.code_lt b; omega)).trans ?_
  show modifier _ _ = _
  simp only [HFmt.ofCode_code, Operand.ofCode_code, modifier_some, field_some, finish_wf hw]

theorem hmul2 (f : HFmt) (d : Operand) (a : Operand) (b : Operand) : Statement (.hmul2 f d a b) := by
  intro hw
  refine ⟨fun _ => ?_, fun k e => (by cases e)⟩
  refine (decode_pack _ _ _ _ _ (by decide) (by have := HFmt.code_lt f; omega) (by have := Operand.code_lt d; omega) (by have := Operand.code_lt a; omega) (by have := Operand.code_lt b; omega)).trans ?_
  show modifier _ _ = _
  simp only [HFmt.ofCode_code, Operand.ofCode_code, modifier_some, field_some, finish_wf hw]

theorem hfma2 (f : HFmt) (d : Operand) (a : Operand) (b : Operand) : Statement (.hfma2 f d a b) := by
  intro hw
  refine ⟨fun _ => ?_, fun k e => (by cases e)⟩
  refine (decode_pack _ _ _ _ _ (by decide) (by have := HFmt.code_lt f; omega) (by have := Operand.code_lt d; omega) (by have := Operand.code_lt a; omega) (by have := Operand.code_lt b; omega)).trans ?_
  show modifier _ _ = _
  simp only [HFmt.ofCode_code, Operand.ofCode_code, modifier_some, field_some, finish_wf hw]

theorem hmin2 (f : HFmt) (d : Operand) (a : Operand) (b : Operand) : Statement (.hmin2 f d a b) := by
  intro hw
  refine ⟨fun _ => ?_, fun k e => (by cases e)⟩
  refine (decode_pack _ _ _ _ _ (by decide) (by have := HFmt.code_lt f; omega) (by have := Operand.code_lt d; omega) (by have := Operand.code_lt a; omega) (by have := Operand.code_lt b; omega)).trans ?_
  have h1 : f.code < 2 := HFmt.code_lt f
  simp only [decodeFields, decodeOps4, if_pos h1, modifier_some, HFmt.ofCode_code, Operand.ofCode_code, field_some, finish_wf hw]

theorem hmax2 (f : HFmt) (d : Operand) (a : Operand) (b : Operand) : Statement (.hmax2 f d a b) := by
  intro hw
  refine ⟨fun _ => ?_, fun k e => (by cases e)⟩
  refine (decode_pack _ _ _ _ _ (by decide) (by have := HFmt.code_lt f; omega) (by have := Operand.code_lt d; omega) (by have := Operand.code_lt a; omega) (by have := Operand.code_lt b; omega)).trans ?_
  have h0 := HFmt.code_lt f
  have h1 : ¬ f.code + 2 < 2 := by omega
  have h2 : f.code + 2 < 4 := by omega
  have h3 : f.code + 2 - 2 = f.code := by omega
  simp only [decodeFields, decodeOps4, if_neg h1, if_pos h2, h3, modifier_some, HFmt.ofCode_code, Operand.ofCode_code, field_some, finish_wf hw]

theorem fdp2 (f : HFmt) (d : Operand) (a : Operand) (b : Operand) : Statement (.fdp2 f d a b) := by
  intro hw
  refine ⟨fun _ => ?_, fun k e => (by cases e)⟩
  refine (decode_pack _ _ _ _ _ (by decide) (by have := HFmt.code_lt f; omega) (by have := Operand.code_lt d; omega) (by have := Operand.code_lt a; omega) (by have := Operand.code_lt b; omega)).trans ?_
  show modifier _ _ = _
  simp only [HFmt.ofCode_code, Operand.ofCode_code, modifier_some, field_some, finish_wf hw]

theorem cvtf (r : Rnd) (d : Operand) (a : Operand) (fm : CvtFmts) : Statement (.cvtf r d a fm) := by
  intro hw
  refine ⟨fun _ => ?_, fun k e => (by cases e)⟩
  refine (decode_pack _ _ _ _ _ (by decide) (by have := Rnd.code_lt r; omega) (by have := Operand.code_lt d; omega) (by have := Operand.code_lt a; omega) (by have := CvtFmts.code_lt fm; omega)).trans ?_
  show modifier _ _ = _
  simp only [Rnd.ofCode_code, Operand.ofCode_code, CvtFmts.ofCode_code, modifier_some, field_some, finish_wf hw]

theorem f2i (c : IntCvt) (d : Operand) (a : Operand) : Statement (.f2i c d a) := by
  intro hw
  refine ⟨fun _ => ?_, fun k e => (by cases e)⟩
  refine (decode_pack _ _ _ _ _ (by decide) (by have := IntCvt.code_lt c; omega) (by have := Operand.code_lt d; omega) (by have := Operand.code_lt a; omega) (by decide)).trans ?_
  show modifier _ _ = _
  simp only [IntCvt.ofCode_code, Operand.ofCode_code, modifier_some, field_some, unused_112, finish_wf hw]

theorem i2f (c : IntCvt) (d : Operand) (a : Operand) : Statement (.i2f c d a) := by
  intro hw
  refine ⟨fun _ => ?_, fun k e => (by cases e)⟩
  refine (decode_pack _ _ _ _ _ (by decide) (by have := IntCvt.code_lt c; omega) (by have := Operand.code_lt d; omega) (by have := Operand.code_lt a; omega) (by decide)).trans ?_
  show modifier _ _ = _
  simp only [IntCvt.ofCode_code, Operand.ofCode_code, modifier_some, field_some, unused_112, finish_wf hw]

theorem pack2 (pm : PackMode) (d : Operand) (a : Operand) (b : Operand) : Statement (.pack2 pm d a b) := by
  intro hw
  refine ⟨fun _ => ?_, fun k e => (by cases e)⟩
  refine (decode_pack _ _ _ _ _ (by decide) (by have := PackMode.code_lt pm; omega) (by have := Operand.code_lt d; omega) (by have := Operand.code_lt a; omega) (by have := Operand.code_lt b; omega)).trans ?_
  show modifier _ _ = _
  simp only [PackMode.ofCode_code, Operand.ofCode_code, modifier_some, field_some, finish_wf hw]

theorem qcvt (r : QRnd) (d : Operand) (a : Operand) (f : QFmt) : Statement (.qcvt r d a f) := by
  intro hw
  refine ⟨fun _ => ?_, fun k e => (by cases e)⟩
  refine (decode_pack _ _ _ _ _ (by decide) (by have := QRnd.code_lt r; omega) (by have := Operand.code_lt d; omega) (by have := Operand.code_lt a; omega) (by have := QFmt.code_lt f; omega)).trans ?_
  show modifier _ _ = _
  simp only [QRnd.ofCode_code, Operand.ofCode_code, QFmt.ofCode_code, modifier_some, field_some, finish_wf hw]

theorem dqcvt (e : Elem) (d : Operand) (a : Operand) (f : QFmt) : Statement (.dqcvt e d a f) := by
  intro hw
  refine ⟨fun _ => ?_, fun k e => (by cases e)⟩
  refine (decode_pack _ _ _ _ _ (by decide) (by have := Elem.code_lt e; omega) (by have := Operand.code_lt d; omega) (by have := Operand.code_lt a; omega) (by have := QFmt.code_lt f; omega)).trans ?_
  have h1 : e.val ≤ dqcvtLimit f.code := by
    have hi : decide (e.val ≤ f.maxElem) = true := immOk_of_wf hw
    simp only [dqcvtLimit, QFmt.ofCode_code]
    exact of_decide_eq_true hi
  simp only [decodeFields, decodeOps5, if_pos h1, modifier_some, Elem.ofCode_code, Operand.ofCode_code, QFmt.ofCode_code, field_some, finish_wf hw]

theorem mmaAcc (mc : MultiCast) (t : Tile) (a : Operand) (b : Operand) : Statement (.mmaAcc mc t a b) := by
  intro hw
  refine ⟨fun _ => ?_, fun k e => (by cases e)⟩
  refine (decode_pack _ _ _ _ _ (by decide) (by have := MultiCast.code_lt mc; omega) (by have := Tile.code_lt t; omega) (by have := Operand.code_lt a; omega) (by have := Operand.code_lt b; omega)).trans ?_
  have h0 := MultiCast.code_lt mc
  have h1 : 2 * mc.code + 0 < 8 := by omega
  have h2 : (2 * mc.code + 0) % 2 = 0 := by omega
  have h3 : (2 * mc.code + 0) / 2 = mc.code := by omega
  simp only [decodeFields, decodeOps5, if_pos h1, if_pos h2, h3, modifier_some, MultiCast.ofCode_code, Tile.ofCode_code, Operand.ofCode_code, field_some, finish_wf hw]

theorem mmaSet (mc : MultiCast) (t : Tile) (a : Operand) (b : Operand) : Statement (.mmaSet mc t a b) := by
  intro hw
  refine ⟨fun _ => ?_, fun k e => (by cases e)⟩
  refine (decode_pack _ _ _ _ _ (by decide) (by have := MultiCast.code_lt mc; omega) (by have := Tile.code_lt t; omega) (by have := Operand.code_lt a; omega) (by have := Operand.code_lt b; omega)).trans ?_
  have h0 := MultiCast.code_lt mc
  have h1 : 2 * mc.code + 1 < 8 := by omega
  have h2 : ¬ (2 * mc.code + 1) % 2 = 0 := by omega
  have h3 : (2 * mc.code + 1) / 2 = mc.code := by omega
  simp only [decodeFields, decodeOps5, if_pos h1, if_neg h2, h3, modifier_some, MultiCast.ofCode_code, Tile.ofCode_code, Operand.ofCode_code, field_some, finish_wf hw]

theorem mfmt (a : Operand) : Statement (.mfmt a) := by
  intro hw
  refine ⟨fun _ => ?_, fun k e => (by cases e)⟩
  refine (decode_pack _ _ _ _ _ (by decide) (by decide) (by decide) (by have := Operand.code_lt a; omega) (by decide)).trans ?_
  simp only [decodeFields, decodeOps5, Operand.ofCode_code, field_some, unused_112, finish_wf hw]

theorem mclr (t : Tile) : Statement (.mclr t) := by
  intro hw
  refine ⟨fun _ => ?_, fun k e => (by cases e)⟩
  refine (decode_pack _ _ _ _ _ (by decide) (by decide) (by have := Tile.code_lt t; omega) (by decide) (by decide)).trans ?_
  show field _ _ = _
  simp only [Tile.ofCode_code, field_some, unused_112, finish_wf hw]

theorem mload (t : Tile) (a : Operand) : Statement (.mload t a) := by
  intro hw
  refine ⟨fun _ => ?_, fun k e => (by cases e)⟩
  refine (decode_pack _ _ _ _ _ (by decide) (by decide) (by have := Tile.code_lt t; omega) (by have := Operand.code_lt a; omega) (by decide)).trans ?_
  show field _ _ = _
  simp only [Tile.ofCode_code, Operand.ofCode_code, field_some, unused_112, finish_wf hw]

theorem mseed (a : Operand) : Statement (.mseed a) := by
  intro hw
  refine ⟨fun _ => ?_, fun k e => (by cases e)⟩
  refine (decode_pack _ _ _ _ _ (by decide) (by decide) (by decide) (by have := Operand.code_lt a; omega) (by decide)).trans ?_
  simp only [decodeFields, decodeOps5, Operand.ofCode_code, field_some, unused_112, finish_wf hw]

theorem mstat (d : Operand) (t : Tile) : Statement (.mstat d t) := by
  intro hw
  refine ⟨fun _ => ?_, fun k e => (by cases e)⟩
  refine (decode_pack _ _ _ _ _ (by decide) (by decide) (by have := Operand.code_lt d; omega) (by have := Tile.code_lt t; omega) (by decide)).trans ?_
  show field _ _ = _
  simp only [Operand.ofCode_code, Tile.ofCode_code, field_some, unused_112, finish_wf hw]

theorem mdrain (t : Tile) (a : Operand) : Statement (.mdrain t a) := by
  intro hw
  refine ⟨fun _ => ?_, fun k e => (by cases e)⟩
  refine (decode_pack _ _ _ _ _ (by decide) (by decide) (by have := Tile.code_lt t; omega) (by have := Operand.code_lt a; omega) (by decide)).trans ?_
  show field _ _ = _
  simp only [Tile.ofCode_code, Operand.ofCode_code, field_some, unused_112, finish_wf hw]

theorem mdrainMrow (t : Tile) (a : Operand) : Statement (.mdrainMrow t a) := by
  intro hw
  refine ⟨fun _ => ?_, fun k e => (by cases e)⟩
  refine (decode_pack _ _ _ _ _ (by decide) (by decide) (by have := Tile.code_lt t; omega) (by have := Operand.code_lt a; omega) (by decide)).trans ?_
  show field _ _ = _
  simp only [Tile.ofCode_code, Operand.ofCode_code, field_some, unused_112, finish_wf hw]

theorem mtrq (a : Operand) (b : Operand) : Statement (.mtrq a b) := by
  intro hw
  refine ⟨fun _ => ?_, fun k e => (by cases e)⟩
  refine (decode_pack _ _ _ _ _ (by decide) (by decide) (by decide) (by have := Operand.code_lt a; omega) (by have := Operand.code_lt b; omega)).trans ?_
  simp only [decodeFields, decodeOps5, Operand.ofCode_code, field_some, unused_112, finish_wf hw]

theorem qbind (d : Operand) (ep : EnginePort) : Statement (.qbind d ep) := by
  intro hw
  refine ⟨fun _ => ?_, fun k e => (by cases e)⟩
  refine (decode_pack _ _ _ _ _ (by decide) (by decide) (by have := Operand.code_lt d; omega) (by have := EnginePort.code_lt ep; omega) (by decide)).trans ?_
  show field _ _ = _
  simp only [Operand.ofCode_code, EnginePort.ofCode_code, field_some, unused_112, finish_wf hw]

theorem qunbind (d : Operand) : Statement (.qunbind d) := by
  intro hw
  refine ⟨fun _ => ?_, fun k e => (by cases e)⟩
  refine (decode_pack _ _ _ _ _ (by decide) (by decide) (by have := Operand.code_lt d; omega) (by decide) (by decide)).trans ?_
  show field _ _ = _
  simp only [Operand.ofCode_code, field_some, unused_112, finish_wf hw]

theorem qcount (d : Operand) (a : Operand) : Statement (.qcount d a) := by
  intro hw
  refine ⟨fun _ => ?_, fun k e => (by cases e)⟩
  refine (decode_pack _ _ _ _ _ (by decide) (by decide) (by have := Operand.code_lt d; omega) (by have := Operand.code_lt a; omega) (by decide)).trans ?_
  show field _ _ = _
  simp only [Operand.ofCode_code, field_some, unused_112, finish_wf hw]

theorem qdrain (d : Operand) : Statement (.qdrain d) := by
  intro hw
  refine ⟨fun _ => ?_, fun k e => (by cases e)⟩
  refine (decode_pack _ _ _ _ _ (by decide) (by decide) (by have := Operand.code_lt d; omega) (by decide) (by decide)).trans ?_
  show field _ _ = _
  simp only [Operand.ofCode_code, field_some, unused_112, finish_wf hw]

theorem cpyl (a : Operand) : Statement (.cpyl a) := by
  intro hw
  refine ⟨fun _ => ?_, fun k e => (by cases e)⟩
  refine (decode_pack _ _ _ _ _ (by decide) (by decide) (by decide) (by have := Operand.code_lt a; omega) (by decide)).trans ?_
  simp only [decodeFields, decodeOps5, Operand.ofCode_code, field_some, unused_112, finish_wf hw]

theorem cpyt (a : Operand) : Statement (.cpyt a) := by
  intro hw
  refine ⟨fun _ => ?_, fun k e => (by cases e)⟩
  refine (decode_pack _ _ _ _ _ (by decide) (by decide) (by decide) (by have := Operand.code_lt a; omega) (by decide)).trans ?_
  simp only [decodeFields, decodeOps5, Operand.ofCode_code, field_some, unused_112, finish_wf hw]

theorem cpym (a : Operand) : Statement (.cpym a) := by
  intro hw
  refine ⟨fun _ => ?_, fun k e => (by cases e)⟩
  refine (decode_pack _ _ _ _ _ (by decide) (by decide) (by decide) (by have := Operand.code_lt a; omega) (by decide)).trans ?_
  simp only [decodeFields, decodeOps5, Operand.ofCode_code, field_some, unused_112, finish_wf hw]

theorem gath (a : Operand) (b : Operand) : Statement (.gath a b) := by
  intro hw
  refine ⟨fun _ => ?_, fun k e => (by cases e)⟩
  refine (decode_pack _ _ _ _ _ (by decide) (by decide) (by decide) (by have := Operand.code_lt a; omega) (by have := Operand.code_lt b; omega)).trans ?_
  simp only [decodeFields, decodeOps5, Operand.ofCode_code, field_some, unused_112, finish_wf hw]

theorem scat (d : Operand) (a : Operand) (b : Operand) : Statement (.scat d a b) := by
  intro hw
  refine ⟨fun _ => ?_, fun k e => (by cases e)⟩
  refine (decode_pack _ _ _ _ _ (by decide) (by decide) (by have := Operand.code_lt d; omega) (by have := Operand.code_lt a; omega) (by have := Operand.code_lt b; omega)).trans ?_
  show field _ _ = _
  simp only [Operand.ofCode_code, field_some, finish_wf hw]

theorem emitv (d : Operand) (a : Operand) : Statement (.emitv d a) := by
  intro hw
  refine ⟨fun _ => ?_, fun k e => (by cases e)⟩
  refine (decode_pack _ _ _ _ _ (by decide) (by decide) (by have := Operand.code_lt d; omega) (by have := Operand.code_lt a; omega) (by decide)).trans ?_
  show field _ _ = _
  simp only [Operand.ofCode_code, field_some, unused_112, finish_wf hw]

theorem emitp (a : Operand) (b : Operand) : Statement (.emitp a b) := by
  intro hw
  refine ⟨fun _ => ?_, fun k e => (by cases e)⟩
  refine (decode_pack _ _ _ _ _ (by decide) (by decide) (by decide) (by have := Operand.code_lt a; omega) (by have := Operand.code_lt b; omega)).trans ?_
  simp only [decodeFields, decodeOps5, Operand.ofCode_code, field_some, unused_112, finish_wf hw]

theorem tload (d : Operand) (a : Operand) : Statement (.tload d a) := by
  intro hw
  refine ⟨fun _ => ?_, fun k e => (by cases e)⟩
  refine (decode_pack _ _ _ _ _ (by decide) (by decide) (by have := Operand.code_lt d; omega) (by have := Operand.code_lt a; omega) (by decide)).trans ?_
  show field _ _ = _
  simp only [Operand.ofCode_code, field_some, unused_112, finish_wf hw]

theorem tstore (d : Operand) (a : Operand) : Statement (.tstore d a) := by
  intro hw
  refine ⟨fun _ => ?_, fun k e => (by cases e)⟩
  refine (decode_pack _ _ _ _ _ (by decide) (by decide) (by have := Operand.code_lt d; omega) (by have := Operand.code_lt a; omega) (by decide)).trans ?_
  show field _ _ = _
  simp only [Operand.ofCode_code, field_some, unused_112, finish_wf hw]

theorem voteAll (pd : PredReg) (pa : PredReg) : Statement (.voteAll pd pa) := by
  intro hw
  refine ⟨fun _ => ?_, fun k e => (by cases e)⟩
  refine (decode_pack _ _ _ _ _ (by decide) (by decide) (by have := PredReg.code_lt pd; omega) (by have := PredReg.code_lt pa; omega) (by decide)).trans ?_
  show field _ _ = _
  simp only [PredReg.ofCode_code, field_some, unused_112, finish_wf hw]

theorem voteAny (pd : PredReg) (pa : PredReg) : Statement (.voteAny pd pa) := by
  intro hw
  refine ⟨fun _ => ?_, fun k e => (by cases e)⟩
  refine (decode_pack _ _ _ _ _ (by decide) (by decide) (by have := PredReg.code_lt pd; omega) (by have := PredReg.code_lt pa; omega) (by decide)).trans ?_
  show field _ _ = _
  simp only [PredReg.ofCode_code, field_some, unused_112, finish_wf hw]

theorem voteBallot (d : Operand) (pa : PredReg) : Statement (.voteBallot d pa) := by
  intro hw
  refine ⟨fun _ => ?_, fun k e => (by cases e)⟩
  refine (decode_pack _ _ _ _ _ (by decide) (by decide) (by have := Operand.code_lt d; omega) (by have := PredReg.code_lt pa; omega) (by decide)).trans ?_
  show field _ _ = _
  simp only [Operand.ofCode_code, PredReg.ofCode_code, field_some, unused_112, finish_wf hw]

theorem shfl (sm : ShflMode) (d : Operand) (a : Operand) (b : Operand) : Statement (.shfl sm d a b) := by
  intro hw
  refine ⟨fun _ => ?_, fun k e => (by cases e)⟩
  refine (decode_pack _ _ _ _ _ (by decide) (by have := ShflMode.code_lt sm; omega) (by have := Operand.code_lt d; omega) (by have := Operand.code_lt a; omega) (by have := Operand.code_lt b; omega)).trans ?_
  show modifier _ _ = _
  simp only [ShflMode.ofCode_code, Operand.ofCode_code, modifier_some, field_some, finish_wf hw]

theorem scan (sm : ScanMode) (d : Operand) (a : Operand) : Statement (.scan sm d a) := by
  intro hw
  refine ⟨fun _ => ?_, fun k e => (by cases e)⟩
  refine (decode_pack _ _ _ _ _ (by decide) (by have := ScanMode.code_lt sm; omega) (by have := Operand.code_lt d; omega) (by have := Operand.code_lt a; omega) (by decide)).trans ?_
  show modifier _ _ = _
  simp only [ScanMode.ofCode_code, Operand.ofCode_code, modifier_some, field_some, unused_112, finish_wf hw]

theorem lred (o : ScanOp) (d : Operand) (a : Operand) : Statement (.lred o d a) := by
  intro hw
  refine ⟨fun _ => ?_, fun k e => (by cases e)⟩
  refine (decode_pack _ _ _ _ _ (by decide) (by have := ScanOp.code_lt o; omega) (by have := Operand.code_lt d; omega) (by have := Operand.code_lt a; omega) (by decide)).trans ?_
  show modifier _ _ = _
  simp only [ScanOp.ofCode_code, Operand.ofCode_code, modifier_some, field_some, unused_112, finish_wf hw]

theorem bcast (d : Operand) (a : Operand) (b : Operand) : Statement (.bcast d a b) := by
  intro hw
  refine ⟨fun _ => ?_, fun k e => (by cases e)⟩
  refine (decode_pack _ _ _ _ _ (by decide) (by decide) (by have := Operand.code_lt d; omega) (by have := Operand.code_lt a; omega) (by have := Operand.code_lt b; omega)).trans ?_
  show field _ _ = _
  simp only [Operand.ofCode_code, field_some, finish_wf hw]

theorem splitqLive (d : Operand) : Statement (.splitqLive d) := by
  intro hw
  refine ⟨fun _ => ?_, fun k e => (by cases e)⟩
  refine (decode_pack _ _ _ _ _ (by decide) (by decide) (by have := Operand.code_lt d; omega) (by decide) (by decide)).trans ?_
  show field _ _ = _
  simp only [Operand.ofCode_code, field_some, unused_112, finish_wf hw]

theorem splitqLowest (d : Operand) : Statement (.splitqLowest d) := by
  intro hw
  refine ⟨fun _ => ?_, fun k e => (by cases e)⟩
  refine (decode_pack _ _ _ _ _ (by decide) (by decide) (by have := Operand.code_lt d; omega) (by decide) (by decide)).trans ?_
  show field _ _ = _
  simp only [Operand.ofCode_code, field_some, unused_112, finish_wf hw]

theorem splitqCount (d : Operand) : Statement (.splitqCount d) := by
  intro hw
  refine ⟨fun _ => ?_, fun k e => (by cases e)⟩
  refine (decode_pack _ _ _ _ _ (by decide) (by decide) (by have := Operand.code_lt d; omega) (by decide) (by decide)).trans ?_
  show field _ _ = _
  simp only [Operand.ofCode_code, field_some, unused_112, finish_wf hw]

theorem regroup (id : BarId) (d : Operand) (fr : FirstReg) (n : RegCount) : Statement (.regroup id d fr n) := by
  intro hw
  refine ⟨fun _ => ?_, fun k e => (by cases e)⟩
  refine (decode_pack _ _ _ _ _ (by decide) (by have := BarId.code_lt id; omega) (by have := Operand.code_lt d; omega) (by have := FirstReg.code_lt fr; omega) (by have := RegCount.code_lt n; omega)).trans ?_
  show modifier _ _ = _
  simp only [BarId.ofCode_code, Operand.ofCode_code, FirstReg.ofCode_code, RegCount.ofCode_code, modifier_some, field_some, finish_wf hw]

theorem bar (id : BarId) : Statement (.bar id) := by
  intro hw
  refine ⟨fun _ => ?_, fun k e => (by cases e)⟩
  refine (decode_pack _ _ _ _ _ (by decide) (by have := BarId.code_lt id; omega) (by decide) (by decide) (by decide)).trans ?_
  show modifier _ _ = _
  simp only [BarId.ofCode_code, modifier_some, unused_112, finish_wf hw]

theorem cbar (id : CbarId) : Statement (.cbar id) := by
  intro hw
  refine ⟨fun _ => ?_, fun k e => (by cases e)⟩
  refine (decode_pack _ _ _ _ _ (by decide) (by have := CbarId.code_lt id; omega) (by decide) (by decide) (by decide)).trans ?_
  show modifier _ _ = _
  simp only [CbarId.ofCode_code, modifier_some, unused_112, finish_wf hw]

theorem launchG (a : Operand) (b : Operand) : Statement (.launchG a b) := by
  intro hw
  refine ⟨fun _ => ?_, fun k e => (by cases e)⟩
  refine (decode_pack _ _ _ _ _ (by decide) (by decide) (by decide) (by have := Operand.code_lt a; omega) (by have := Operand.code_lt b; omega)).trans ?_
  simp only [decodeFields, decodeOps6, Operand.ofCode_code, field_some, unused_112, finish_wf hw]

theorem launchL (a : Operand) (b : Operand) : Statement (.launchL a b) := by
  intro hw
  refine ⟨fun _ => ?_, fun k e => (by cases e)⟩
  refine (decode_pack _ _ _ _ _ (by decide) (by decide) (by decide) (by have := Operand.code_lt a; omega) (by have := Operand.code_lt b; omega)).trans ?_
  simp only [decodeFields, decodeOps6, Operand.ofCode_code, field_some, unused_112, finish_wf hw]

theorem phaseend (o : PhaseOp) (a : Operand) : Statement (.phaseend o a) := by
  intro hw
  refine ⟨fun _ => ?_, fun k e => (by cases e)⟩
  refine (decode_pack _ _ _ _ _ (by decide) (by have := PhaseOp.code_lt o; omega) (by decide) (by have := Operand.code_lt a; omega) (by decide)).trans ?_
  show modifier _ _ = _
  simp only [PhaseOp.ofCode_code, Operand.ofCode_code, modifier_some, field_some, unused_112, finish_wf hw]

theorem lvl (lv : Level) (d : Operand) : Statement (.lvl lv d) := by
  intro hw
  refine ⟨fun _ => ?_, fun k e => (by cases e)⟩
  refine (decode_pack _ _ _ _ _ (by decide) (by have := Level.code_lt lv; omega) (by have := Operand.code_lt d; omega) (by decide) (by decide)).trans ?_
  have h0 := Level.code_lt lv
  have h1 : Level.code lv < 8 := h0
  have h3 : Level.code lv + 0 = Level.code lv := rfl
  simp only [decodeFields, decodeOps6, if_pos h1, h3, modifier_some, Level.ofCode_code, Operand.ofCode_code, field_some, unused_112, finish_wf hw]

theorem lvlExt (lv : Level) (d : Operand) : Statement (.lvlExt lv d) := by
  intro hw
  refine ⟨fun _ => ?_, fun k e => (by cases e)⟩
  refine (decode_pack _ _ _ _ _ (by decide) (by have := Level.code_lt lv; omega) (by have := Operand.code_lt d; omega) (by decide) (by decide)).trans ?_
  have h1 : ¬ Level.code lv + 8 < 8 := by omega
  have h3 : Level.code lv + 8 - 8 = Level.code lv := by omega
  simp only [decodeFields, decodeOps6, if_neg h1, h3, modifier_some, Level.ofCode_code, Operand.ofCode_code, field_some, unused_112, finish_wf hw]

theorem placeCl (d : Operand) (a : Operand) : Statement (.placeCl d a) := by
  intro hw
  refine ⟨fun _ => ?_, fun k e => (by cases e)⟩
  refine (decode_pack _ _ _ _ _ (by decide) (by decide) (by have := Operand.code_lt d; omega) (by have := Operand.code_lt a; omega) (by decide)).trans ?_
  show field _ _ = _
  simp only [Operand.ofCode_code, field_some, unused_112, finish_wf hw]

theorem placeDie (d : Operand) (a : Operand) : Statement (.placeDie d a) := by
  intro hw
  refine ⟨fun _ => ?_, fun k e => (by cases e)⟩
  refine (decode_pack _ _ _ _ _ (by decide) (by decide) (by have := Operand.code_lt d; omega) (by have := Operand.code_lt a; omega) (by decide)).trans ?_
  show field _ _ = _
  simp only [Operand.ofCode_code, field_some, unused_112, finish_wf hw]

theorem placeRect (d : Operand) (a : Operand) : Statement (.placeRect d a) := by
  intro hw
  refine ⟨fun _ => ?_, fun k e => (by cases e)⟩
  refine (decode_pack _ _ _ _ _ (by decide) (by decide) (by have := Operand.code_lt d; omega) (by have := Operand.code_lt a; omega) (by decide)).trans ?_
  show field _ _ = _
  simp only [Operand.ofCode_code, field_some, unused_112, finish_wf hw]

theorem placeFab (d : Operand) (a : Operand) : Statement (.placeFab d a) := by
  intro hw
  refine ⟨fun _ => ?_, fun k e => (by cases e)⟩
  refine (decode_pack _ _ _ _ _ (by decide) (by decide) (by have := Operand.code_lt d; omega) (by have := Operand.code_lt a; omega) (by decide)).trans ?_
  show field _ _ = _
  simp only [Operand.ofCode_code, field_some, unused_112, finish_wf hw]

theorem texs (d : Operand) (a : Operand) (b : Operand) : Statement (.texs d a b) := by
  intro hw
  refine ⟨fun _ => ?_, fun k e => (by cases e)⟩
  refine (decode_pack _ _ _ _ _ (by decide) (by decide) (by have := Operand.code_lt d; omega) (by have := Operand.code_lt a; omega) (by have := Operand.code_lt b; omega)).trans ?_
  show field _ _ = _
  simp only [Operand.ofCode_code, field_some, finish_wf hw]

theorem texl (d : Operand) (a : Operand) (b : Operand) : Statement (.texl d a b) := by
  intro hw
  refine ⟨fun _ => ?_, fun k e => (by cases e)⟩
  refine (decode_pack _ _ _ _ _ (by decide) (by decide) (by have := Operand.code_lt d; omega) (by have := Operand.code_lt a; omega) (by have := Operand.code_lt b; omega)).trans ?_
  show field _ _ = _
  simp only [Operand.ofCode_code, field_some, finish_wf hw]

theorem texf (d : Operand) (a : Operand) (b : Operand) : Statement (.texf d a b) := by
  intro hw
  refine ⟨fun _ => ?_, fun k e => (by cases e)⟩
  refine (decode_pack _ _ _ _ _ (by decide) (by decide) (by have := Operand.code_lt d; omega) (by have := Operand.code_lt a; omega) (by have := Operand.code_lt b; omega)).trans ?_
  show field _ _ = _
  simp only [Operand.ofCode_code, field_some, finish_wf hw]

theorem trace (a : Operand) : Statement (.trace a) := by
  intro hw
  refine ⟨fun _ => ?_, fun k e => (by cases e)⟩
  refine (decode_pack _ _ _ _ _ (by decide) (by decide) (by decide) (by have := Operand.code_lt a; omega) (by decide)).trans ?_
  simp only [decodeFields, decodeOps6, Operand.ofCode_code, field_some, unused_112, finish_wf hw]

theorem resume (a : Operand) (b : Operand) : Statement (.resume a b) := by
  intro hw
  refine ⟨fun _ => ?_, fun k e => (by cases e)⟩
  refine (decode_pack _ _ _ _ _ (by decide) (by decide) (by decide) (by have := Operand.code_lt a; omega) (by have := Operand.code_lt b; omega)).trans ?_
  simp only [decodeFields, decodeOps6, Operand.ofCode_code, field_some, unused_112, finish_wf hw]

theorem commit (a : Operand) (b : Operand) : Statement (.commit a b) := by
  intro hw
  refine ⟨fun _ => ?_, fun k e => (by cases e)⟩
  refine (decode_pack _ _ _ _ _ (by decide) (by decide) (by decide) (by have := Operand.code_lt a; omega) (by have := Operand.code_lt b; omega)).trans ?_
  simp only [decodeFields, decodeOps6, Operand.ofCode_code, field_some, unused_112, finish_wf hw]

theorem rpalloc (d : Operand) : Statement (.rpalloc d) := by
  intro hw
  refine ⟨fun _ => ?_, fun k e => (by cases e)⟩
  refine (decode_pack _ _ _ _ _ (by decide) (by decide) (by have := Operand.code_lt d; omega) (by decide) (by decide)).trans ?_
  show field _ _ = _
  simp only [Operand.ofCode_code, field_some, unused_112, finish_wf hw]

theorem rpfree (a : Operand) : Statement (.rpfree a) := by
  intro hw
  refine ⟨fun _ => ?_, fun k e => (by cases e)⟩
  refine (decode_pack _ _ _ _ _ (by decide) (by decide) (by decide) (by have := Operand.code_lt a; omega) (by decide)).trans ?_
  simp only [decodeFields, decodeOps6, Operand.ofCode_code, field_some, unused_112, finish_wf hw]

theorem march (a : Operand) : Statement (.march a) := by
  intro hw
  refine ⟨fun _ => ?_, fun k e => (by cases e)⟩
  refine (decode_pack _ _ _ _ _ (by decide) (by decide) (by decide) (by have := Operand.code_lt a; omega) (by decide)).trans ?_
  simp only [decodeFields, decodeOps6, Operand.ofCode_code, field_some, unused_112, finish_wf hw]

theorem hgfetch (d : Operand) (a : Operand) (b : Operand) : Statement (.hgfetch d a b) := by
  intro hw
  refine ⟨fun _ => ?_, fun k e => (by cases e)⟩
  refine (decode_pack _ _ _ _ _ (by decide) (by decide) (by have := Operand.code_lt d; omega) (by have := Operand.code_lt a; omega) (by have := Operand.code_lt b; omega)).trans ?_
  show field _ _ = _
  simp only [Operand.ofCode_code, field_some, finish_wf hw]

theorem stxt (d : Operand) (a : Operand) (b : Operand) : Statement (.stxt d a b) := by
  intro hw
  refine ⟨fun _ => ?_, fun k e => (by cases e)⟩
  refine (decode_pack _ _ _ _ _ (by decide) (by decide) (by have := Operand.code_lt d; omega) (by have := Operand.code_lt a; omega) (by have := Operand.code_lt b; omega)).trans ?_
  show field _ _ = _
  simp only [Operand.ofCode_code, field_some, finish_wf hw]

theorem stxw (d : Operand) (a : Operand) (b : Operand) : Statement (.stxw d a b) := by
  intro hw
  refine ⟨fun _ => ?_, fun k e => (by cases e)⟩
  refine (decode_pack _ _ _ _ _ (by decide) (by decide) (by have := Operand.code_lt d; omega) (by have := Operand.code_lt a; omega) (by have := Operand.code_lt b; omega)).trans ?_
  show field _ _ = _
  simp only [Operand.ofCode_code, field_some, finish_wf hw]

theorem tkwait (a : Operand) : Statement (.tkwait a) := by
  intro hw
  refine ⟨fun _ => ?_, fun k e => (by cases e)⟩
  refine (decode_pack _ _ _ _ _ (by decide) (by decide) (by decide) (by have := Operand.code_lt a; omega) (by decide)).trans ?_
  simp only [decodeFields, decodeOps7, Operand.ofCode_code, field_some, unused_112, finish_wf hw]

theorem tkstat (d : Operand) (a : Operand) : Statement (.tkstat d a) := by
  intro hw
  refine ⟨fun _ => ?_, fun k e => (by cases e)⟩
  refine (decode_pack _ _ _ _ _ (by decide) (by decide) (by have := Operand.code_lt d; omega) (by have := Operand.code_lt a; omega) (by decide)).trans ?_
  show field _ _ = _
  simp only [Operand.ofCode_code, field_some, unused_112, finish_wf hw]

theorem coll (o : CollOp) (a : Operand) (b : Operand) : Statement (.coll o a b) := by
  intro hw
  refine ⟨fun _ => ?_, fun k e => (by cases e)⟩
  refine (decode_pack _ _ _ _ _ (by decide) (by have := CollOp.code_lt o; omega) (by decide) (by have := Operand.code_lt a; omega) (by have := Operand.code_lt b; omega)).trans ?_
  have h0 := CollOp.code_lt o
  have h1 : o.code < 4 := h0
  have h3 : o.code + 0 = o.code := rfl
  simp only [decodeFields, decodeOps7, if_pos h1, h3, modifier_some, CollOp.ofCode_code, Operand.ofCode_code, field_some, unused_112, finish_wf hw]

theorem collPkg (o : CollOp) (a : Operand) (b : Operand) : Statement (.collPkg o a b) := by
  intro hw
  refine ⟨fun _ => ?_, fun k e => (by cases e)⟩
  refine (decode_pack _ _ _ _ _ (by decide) (by have := CollOp.code_lt o; omega) (by decide) (by have := Operand.code_lt a; omega) (by have := Operand.code_lt b; omega)).trans ?_
  have h0 := CollOp.code_lt o
  have h1 : ¬ o.code + 4 < 4 := by omega
  have h2 : o.code + 4 < 8 := by omega
  have h3 : o.code + 4 - 4 = o.code := by omega
  simp only [decodeFields, decodeOps7, if_neg h1, if_pos h2, h3, modifier_some, CollOp.ofCode_code, Operand.ofCode_code, field_some, unused_112, finish_wf hw]

theorem vbegin (fr : FirstReg) (n : RegCount) : Statement (.vbegin fr n) := by
  intro hw
  refine ⟨fun _ => ?_, fun k e => (by cases e)⟩
  refine (decode_pack _ _ _ _ _ (by decide) (by decide) (by decide) (by have := FirstReg.code_lt fr; omega) (by have := RegCount.code_lt n; omega)).trans ?_
  simp only [decodeFields, decodeOps7, FirstReg.ofCode_code, RegCount.ofCode_code, field_some, unused_112, finish_wf hw]

theorem srd (d : Operand) (r : SrNum) : Statement (.srd d r) := by
  intro hw
  refine ⟨fun _ => ?_, fun k e => (by cases e)⟩
  refine (decode_pack _ _ _ _ _ (by decide) (by decide) (by have := Operand.code_lt d; omega) (by have := SrNum.code_lt r; omega) (by decide)).trans ?_
  show field _ _ = _
  simp only [Operand.ofCode_code, SrNum.ofCode_code, field_some, unused_112, finish_wf hw]

theorem swr (d : Operand) (r : SrNum) : Statement (.swr d r) := by
  intro hw
  refine ⟨fun _ => ?_, fun k e => (by cases e)⟩
  refine (decode_pack _ _ _ _ _ (by decide) (by decide) (by have := Operand.code_lt d; omega) (by have := SrNum.code_lt r; omega) (by decide)).trans ?_
  show field _ _ = _
  simp only [Operand.ofCode_code, SrNum.ofCode_code, field_some, unused_112, finish_wf hw]

theorem mappg (a : Operand) (b : Operand) : Statement (.mappg a b) := by
  intro hw
  refine ⟨fun _ => ?_, fun k e => (by cases e)⟩
  refine (decode_pack _ _ _ _ _ (by decide) (by decide) (by decide) (by have := Operand.code_lt a; omega) (by have := Operand.code_lt b; omega)).trans ?_
  simp only [decodeFields, decodeOps7, Operand.ofCode_code, field_some, unused_112, finish_wf hw]

theorem bkpt (code : SrNum) : Statement (.bkpt code) := by
  intro hw
  refine ⟨fun _ => ?_, fun k e => (by cases e)⟩
  refine (decode_pack _ _ _ _ _ (by decide) (by decide) (by decide) (by have := SrNum.code_lt code; omega) (by decide)).trans ?_
  simp only [decodeFields, decodeOps7, SrNum.ofCode_code, field_some, unused_112, finish_wf hw]

theorem pidx (d : Operand) : Statement (.pidx d) := by
  intro hw
  refine ⟨fun _ => ?_, fun k e => (by cases e)⟩
  refine (decode_pack _ _ _ _ _ (by decide) (by decide) (by have := Operand.code_lt d; omega) (by decide) (by decide)).trans ?_
  show field _ _ = _
  simp only [Operand.ofCode_code, field_some, unused_112, finish_wf hw]

theorem reservedOpcode (w : Word) : Statement (.reservedOpcode w) := by
  intro _
  exact ⟨fun c => (Bool.noConfusion c), fun k e => (by cases e)⟩

theorem deferredSplitStart : Statement .deferredSplitStart := by
  intro _
  exact ⟨fun c => (Bool.noConfusion c), fun k e => (by cases e)⟩

theorem watchdogBudget : Statement .watchdogBudget := by
  intro _
  exact ⟨fun c => (Bool.noConfusion c), fun k e => (by cases e)⟩

theorem watchdogQueue : Statement .watchdogQueue := by
  intro _
  exact ⟨fun c => (Bool.noConfusion c), fun k e => (by cases e)⟩

theorem headerYield : Statement .headerYield := by
  intro _
  exact ⟨fun c => (Bool.noConfusion c), fun k e => (by cases e)⟩

theorem issueStarvation : Statement .issueStarvation := by
  intro _
  exact ⟨fun c => (Bool.noConfusion c), fun k e => (by cases e)⟩

theorem issueSelect : Statement .issueSelect := by
  intro _
  exact ⟨fun c => (Bool.noConfusion c), fun k e => (by cases e)⟩

theorem barRelease : Statement .barRelease := by
  intro _
  exact ⟨fun c => (Bool.noConfusion c), fun k e => (by cases e)⟩

theorem cbarRelease : Statement .cbarRelease := by
  intro _
  exact ⟨fun c => (Bool.noConfusion c), fun k e => (by cases e)⟩

theorem regroupComplete : Statement .regroupComplete := by
  intro _
  exact ⟨fun c => (Bool.noConfusion c), fun k e => (by cases e)⟩

theorem groupEnd : Statement .groupEnd := by
  intro _
  exact ⟨fun c => (Bool.noConfusion c), fun k e => (by cases e)⟩

theorem completionWrite : Statement .completionWrite := by
  intro _
  exact ⟨fun c => (Bool.noConfusion c), fun k e => (by cases e)⟩

theorem childAccept : Statement .childAccept := by
  intro _
  exact ⟨fun c => (Bool.noConfusion c), fun k e => (by cases e)⟩

theorem workgroupResident : Statement .workgroupResident := by
  intro _
  exact ⟨fun c => (Bool.noConfusion c), fun k e => (by cases e)⟩

theorem scratchDrain : Statement .scratchDrain := by
  intro _
  exact ⟨fun c => (Bool.noConfusion c), fun k e => (by cases e)⟩

theorem preempt : Statement .preempt := by
  intro _
  exact ⟨fun c => (Bool.noConfusion c), fun k e => (by cases e)⟩

theorem restore : Statement .restore := by
  intro _
  exact ⟨fun c => (Bool.noConfusion c), fun k e => (by cases e)⟩

theorem graphNodeKernel : Statement .graphNodeKernel := by
  intro _
  exact ⟨fun c => (Bool.noConfusion c), fun k e => (by cases e)⟩

theorem graphKernelDone : Statement .graphKernelDone := by
  intro _
  exact ⟨fun c => (Bool.noConfusion c), fun k e => (by cases e)⟩

theorem graphNodeCond : Statement .graphNodeCond := by
  intro _
  exact ⟨fun c => (Bool.noConfusion c), fun k e => (by cases e)⟩

theorem graphNodeWhile : Statement .graphNodeWhile := by
  intro _
  exact ⟨fun c => (Bool.noConfusion c), fun k e => (by cases e)⟩

theorem graphNodeJoin : Statement .graphNodeJoin := by
  intro _
  exact ⟨fun c => (Bool.noConfusion c), fun k e => (by cases e)⟩

theorem graphNodeEnd : Statement .graphNodeEnd := by
  intro _
  exact ⟨fun c => (Bool.noConfusion c), fun k e => (by cases e)⟩

theorem leaseExpiry : Statement .leaseExpiry := by
  intro _
  exact ⟨fun c => (Bool.noConfusion c), fun k e => (by cases e)⟩

theorem poolbaseWrite : Statement .poolbaseWrite := by
  intro _
  exact ⟨fun c => (Bool.noConfusion c), fun k e => (by cases e)⟩

theorem cpycmdCommand : Statement .cpycmdCommand := by
  intro _
  exact ⟨fun c => (Bool.noConfusion c), fun k e => (by cases e)⟩

theorem copyUnit : Statement .copyUnit := by
  intro _
  exact ⟨fun c => (Bool.noConfusion c), fun k e => (by cases e)⟩

theorem engineFault : Statement .engineFault := by
  intro _
  exact ⟨fun c => (Bool.noConfusion c), fun k e => (by cases e)⟩

theorem gatherPush : Statement .gatherPush := by
  intro _
  exact ⟨fun c => (Bool.noConfusion c), fun k e => (by cases e)⟩

theorem matrixExecute : Statement .matrixExecute := by
  intro _
  exact ⟨fun c => (Bool.noConfusion c), fun k e => (by cases e)⟩

theorem mdrainRow : Statement .mdrainRow := by
  intro _
  exact ⟨fun c => (Bool.noConfusion c), fun k e => (by cases e)⟩

theorem sortSend : Statement .sortSend := by
  intro _
  exact ⟨fun c => (Bool.noConfusion c), fun k e => (by cases e)⟩

theorem squareStart : Statement .squareStart := by
  intro _
  exact ⟨fun c => (Bool.noConfusion c), fun k e => (by cases e)⟩

theorem batchDispatch : Statement .batchDispatch := by
  intro _
  exact ⟨fun c => (Bool.noConfusion c), fun k e => (by cases e)⟩

theorem tnextRelease : Statement .tnextRelease := by
  intro _
  exact ⟨fun c => (Bool.noConfusion c), fun k e => (by cases e)⟩

theorem tdoneWriteout : Statement .tdoneWriteout := by
  intro _
  exact ⟨fun c => (Bool.noConfusion c), fun k e => (by cases e)⟩

theorem raySuspend : Statement .raySuspend := by
  intro _
  exact ⟨fun c => (Bool.noConfusion c), fun k e => (by cases e)⟩

theorem rayDone : Statement .rayDone := by
  intro _
  exact ⟨fun c => (Bool.noConfusion c), fun k e => (by cases e)⟩

theorem rayFault : Statement .rayFault := by
  intro _
  exact ⟨fun c => (Bool.noConfusion c), fun k e => (by cases e)⟩

theorem rayAbandon : Statement .rayAbandon := by
  intro _
  exact ⟨fun c => (Bool.noConfusion c), fun k e => (by cases e)⟩

theorem rayBatchPush : Statement .rayBatchPush := by
  intro _
  exact ⟨fun c => (Bool.noConfusion c), fun k e => (by cases e)⟩

theorem marchBatch : Statement .marchBatch := by
  intro _
  exact ⟨fun c => (Bool.noConfusion c), fun k e => (by cases e)⟩

theorem handlerEntry : Statement .handlerEntry := by
  intro _
  exact ⟨fun c => (Bool.noConfusion c), fun k e => (by cases e)⟩

theorem fatalFault : Statement .fatalFault := by
  intro _
  exact ⟨fun c => (Bool.noConfusion c), fun k e => (by cases e)⟩

theorem ticketResume : Statement .ticketResume := by
  intro _
  exact ⟨fun c => (Bool.noConfusion c), fun k e => (by cases e)⟩

theorem ticketKill : Statement .ticketKill := by
  intro _
  exact ⟨fun c => (Bool.noConfusion c), fun k e => (by cases e)⟩

theorem ticketEndContext : Statement .ticketEndContext := by
  intro _
  exact ⟨fun c => (Bool.noConfusion c), fun k e => (by cases e)⟩

theorem freeze : Statement .freeze := by
  intro _
  exact ⟨fun c => (Bool.noConfusion c), fun k e => (by cases e)⟩

theorem rd : Statement .rd := by
  intro _
  exact ⟨fun c => (Bool.noConfusion c), fun k e => (by cases e)⟩

theorem rdo : Statement .rdo := by
  intro _
  exact ⟨fun c => (Bool.noConfusion c), fun k e => (by cases e)⟩

theorem wr : Statement .wr := by
  intro _
  exact ⟨fun c => (Bool.noConfusion c), fun k e => (by cases e)⟩

theorem atom : Statement .atom := by
  intro _
  exact ⟨fun c => (Bool.noConfusion c), fun k e => (by cases e)⟩

theorem inv : Statement .inv := by
  intro _
  exact ⟨fun c => (Bool.noConfusion c), fun k e => (by cases e)⟩

theorem ack : Statement .ack := by
  intro _
  exact ⟨fun c => (Bool.noConfusion c), fun k e => (by cases e)⟩

theorem data : Statement .data := by
  intro _
  exact ⟨fun c => (Bool.noConfusion c), fun k e => (by cases e)⟩

theorem fwd : Statement .fwd := by
  intro _
  exact ⟨fun c => (Bool.noConfusion c), fun k e => (by cases e)⟩

theorem wb : Statement .wb := by
  intro _
  exact ⟨fun c => (Bool.noConfusion c), fun k e => (by cases e)⟩

theorem nack : Statement .nack := by
  intro _
  exact ⟨fun c => (Bool.noConfusion c), fun k e => (by cases e)⟩

theorem nackResend : Statement .nackResend := by
  intro _
  exact ⟨fun c => (Bool.noConfusion c), fun k e => (by cases e)⟩

theorem ctrl : Statement .ctrl := by
  intro _
  exact ⟨fun c => (Bool.noConfusion c), fun k e => (by cases e)⟩

theorem controlRegisterWrite : Statement .controlRegisterWrite := by
  intro _
  exact ⟨fun c => (Bool.noConfusion c), fun k e => (by cases e)⟩

theorem routeWrite : Statement .routeWrite := by
  intro _
  exact ⟨fun c => (Bool.noConfusion c), fun k e => (by cases e)⟩

theorem regionWrite : Statement .regionWrite := by
  intro _
  exact ⟨fun c => (Bool.noConfusion c), fun k e => (by cases e)⟩

theorem ringctlWrite : Statement .ringctlWrite := by
  intro _
  exact ⟨fun c => (Bool.noConfusion c), fun k e => (by cases e)⟩

theorem prim : Statement .prim := by
  intro _
  exact ⟨fun c => (Bool.noConfusion c), fun k e => (by cases e)⟩

theorem close : Statement .close := by
  intro _
  exact ⟨fun c => (Bool.noConfusion c), fun k e => (by cases e)⟩

theorem directoryMerge : Statement .directoryMerge := by
  intro _
  exact ⟨fun c => (Bool.noConfusion c), fun k e => (by cases e)⟩

theorem migrationCommand : Statement .migrationCommand := by
  intro _
  exact ⟨fun c => (Bool.noConfusion c), fun k e => (by cases e)⟩

theorem migrationCopy : Statement .migrationCopy := by
  intro _
  exact ⟨fun c => (Bool.noConfusion c), fun k e => (by cases e)⟩

theorem migbaseWrite : Statement .migbaseWrite := by
  intro _
  exact ⟨fun c => (Bool.noConfusion c), fun k e => (by cases e)⟩

theorem tstorePacket : Statement .tstorePacket := by
  intro _
  exact ⟨fun c => (Bool.noConfusion c), fun k e => (by cases e)⟩

theorem watch : Statement .watch := by
  intro _
  exact ⟨fun c => (Bool.noConfusion c), fun k e => (by cases e)⟩

theorem release : Statement .release := by
  intro _
  exact ⟨fun c => (Bool.noConfusion c), fun k e => (by cases e)⟩

theorem fail : Statement .fail := by
  intro _
  exact ⟨fun c => (Bool.noConfusion c), fun k e => (by cases e)⟩

theorem poll : Statement .poll := by
  intro _
  exact ⟨fun c => (Bool.noConfusion c), fun k e => (by cases e)⟩

theorem watchRepoll : Statement .watchRepoll := by
  intro _
  exact ⟨fun c => (Bool.noConfusion c), fun k e => (by cases e)⟩

theorem landed : Statement .landed := by
  intro _
  exact ⟨fun c => (Bool.noConfusion c), fun k e => (by cases e)⟩

theorem denied : Statement .denied := by
  intro _
  exact ⟨fun c => (Bool.noConfusion c), fun k e => (by cases e)⟩

theorem expired : Statement .expired := by
  intro _
  exact ⟨fun c => (Bool.noConfusion c), fun k e => (by cases e)⟩

theorem refuse : Statement .refuse := by
  intro _
  exact ⟨fun c => (Bool.noConfusion c), fun k e => (by cases e)⟩

theorem refuseResend : Statement .refuseResend := by
  intro _
  exact ⟨fun c => (Bool.noConfusion c), fun k e => (by cases e)⟩

theorem tokenHoldExpiry : Statement .tokenHoldExpiry := by
  intro _
  exact ⟨fun c => (Bool.noConfusion c), fun k e => (by cases e)⟩

theorem tokenRetire : Statement .tokenRetire := by
  intro _
  exact ⟨fun c => (Bool.noConfusion c), fun k e => (by cases e)⟩

theorem collTransfer : Statement .collTransfer := by
  intro _
  exact ⟨fun c => (Bool.noConfusion c), fun k e => (by cases e)⟩

theorem fabricPacket : Statement .fabricPacket := by
  intro _
  exact ⟨fun c => (Bool.noConfusion c), fun k e => (by cases e)⟩

theorem flitData : Statement .flitData := by
  intro _
  exact ⟨fun c => (Bool.noConfusion c), fun k e => (by cases e)⟩

theorem flitIdle : Statement .flitIdle := by
  intro _
  exact ⟨fun c => (Bool.noConfusion c), fun k e => (by cases e)⟩

theorem flitCtrl : Statement .flitCtrl := by
  intro _
  exact ⟨fun c => (Bool.noConfusion c), fun k e => (by cases e)⟩

theorem keymark : Statement .keymark := by
  intro _
  exact ⟨fun c => (Bool.noConfusion c), fun k e => (by cases e)⟩

theorem linkDown : Statement .linkDown := by
  intro _
  exact ⟨fun c => (Bool.noConfusion c), fun k e => (by cases e)⟩

theorem heartbeat : Statement .heartbeat := by
  intro _
  exact ⟨fun c => (Bool.noConfusion c), fun k e => (by cases e)⟩

theorem standbyTakeover : Statement .standbyTakeover := by
  intro _
  exact ⟨fun c => (Bool.noConfusion c), fun k e => (by cases e)⟩

theorem coldReset : Statement .coldReset := by
  intro _
  exact ⟨fun c => (Bool.noConfusion c), fun k e => (by cases e)⟩

theorem warmReset : Statement .warmReset := by
  intro _
  exact ⟨fun c => (Bool.noConfusion c), fun k e => (by cases e)⟩

theorem mgmtIdentity : Statement .mgmtIdentity := by
  intro _
  exact ⟨fun c => (Bool.noConfusion c), fun k e => (by cases e)⟩

theorem mgmtAttest : Statement .mgmtAttest := by
  intro _
  exact ⟨fun c => (Bool.noConfusion c), fun k e => (by cases e)⟩

theorem mgmtTelemetry : Statement .mgmtTelemetry := by
  intro _
  exact ⟨fun c => (Bool.noConfusion c), fun k e => (by cases e)⟩

theorem mgmtBlackbox : Statement .mgmtBlackbox := by
  intro _
  exact ⟨fun c => (Bool.noConfusion c), fun k e => (by cases e)⟩

theorem mgmtHalt : Statement .mgmtHalt := by
  intro _
  exact ⟨fun c => (Bool.noConfusion c), fun k e => (by cases e)⟩

theorem mgmtResume : Statement .mgmtResume := by
  intro _
  exact ⟨fun c => (Bool.noConfusion c), fun k e => (by cases e)⟩

theorem mgmtSaveread : Statement .mgmtSaveread := by
  intro _
  exact ⟨fun c => (Bool.noConfusion c), fun k e => (by cases e)⟩

theorem mgmtWarmreset : Statement .mgmtWarmreset := by
  intro _
  exact ⟨fun c => (Bool.noConfusion c), fun k e => (by cases e)⟩

theorem mgmtColdreset : Statement .mgmtColdreset := by
  intro _
  exact ⟨fun c => (Bool.noConfusion c), fun k e => (by cases e)⟩

theorem selectWrite : Statement .selectWrite := by
  intro _
  exact ⟨fun c => (Bool.noConfusion c), fun k e => (by cases e)⟩

theorem stepEntryWrite : Statement .stepEntryWrite := by
  intro _
  exact ⟨fun c => (Bool.noConfusion c), fun k e => (by cases e)⟩

theorem clockRefLoss : Statement .clockRefLoss := by
  intro _
  exact ⟨fun c => (Bool.noConfusion c), fun k e => (by cases e)⟩

theorem fallbackClear : Statement .fallbackClear := by
  intro _
  exact ⟨fun c => (Bool.noConfusion c), fun k e => (by cases e)⟩

theorem droopStretch : Statement .droopStretch := by
  intro _
  exact ⟨fun c => (Bool.noConfusion c), fun k e => (by cases e)⟩

theorem thermalTrip : Statement .thermalTrip := by
  intro _
  exact ⟨fun c => (Bool.noConfusion c), fun k e => (by cases e)⟩

theorem patrolScrub : Statement .patrolScrub := by
  intro _
  exact ⟨fun c => (Bool.noConfusion c), fun k e => (by cases e)⟩

theorem nop : Statement .nop := by
  intro hw
  refine ⟨fun _ => ?_, fun k e => (by cases e)⟩
  refine (decode_pack _ _ _ _ _ (by decide) (by decide) (by decide) (by decide) (by decide)).trans ?_
  simp only [decodeFields, decodeOps0, unused_112, finish_wf hw]

theorem yield : Statement .yield := by
  intro hw
  refine ⟨fun _ => ?_, fun k e => (by cases e)⟩
  refine (decode_pack _ _ _ _ _ (by decide) (by decide) (by decide) (by decide) (by decide)).trans ?_
  simp only [decodeFields, decodeOps2, unused_112, finish_wf hw]

theorem emitend : Statement .emitend := by
  intro hw
  refine ⟨fun _ => ?_, fun k e => (by cases e)⟩
  refine (decode_pack _ _ _ _ _ (by decide) (by decide) (by decide) (by decide) (by decide)).trans ?_
  simp only [decodeFields, decodeOps5, unused_112, finish_wf hw]

theorem tnext : Statement .tnext := by
  intro hw
  refine ⟨fun _ => ?_, fun k e => (by cases e)⟩
  refine (decode_pack _ _ _ _ _ (by decide) (by decide) (by decide) (by decide) (by decide)).trans ?_
  simp only [decodeFields, decodeOps5, unused_112, finish_wf hw]

theorem tdone : Statement .tdone := by
  intro hw
  refine ⟨fun _ => ?_, fun k e => (by cases e)⟩
  refine (decode_pack _ _ _ _ _ (by decide) (by decide) (by decide) (by decide) (by decide)).trans ?_
  simp only [decodeFields, decodeOps5, unused_112, finish_wf hw]

theorem vend : Statement .vend := by
  intro hw
  refine ⟨fun _ => ?_, fun k e => (by cases e)⟩
  refine (decode_pack _ _ _ _ _ (by decide) (by decide) (by decide) (by decide) (by decide)).trans ?_
  simp only [decodeFields, decodeOps7, unused_112, finish_wf hw]

theorem rft : Statement .rft := by
  intro hw
  refine ⟨fun _ => ?_, fun k e => (by cases e)⟩
  refine (decode_pack _ _ _ _ _ (by decide) (by decide) (by decide) (by decide) (by decide)).trans ?_
  simp only [decodeFields, decodeOps7, unused_112, finish_wf hw]

theorem kill : Statement .kill := by
  intro hw
  refine ⟨fun _ => ?_, fun k e => (by cases e)⟩
  refine (decode_pack _ _ _ _ _ (by decide) (by decide) (by decide) (by decide) (by decide)).trans ?_
  simp only [decodeFields, decodeOps7, unused_112, finish_wf hw]

theorem haltall : Statement .haltall := by
  intro hw
  refine ⟨fun _ => ?_, fun k e => (by cases e)⟩
  refine (decode_pack _ _ _ _ _ (by decide) (by decide) (by decide) (by decide) (by decide)).trans ?_
  simp only [decodeFields, decodeOps7, unused_112, finish_wf hw]

theorem tkwaitHoldExpiry : Statement .tkwaitHoldExpiry := by
  intro _
  exact ⟨fun c => (Bool.noConfusion c), fun k e => (by cases e)⟩

theorem clockRefReturn : Statement .clockRefReturn := by
  intro _
  exact ⟨fun c => (Bool.noConfusion c), fun k e => (by cases e)⟩

theorem linkUp : Statement .linkUp := by
  intro _
  exact ⟨fun c => (Bool.noConfusion c), fun k e => (by cases e)⟩

end Sys2Proof.Laws.RoundTrip
end

