-- ==== Sys2Proof/Tests/Slice0.lean ====
section
/-! SUPPORT. The model's own tests: ill-formed terms refused, words of the spec decoded, single steps, and for every statement
states and operands that meet its hypotheses. Expected values are the spec's worked examples or worked out by hand from its
rules. -/

namespace Sys2Proof.Tests

set_option Elab.async false

open Sys2Proof Sys2Proof.Machine Sys2Proof.Safety

/-! ### A small machine -/

/-- A split of 32 lanes at address 0x1000 with these words to issue. -/
def sp (ws : List Word) (act : LaneMask := 0xFFFFFFFF) : Split :=
  { id := 0, mask := 0xFFFFFFFF, pc := 0x1000, wdog := 0x100000,
    clause := some { at_ := 0x1000, base := 0x1004, words := ws, idx := 0, active := act, setx := 0, sety := 1, att := false, only := false } }

/-- A group of one split, number 7 of workgroup 1 on die 0, core 0, in context 0. -/
def gr (p : Split) : Group :=
  { id := 7, wg := 1, ctx := 0, die := 0, core := 0, grpx := 0, slot := 0, regCount := 96, splits := [p], entry := 0x1000 }

/-- The machine after reset with one group of a launch with 1 KiB of scratchpad and die scratch, 4 tiles, phase slot 0x40. -/
def mk (g : Group) : State :=
  { State.reset with
    groups := [g],
    workgroups := [{ id := 1, launch := 2, w := 0, die := 0, core := 0, groups := [7], slots := [0] }],
    launches := [{ id := 2, ctx := 0, addr := 0, arg := 0, seq := 0, age := 0,
                   record := { scratch := 1024, diescratch := 1024, accum := 4, phase := 0x40 }, state := .running }],
    nextId := 100, cur := some (7, 0), granted := true }

/-- The machine about to issue an instruction, its group changed by `f`. -/
def at_ (i : Instr) (f : Group → Group := id) (act : LaneMask := 0xFFFFFFFF) (lit : Word := 0) : State :=
  mk (f (gr (sp (encode i :: (if i.usesLit then [lit] else [])) act)))

/-- What an instruction's own effect sees, when it issues. -/
def ctxOf (i : Instr) (s : State) : Option Ctx :=
  match s.issuer with
  | none => none
  | some (g, p, c) =>
    match preIssue i s g p c with
    | .go x => some x
    | _ => none

theorem ctxOf_issues {i : Instr} {s : State} {x : Ctx} (h : ctxOf i s = some x) : Issues i s x := by
  unfold ctxOf at h
  split at h
  · cases h
  · next g p c hi =>
    split at h
    · next hx => cases h; exact ⟨g, p, c, hi, hx⟩
    · cases h

/-- A witness of an issuing instruction and of what its statement asks of the context. -/
theorem wit {i : Instr} {s : State} {q : Ctx → Bool} (h : (ctxOf i s).any q = true) : ∃ x, Issues i s x ∧ q x = true := by
  cases hc : ctxOf i s with
  | none => simp [hc] at h
  | some x => exact ⟨x, ctxOf_issues hc, by simpa [hc] using h⟩

/-- An instruction issues from a state, and its context satisfies a check. -/
def go (i : Instr) (s : State) (q : Ctx → Bool := fun _ => true) : Bool := (ctxOf i s).any q
/-- The next state of an instruction or event. -/
def next (i : Instr) (s : State) : Option State :=
  match exec i s with
  | .next t => some t
  | _ => none

/-- The group after it. -/
def after (i : Instr) (s : State) : Option Group := (next i s).bind fun t => t.group? 7

/-- The cause of the pending or handled fault of the group after it. -/
def faults (i : Instr) (s : State) : Option Cause := (after i s).bind fun g => (g.splits.head?.bind fun p => p.pend).map fun t => t.cause

/-- A register of lane 0 after it. -/
def r0 (i : Instr) (s : State) (n : Nat) : Option Nat := (after i s).map fun g => (g.reg n 0).toNat

/-- A group with port 0 bound to an engine code and entries in it. -/
def port (e : EnginePort) (n : Nat) (g : Group) : Group :=
  { g with ports := setAt g.ports 0 { code := some e, entries := List.replicate n { words := List.replicate 32 5, mask := 0xFFFFFFFF } } }
/-- A group with that many instructions outstanding on a path. -/
def busy (p : Path) (long : Bool) (n : Nat) (g : Group) : Group :=
  { g with flights := (List.range n).map fun k =>
      { id := k, split := 0, mask := 0xFFFFFFFF, flag := none, path := some p, long, work := .performed }, nextFlight := n }

/-! ### Ill-formed terms: one for each check of `wf` (R30, R31, R34, R37, R38) -/

theorem wf_dst : (Instr.mov .w32 .lane .zero).wf = false := by decide
theorem wf_dst64 : (Instr.mov .w64 (.v 3) .zero).wf = false := by decide
theorem wf_src64 : (Instr.mov .w64 (.v 2) (.v 3)).wf = false := by decide
theorem wf_src64_port : (Instr.mov .w64 (.v 2) (.q 0)).wf = false := by decide
theorem wf_dread : (Instr.imad .i32 (.q 0) .zero .zero).wf = false := by decide
theorem wf_pair : (Instr.ld .n32 (.v 0) (.v 3) .zero).wf = false := by decide
theorem wf_pair_zero : (Instr.ld .n32 (.v 0) .zero .zero).wf = false := by decide
theorem wf_pairV : (Instr.gath (.s 4) .zero).wf = false ∧ (Instr.gath (.v 5) .zero).wf = false := by decide
theorem wf_pairS : (Instr.btset 0 (.v 2) .zero).wf = false := by decide
theorem wf_s : (Instr.mmaAcc ⟨false, false⟩ 0 (.v 0) (.s 1)).wf = false := by decide
theorem wf_s4 : (Instr.cpyl (.s 13)).wf = false ∧ (Instr.cpyl (.s 12)).wf = true := by decide
theorem wf_sd : (Instr.mstat (.v 0) 0).wf = false := by decide
theorem wf_q : (Instr.qdrain (.s 0)).wf = false := by decide
theorem wf_vd : (Instr.regroup 0 (.s 0) 0 1).wf = false := by decide
theorem wf_quad : (Instr.ld .n128 (.v 2) (.s 0) .zero).wf = false := by decide
theorem wf_v4 : (Instr.texs (.v 2) (.v 0) (.s 4)).wf = false := by decide
theorem wf_two_literals : (Instr.iadd .i32 (.v 0) .lit .lit).wf = false := by decide
theorem wf_two_ports : (Instr.iadd .i32 (.q 0) (.q 0) .zero).wf = false ∧ (Instr.iadd .i32 (.q 0) (.q 1) .zero).wf = true := by decide
theorem wf_scalar_rule : (Instr.iadd .i32 (.s 0) (.v 1) .zero).wf = false ∧ (Instr.iadd .i32 (.s 0) .lane .zero).wf = false := by decide
theorem wf_header : (Instr.clauseHeader ⟨0, 0, 12, 15, false, 7⟩).wf = false ∧ (Instr.clauseHeader ⟨0, 0, 0, 14, false, 7⟩).wf = false := by
  decide
theorem wf_transfer : (Instr.br ⟨7, true⟩ 0).wf = false ∧ (Instr.exit ⟨7, true⟩).wf = false := by decide
theorem wf_plop : (Instr.plop .not 0 1 2).wf = false ∧ (Instr.plop .copy 0 1 7).wf = true := by decide
theorem wf_elem : (Instr.dqcvt 4 (.v 0) (.v 1) .e4m3).wf = false ∧ (Instr.dqcvt 5 (.v 0) (.v 1) .lg6).wf = false := by decide
theorem wf_range : (Instr.regroup 0 (.v 0) 4 0).wf = false ∧ (Instr.regroup 0 (.v 0) 90 7).wf = false ∧ (Instr.vbegin 95 2).wf = false := by
  decide

/-! ### Words that the spec writes out, family by family -/

theorem words_header :
    decodeHeader 0xD20000F7 = some ⟨2, 0, 0, 15, false, 7⟩ ∧ decodeHeader 0xD2001FF7 = some ⟨2, 1, 15, 15, false, 7⟩ ∧
    decodeHeader 0xD10032F7 = some ⟨1, 3, 2, 15, false, 7⟩ ∧ decodeHeader 0xD0000FF1 = some ⟨0, 0, 15, 15, false, 1⟩ := by decide
theorem words_integer :
    decode 0x001C3870 = .ok .nop ∧ decode 0x0C024388 = .ok (.imulh .i32 (.v 9) (.v 7) (.v 8)) ∧
    decode 0x18404184 = .ok (.icmp ⟨.lt, false, false⟩ 1 (.v 3) (.v 4)) ∧ decode 0x18C04184 = .ok (.icmp ⟨.lt, true, false⟩ 1 (.v 3) (.v 4)) ∧
    decode 0x1A410107 = .ok (.lea 2 (.v 4) (.v 2) (.v 7)) ∧ decode 0x1A40B475 = .ok (.lea 2 (.v 2) (.s 8) .tidx) ∧
    decode 0x2C20C276 = .ok (.bfe .sgn (.v 3) (.v 4) .lit) ∧ decode 0x06018376 = .ok (.iadd .i32 (.v 6) (.v 6) .lit) ∧
    decode 0x06004081 = .ok (.iadd .i32 (.v 1) (.v 1) (.v 1)) ∧ decode 0x02007B70 = .ok (.mov .w32 (.v 1) .lit) ∧
    decode 0x18A042F0 = .ok (.icmp ⟨.ne, true, false⟩ 1 (.v 5) .zero) := by decide
theorem words_control :
    decode 0x381C3B70 = .ok (.window .lit) ∧ decode 0x3A18B870 = .ok (.rdcntCycle (.s 2)) ∧ decode 0x46FC3870 = .ok (.ret ⟨7, false⟩) ∧
    decode 0x48FC3870 = .ok (.exit ⟨7, false⟩) ∧ decode 0x4C1C3870 = .ok .yield ∧ decode 0x4E1C3B70 = .ok (.trap .lit) ∧
    decode 0x44E00007 = .ok (.call ⟨7, false⟩ 7) ∧ decode 0x40200009 = .ok (.br ⟨1, false⟩ 9) ∧ decode 0x40E00005 = .ok (.br ⟨7, false⟩ 5) ∧
    decode 0x4A00000C = .ok (.joinat 12) := by decide
theorem words_memory :
    decode 0x50614176 = .ok (.ld .i16 (.v 5) (.v 2) .lit) ∧ decode 0x52820176 = .ok (.st .n32 (.v 8) (.v 2) .lit) ∧
    decode 0x50810170 = .ok (.ld .n32 (.v 4) (.v 2) .zero) ∧ decode 0x52804170 = .ok (.st .n32 (.v 1) (.v 2) .zero) ∧
    decode 0x5480C4F6 = .ok (.ldl .n32 (.v 3) (.v 9) .lit) ∧ decode 0x5880B876 = .ok (.lds .n32 (.v 2) .zero .lit) ∧
    decode 0x5C810370 = .ok (.ldc .n32 (.v 4) (.v 6) .zero) ∧ decode 0x64810187 = .ok (.ldb .n32 (.v 4) 3 (.v 7)) ∧
    decode 0x7800F476 = .ok (.btset 3 (.s 8) .lit) ∧ decode 0x6A014106 = .ok (.atomg .add (.v 5) (.v 2) (.v 6)) ∧
    decode 0x69214307 = .ok (.atoms .cas (.v 5) (.v 6) (.v 7)) ∧ decode 0x6C1DB670 = .ok (.redg .add .lit (.s 12)) ∧
    decode 0x6B397176 = .ok (.atomg .cas (.s 5) (.s 2) .lit) := by decide
theorem words_order :
    decode 0x709C3801 = .ok (.fence .pnl .rel) ∧ decode 0x703C3800 = .ok (.fence .wg .acq) ∧ decode 0x70BC3803 = .ok (.fence .sys .sc) ∧
    decode 0x721C0281 = .ok (.pfence 5 1) ∧ decode 0x721C0085 = .ok (.pfence 1 5) ∧ decode 0x741C02F6 = .ok (.waitp 5 .lit) ∧
    decode 0x76BC0576 = .ok (.waitmem .sys (.v 10) .lit) ∧ decode 0x769C3170 = .ok (.waitmem .pnl (.s 2) .zero) ∧
    decode 0x7A00C570 = .ok (.tagset (.v 3) (.v 10)) ∧ decode 0x7A210570 = .ok (.tagget (.v 4) (.v 10)) ∧
    decode 0x7A430576 = .ok (.tagptr (.v 12) (.v 10) .lit) ∧ decode 0x7C3C0570 = .ok (.pref .l2 (.v 10) .zero) := by decide
theorem words_float :
    decode 0x80020103 = .ok (.fadd .rne (.v 8) (.v 2) (.v 3)) ∧ decode 0x86220103 = .ok (.ffma .rtz (.v 8) (.v 2) (.v 3)) ∧
    decode 0x8C404184 = .ok (.fcmp ⟨.lt, false⟩ 1 (.v 3) (.v 4)) ∧ decode 0x90E284F0 = .ok (.fsin (.v 10) (.v 9)) ∧
    decode 0x9102C4F0 = .ok (.fcos (.v 11) (.v 9)) ∧ decode 0x92010286 = .ok (.fdiv .rne (.v 4) (.v 5) (.v 6)) ∧
    decode 0x9A224205 = .ok (.hfma2 .bf16 (.v 9) (.v 4) (.v 5)) ∧ decode 0xA0014208 = .ok (.cvtf .rne (.v 5) (.v 4) ⟨.fp32, .bf16⟩) ∧
    decode 0xA7018205 = .ok (.pack2 ⟨.rne, .bf16⟩ (.v 6) (.v 4) (.v 5)) ∧ decode 0xA220C170 = .ok (.f2i ⟨.rtz, false, false⟩ (.v 3) (.v 2)) ∧
    decode 0xA801C303 = .ok (.qcvt .rne (.v 7) (.v 6) .e4m3) ∧ decode 0xAA420383 = .ok (.dqcvt 2 (.v 8) (.v 7) .e4m3) := by decide
theorem words_parallel :
    decode 0xC00080F0 = .ok (.voteAll 2 1) ∧ decode 0xC05900F0 = .ok (.voteBallot (.s 4) 1) ∧ decode 0xC2614276 = .ok (.shfl .xor (.v 5) (.v 4) .lit) ∧
    decode 0xC40182F0 = .ok (.scan ⟨.add, false⟩ (.v 6) (.v 5)) ∧ decode 0xC50182F0 = .ok (.scan ⟨.add, true⟩ (.v 6) (.v 5)) ∧
    decode 0xC61942F0 = .ok (.lred .add (.s 5) (.v 5)) ∧ decode 0xC801C276 = .ok (.bcast (.v 7) (.v 4) .lit) ∧
    decode 0xCA59B870 = .ok (.splitqCount (.s 6)) ∧ decode 0xCC450208 = .ok (.regroup 2 (.v 20) 4 8) ∧ decode 0xCE1C3870 = .ok (.bar 0) ∧
    decode 0xD03C3870 = .ok (.cbar 1) ∧ decode 0xD23C0503 = .ok (.launchL (.v 10) (.v 3)) ∧ decode 0xD21C3170 = .ok (.launchG (.s 2) .zero) ∧
    decode 0xD43C04F0 = .ok (.phaseend .maxn (.v 9)) ∧ decode 0xD6003870 = .ok (.lvl 0 (.v 0)) ∧ decode 0xD7407870 = .ok (.lvlExt 2 (.v 1)) ∧
    decode 0xD8833B70 = .ok (.placeDie (.v 12) .lit) := by decide
theorem words_engines :
    decode 0xB41E80F0 = .ok (.qbind (.q 2) .gather) ∧ decode 0xB61EB870 = .ok (.qunbind (.q 2)) ∧ decode 0xB6397D70 = .ok (.qcount (.s 5) (.q 2)) ∧
    decode 0xB65EB870 = .ok (.qdrain (.q 2)) ∧ decode 0xB81C3470 = .ok (.cpyl (.s 8)) ∧ decode 0xB83C3470 = .ok (.cpyt (.s 8)) ∧
    decode 0xB85C3470 = .ok (.cpym (.s 8)) ∧ decode 0xB81C3070 = .ok (.cpyl (.s 0)) ∧ decode 0xBA1C0276 = .ok (.gath (.v 4) .lit) ∧
    decode 0xBA210566 = .ok (.scat (.v 4) (.v 10) (.s 6)) := by decide
theorem words_matrix :
    decode 0xAC017469 = .ok (.mmaAcc ⟨false, false⟩ 5 (.s 8) (.s 9)) ∧ decode 0xAC617469 = .ok (.mmaSet ⟨true, false⟩ 5 (.s 8) (.s 9)) ∧
    decode 0xAE1C3270 = .ok (.mfmt (.s 4)) ∧ decode 0xB0017370 = .ok (.mdrain 5 (.s 6)) ∧ decode 0xB1017370 = .ok (.mdrainMrow 5 (.s 6)) ∧
    decode 0xB21C3367 = .ok (.mtrq (.s 6) (.s 7)) := by decide
theorem words_rendering :
    decode 0xBC0201F0 = .ok (.emitv (.v 8) (.v 3)) ∧ decode 0xBC3C060D = .ok (.emitp (.v 12) (.v 13)) ∧ decode 0xBC5C3870 = .ok .emitend ∧
    decode 0xBE018070 = .ok (.tload (.v 6) (.v 0)) ∧ decode 0xBE3B0070 = .ok (.tstore (.s 12) (.v 0)) ∧ decode 0xBE5C3870 = .ok .tnext ∧
    decode 0xBE7C3870 = .ok .tdone ∧ decode 0xDA020164 = .ok (.texs (.v 8) (.v 2) (.s 4)) ∧ decode 0xDA220164 = .ok (.texl (.v 8) (.v 2) (.s 4)) ∧
    decode 0xDA420164 = .ok (.texf (.v 8) (.v 2) (.s 4)) := by decide
theorem words_rays :
    decode 0xDC1C0270 = .ok (.trace (.v 4)) ∧ decode 0xDC3C0205 = .ok (.resume (.v 4) (.v 5)) ∧ decode 0xDC5C0206 = .ok (.commit (.v 4) (.v 6)) ∧
    decode 0xDC613870 = .ok (.rpalloc (.v 4)) ∧ decode 0xDC9C0270 = .ok (.rpfree (.v 4)) ∧ decode 0xDCBC3270 = .ok (.march (.s 4)) ∧
    decode 0xDCC1C365 = .ok (.hgfetch (.v 7) (.v 6) (.s 5)) := by decide
theorem words_tokens :
    decode 0xE0190501 = .ok (.stxt (.s 4) (.v 10) (.v 1)) ∧ decode 0xE0208564 = .ok (.stxw (.v 2) (.v 10) (.s 4)) ∧
    decode 0xE03DB764 = .ok (.stxw .lit (.s 14) (.s 4)) ∧ decode 0xE05C3270 = .ok (.tkwait (.s 4)) ∧ decode 0xE0797270 = .ok (.tkstat (.s 5) (.s 4)) ∧
    decode 0xE21C3476 = .ok (.coll .addF32 (.s 8) .lit) ∧ decode 0xE2FC3403 = .ok (.collPkg .copy (.s 8) (.v 3)) := by decide
theorem words_system :
    decode 0xE41C0804 = .ok (.vbegin 16 4) ∧ decode 0xE43C3870 = .ok .vend ∧ decode 0xE6008A70 = .ok (.srd (.v 2) 0x14) ∧
    decode 0xE6214970 = .ok (.swr (.v 5) 0x12) ∧ decode 0xE65C3870 = .ok .rft ∧ decode 0xE67C3870 = .ok .kill ∧
    decode 0xE69C0176 = .ok (.mappg (.v 2) .lit) ∧ decode 0xE6BC3870 = .ok .haltall ∧ decode 0xE6E0F870 = .ok (.pidx (.v 3)) := by decide
theorem words_refused :
    decode 0x02007BF0 = .illegalOperand ∧ decode 0x3E000000 = .illegalOp ∧ decode 0x06C18376 = .illegalOp ∧ decode 0x02018376 = .illegalOperand ∧
    decode 0x00000000 = .illegalOperand := by decide

/-! ### Single steps: register instructions -/

/-- Run an instruction with v4 = a, v5 = b and v6 = d in lane 0: the group after it. -/
def run2 (i : Instr) (a b : Word) (d : Word := 0) : Option Group :=
  after i (at_ i fun g => ((g.setReg 4 0 a).setReg 5 0 b).setReg 6 0 d)
/-- v6 of lane 0 after it. -/
def bin (i : Instr) (a b : Word) (d : Word := 0) : Option Nat := (run2 i a b d).map fun g => (g.reg 6 0).toNat
/-- v6 and SR_FSTAT after it. -/
def binF (i : Instr) (a b : Word) (d : Word := 0) : Option (Nat × Nat) := (run2 i a b d).map fun g => ((g.reg 6 0).toNat, g.fstat.toNat)
/-- v6:v7 after it, from the pairs v2:v3 and v4:v5. -/
def bin64 (i : Instr) (a b : DWord) : Option Nat :=
  (after i (at_ i fun g => (((g.setReg 2 0 (lowWord a)).setReg 3 0 (highWord a)).setReg 4 0 (lowWord b)).setReg 5 0 (highWord b))).map fun g =>
    (g.reg 6 0).toNat + 2 ^ 32 * (g.reg 7 0).toNat
/-- p1 of lane 0 after a compare of v4 with v5. -/
def cmp (i : Instr) (a b : Word) : Option Bool := (run2 i a b).map fun g => g.pred 1 0

/-- Worked example of R84. -/
theorem test_imul : bin (.imulh .i32 (.v 6) (.v 4) (.v 5)) 0x80000000 3 = some 0xFFFFFFFE ∧
    bin (.imul .i32 (.v 6) (.v 4) (.v 5)) 0x80000000 3 = some 0x80000000 ∧ bin (.imulh .n32 (.v 6) (.v 4) (.v 5)) 0x80000000 3 = some 1 := by
  decide +kernel
theorem test_iadd : bin (.iadd .i32sat (.v 6) (.v 4) (.v 5)) 0x7FFFFFF0 0x20 = some 0x7FFFFFFF ∧
    bin (.iadd .i32 (.v 6) (.v 4) (.v 5)) 0x7FFFFFF0 0x20 = some 0x80000010 := by decide +kernel
theorem test_isub : bin (.isub .n32sat (.v 6) (.v 4) (.v 5)) 3 5 = some 0 ∧ bin64 (.isub .i64 (.v 6) (.v 2) (.v 4)) 0 1 = some 0xFFFFFFFFFFFFFFFF := by
  decide +kernel
theorem test_imad : bin (.imad .i32 (.v 6) (.v 4) (.v 5)) 0xFFFFFFFF 7 10 = some 3 := by decide +kernel
theorem test_minmax : bin (.imin .i32 (.v 6) (.v 4) (.v 5)) 0xFFFFFFFF 1 = some 0xFFFFFFFF ∧ bin (.imin .n32 (.v 6) (.v 4) (.v 5)) 0xFFFFFFFF 1 = some 1 ∧
    bin (.imax .i32 (.v 6) (.v 4) (.v 5)) 0xFFFFFFFF 1 = some 1 := by decide +kernel
theorem test_mov_sel : bin (.mov .w32 (.v 6) (.v 4)) 9 0 = some 9 ∧ bin (.sel ⟨7, true⟩ (.v 6) (.v 4) (.v 5)) 9 8 = some 8 := by decide +kernel
theorem test_lea : bin64 (.lea 2 (.v 6) (.v 2) (.v 4)) 0x1000 0xFFFFFFFF = some 0xFFC := by decide +kernel
theorem test_logic : bin (.landn .w32 (.v 6) (.v 4) (.v 5)) 0xFF 0x0F = some 0xF0 ∧ bin (.lxor .w32 (.v 6) (.v 4) (.v 5)) 0xFF 0x0F = some 0xF0 ∧
    bin (.land .w32 (.v 6) (.v 4) (.v 5)) 0xF3 0x3F = some 0x33 ∧ bin (.lor .w32 (.v 6) (.v 4) (.v 5)) 0xF0 0x0F = some 0xFF := by decide +kernel
theorem test_shift : bin (.shl .w32 (.v 6) (.v 4) (.v 5)) 3 33 = some 6 ∧ bin (.shr .w32 (.v 6) (.v 4) (.v 5)) 0x80000000 31 = some 1 ∧
    bin (.sar .w32 (.v 6) (.v 4) (.v 5)) 0x80000000 31 = some 0xFFFFFFFF ∧ bin (.rotl .w32 (.v 6) (.v 4) (.v 5)) 0x80000001 1 = some 3 := by decide +kernel
/-- Worked example of R88. -/
theorem test_bfe : bin (.bfe .sgn (.v 6) (.v 4) (.v 5)) 0xF80 0x804 = some 0xFFFFFFF8 ∧ bin (.bfe .uns (.v 6) (.v 4) (.v 5)) 0xF80 0x804 = some 0xF8 ∧
    bin (.bfe .uns (.v 6) (.v 4) (.v 5)) 0xA0000000 0x81C = some 0xA := by decide +kernel
theorem test_bfi : bin (.bfi (.v 6) (.v 4) (.v 5)) 0xFF 0x404 0 = some 0xF0 := by decide +kernel
theorem test_bitop : bin (.popc (.v 6) (.v 4)) 0xF0F 0 = some 8 ∧ bin (.clz (.v 6) (.v 4)) 0 0 = some 32 ∧ bin (.ctz (.v 6) (.v 4)) 0 0 = some 32 ∧
    bin (.brev (.v 6) (.v 4)) 1 0 = some 0x80000000 ∧ bin (.bswap (.v 6) (.v 4)) 0x11223344 0 = some 0x44332211 := by decide +kernel
/-- R89's example. -/
theorem test_perm : bin (.perm (.v 6) (.v 4) (.v 5)) 0x88442211 0x7810 = some 0xFF002211 := by decide +kernel
theorem test_idp4 : bin (.idp4 .i8n8 (.v 6) (.v 4) (.v 5)) 0x000000FF 0x000000FF 1 = some 0xFFFFFF02 := by decide +kernel
theorem test_icmp : cmp (.icmp ⟨.lt, false, false⟩ 1 (.v 4) (.v 5)) 0xFFFFFFFF 0 = some true ∧
    cmp (.icmp ⟨.lt, true, false⟩ 1 (.v 4) (.v 5)) 0xFFFFFFFF 0 = some false := by decide +kernel
theorem test_plop : cmp (.plop .orn 1 2 3) 0 0 = some true ∧ cmp (.plop .and 1 2 7) 0 0 = some false := by decide +kernel
theorem test_p7 : (after (.plop .and 7 2 2) (at_ (.plop .and 7 2 2))).map (fun g => (g.pred 7 0, g.preds)) = some (true, []) := by decide +kernel
theorem test_rdcnt : r0 (.rdcntPath (.v 6) (.v 4)) (at_ (.rdcntPath (.v 6) (.v 4))) 6 = some 0 ∧
    r0 (.rdcntClauses (.v 6)) (at_ (.rdcntClauses (.v 6)) fun g => { g with clauses := 5 }) 6 = some 5 ∧
    r0 (.rdcntCycle (.v 6)) { at_ (.rdcntCycle (.v 6)) with cycle := 9 } 6 = some 9 ∧
    r0 (.rdcntTime (.v 6)) { at_ (.rdcntTime (.v 6)) with ns := 8 } 6 = some 8 := by decide +kernel
theorem test_tagptr : bin64 (.tagptr (.v 6) (.v 2) (.v 4)) 0x1000000000001234 5 = some 0x5000000000001234 := by decide +kernel
theorem test_pidx : r0 (.pidx (.v 6)) (at_ (.pidx (.v 6))) 6 = some 0xFFFFFFFF := by decide +kernel

/-- Worked example of R107 and R108. -/
theorem test_ffma : binF (.ffma .rne (.v 6) (.v 4) (.v 5)) 0x3F800800 0x3F800800 0xBF801000 = some (0x33800000, 0) ∧
    binF (.fmul .rne (.v 6) (.v 4) (.v 5)) 0x3F800800 0x3F800800 = some (0x3F801000, 1) := by decide +kernel
theorem test_fadd : binF (.fadd .rne (.v 6) (.v 4) (.v 5)) 0x3F800000 0x33800000 = some (0x3F800000, 1) ∧
    binF (.fadd .rup (.v 6) (.v 4) (.v 5)) 0x3F800000 0x33800000 = some (0x3F800001, 1) := by decide +kernel
theorem test_fsub : binF (.fsub .rne (.v 6) (.v 4) (.v 5)) 0x7F800000 0x7F800000 = some (0x7FC00000, 16) := by decide +kernel
theorem test_fminmax : binF (.fmin .number (.v 6) (.v 4) (.v 5)) 0x7FC00000 0x3F800000 = some (0x3F800000, 0) ∧
    binF (.fmax .nan (.v 6) (.v 4) (.v 5)) 0x7FC00000 0x3F800000 = some (0x7FC00000, 0) := by decide +kernel
theorem test_fcmp : cmp (.fcmp ⟨.lt, false⟩ 1 (.v 4) (.v 5)) 0x3F800000 0x40000000 = some true ∧
    cmp (.fcmp ⟨.lt, true⟩ 1 (.v 4) (.v 5)) 0x7FC00000 0x40000000 = some true := by decide +kernel
theorem test_fabs : bin (.fabs (.v 6) (.v 4)) 0x80000000 0 = some 0 ∧ bin (.fneg (.v 6) (.v 4)) 0x3F800000 0 = some 0xBF800000 := by decide +kernel
theorem test_frcp : bin (.frcp (.v 6) (.v 4)) 0x40000000 0 = some 0x3F000000 ∧ binF (.frcp (.v 6) (.v 4)) 0 0 = some (0x7F800000, 8) ∧
    bin (.frsq (.v 6) (.v 4)) 0x40800000 0 = some 0x3F000000 ∧ bin (.fsqrt (.v 6) (.v 4)) 0x40800000 0 = some 0x40000000 := by decide +kernel
theorem test_fexp : bin (.fexp2 (.v 6) (.v 4)) 0x40400000 0 = some 0x41000000 ∧ bin (.flog2 (.v 6) (.v 4)) 0x41000000 0 = some 0x40400000 ∧
    bin (.ftanh (.v 6) (.v 4)) 0x7F800000 0 = some 0x3F800000 ∧ bin (.fcos (.v 6) (.v 4)) 0 0 = some 0x3F800000 := by decide +kernel
theorem test_fsin : bin (.fsin (.v 6) (.v 4)) 0x80000000 0 = some 0x80000000 := by decide +kernel
theorem test_ffrac : bin (.ffrac (.v 6) (.v 4)) 0x3FC00000 0 = some 0x3F000000 ∧ bin (.fround .rtz (.v 6) (.v 4)) 0x3FC00000 0 = some 0x3F800000 := by
  decide +kernel
theorem test_fclass : (bin (.fclass (.v 6) (.v 4)) 0x7FC00000 0).isSome = true := by decide +kernel
/-- Worked example of R118. -/
theorem test_hadd2 : binF (.hadd2 .fp16 (.v 6) (.v 4) (.v 5)) 0x7BFF3C00 0x7BFF3C00 = some (0x7C004000, 5) := by decide +kernel
theorem test_half : bin (.hmul2 .bf16 (.v 6) (.v 4) (.v 5)) 0x3F804000 0x40004000 = some 0x40004080 ∧
    bin (.hfma2 .fp16 (.v 6) (.v 4) (.v 5)) 0x3C003C00 0x40003C00 0x3C000000 = some 0x42003C00 ∧
    bin (.hmin2 .fp16 (.v 6) (.v 4) (.v 5)) 0x3C00BC00 0x40000000 = some 0x3C00BC00 ∧
    bin (.hmax2 .fp16 (.v 6) (.v 4) (.v 5)) 0x3C00BC00 0x40000000 = some 0x40000000 ∧
    bin (.fdp2 .fp16 (.v 6) (.v 4) (.v 5)) 0x3C003C00 0x40003C00 0x3F800000 = some 0x40800000 := by decide +kernel
/-- Worked examples of R120, R124 and R125. -/
theorem test_cvtf : binF (.cvtf .rne (.v 6) (.v 4) ⟨.fp32, .fp16⟩) 0x477FF000 0 = some (0x7C00, 5) ∧
    binF (.cvtf .rtz (.v 6) (.v 4) ⟨.fp32, .fp16⟩) 0x477FF000 0 = some (0x7BFF, 1) := by decide +kernel
theorem test_qcvt : binF (.qcvt .rne (.v 6) (.v 4) .lg6) 0x40400000 0 = some (0x16, 1) ∧ bin (.qcvt .rne (.v 6) (.v 4) .e4m3) 0x43960000 0 = some 0x79 := by
  decide +kernel
theorem test_dqcvt : bin (.dqcvt 0 (.v 6) (.v 4) .lg6) 0x16 0 = some 0x40350400 ∧ bin (.dqcvt 0 (.v 6) (.v 4) .e4m3) 0x79 0 = some 0x43900000 := by
  decide +kernel
theorem test_pack2 : bin (.pack2 ⟨.rne, .bf16⟩ (.v 6) (.v 4) (.v 5)) 0x3F804000 0x3F800000 = some 0x3F803F80 := by decide +kernel
theorem test_int_float : binF (.f2i ⟨.rtz, false, false⟩ (.v 6) (.v 4)) 0xC0200000 0 = some (0xFFFFFFFE, 1) ∧
    bin (.i2f ⟨.rne, true, false⟩ (.v 6) (.v 4)) 0xFFFFFFFF 0 = some 0x4F800000 := by decide +kernel

/-- R158 to R162: lanes 0 to 7 hold 3, 8, 5, 0, 7, 2, 6, 1, and p1 marks the odd values. -/
def scanState (i : Instr) : State :=
  at_ i (fun g => ((([3, 8, 5, 0, 7, 2, 6, 1] : List Nat).zipIdx.foldl (fun (g : Group) e => g.setReg 5 e.2 (BitVec.ofNat 32 e.1)) g).setPred 1 0xFF 0x95).modSplit
    0 fun p => { p with mask := 0xFF }) 0xFF
theorem test_votes : ((after (.voteBallot (.s 4) 1) (scanState (.voteBallot (.s 4) 1))).map fun g => g.scalar 4) = some 0x95 ∧
    ((after (.voteAny 2 1) (scanState (.voteAny 2 1))).map fun g => g.predMask 2) = some 0xFF ∧
    ((after (.voteAll 2 1) (scanState (.voteAll 2 1))).map fun g => g.predMask 2) = some 0 := by decide +kernel
theorem test_scan : ((after (.scan ⟨.add, false⟩ (.v 6) (.v 5)) (scanState (.scan ⟨.add, false⟩ (.v 6) (.v 5)))).map fun g =>
      (List.range 8).map fun l => (g.reg 6 l).toNat) = some [3, 11, 16, 16, 23, 25, 31, 32] ∧
    ((after (.lred .add (.s 5) (.v 5)) (scanState (.lred .add (.s 5) (.v 5)))).map fun g => g.scalar 5) = some 32 := by decide +kernel
theorem test_lanes : ((after (.shfl .xor (.v 6) (.v 5) .lit) (scanState (.shfl .xor (.v 6) (.v 5) .lit))).map fun g => (g.reg 6 0).toNat) = some 3 ∧
    ((after (.bcast (.v 6) (.v 5) .zero) (scanState (.bcast (.v 6) (.v 5) .zero))).map fun g => (g.reg 6 7).toNat) = some 3 := by decide +kernel
theorem test_splitq : ((after (.splitqCount (.s 6)) (scanState (.splitqCount (.s 6)))).map fun g => g.scalar 6) = some 1 ∧
    ((after (.splitqLive (.s 6)) (scanState (.splitqLive (.s 6)))).map fun g => g.scalar 6) = some 0xFF ∧
    ((after (.splitqLowest (.s 6)) (scanState (.splitqLowest (.s 6)))).map fun g => g.scalar 6) = some 0 := by decide +kernel

/-! ### States and operands that meet each statement's hypotheses: encoding, steps and checks -/

theorem issuer_of {s : State} (h : s.issuer.isSome = true) : ∃ g p c, s.issuer = some (g, p, c) := by
  obtain ⟨⟨g, p, c⟩, h⟩ := Option.isSome_iff_exists.mp h
  exact ⟨g, p, c, h⟩

/-- The issuing split of a state satisfies a check. -/
def onIssuer (s : State) (q : Group → Split → Clause → Bool) : Bool := s.issuer.any fun e => q e.1 e.2.1 e.2.2

theorem onIssuer_of {s : State} {q : Group → Split → Clause → Bool} (h : onIssuer s q = true) :
    ∃ g p c, s.issuer = some (g, p, c) ∧ q g p c = true := by
  unfold onIssuer at h
  cases hc : s.issuer with
  | none => simp [hc] at h
  | some e => exact ⟨e.1, e.2.1, e.2.2, rfl, by simpa [hc] using h⟩

/-- What `preIssue` decides: a fault's cause, a hold, or that the word issues. -/
def verdict (i : Instr) (s : State) : Option (Option Cause × Option Hold) :=
  s.issuer.map fun e => match preIssue i s e.1 e.2.1 e.2.2 with
    | .fault t => (some t.cause, none)
    | .hold h => (none, some h)
    | .go _ => (none, none)

theorem witness_RoundTrip : ∃ i : Instr, i.wf = true ∧ i.isInstruction = true ∧ i = .lea 15 (.s 14) (.s 0) .lit :=
  ⟨_, by decide, by decide, rfl⟩
theorem witness_ReservedWordFaults : ∃ g p c, (at_ (.reservedOpcode 0x3E000000)).issuer = some (g, p, c) := issuer_of (by decide +kernel)
theorem witness_StepRunsWord : let s := at_ .nop
    s.agenda = [] ∧ s.powered = true ∧ s.booted = true ∧ s.halted = false ∧ s.granted = true ∧ s.cur = some (7, 0) ∧
    ((s.group? 7).any fun g => (g.split? 0).any fun p => { s.clock with granted := false }.runnable g p &&
      p.clause.any fun c => decide (decode (c.words.getD c.idx 0) = .ok .nop)) = true := by decide +kernel
/-- The placed header of R28 with N - 1 = 0 and no flag, which the next step fetches. -/
def headed : State := State.reset.placeHeader 0xD0000FF7
theorem witness_StepRunsHeader_a : let s := headed
    s.agenda = [] ∧ s.powered = true ∧ s.booted = true ∧ s.halted = false ∧ s.granted = true ∧ s.cur = some (0, 0) ∧
    ((s.group? 0).any fun g => (g.split? 0).any fun p => p.clause.isNone && p.resume.isNone &&
      { s.clock with granted := false }.runnable g p && { s.clock with granted := false }.rival?.isNone &&
      { s.clock with granted := false }.spent?.isNone && (g.engineFaultFor p).isNone &&
      match fetchWords { s.clock with granted := false } g.agent p.pc.toNat 1 with
      | .ok (_, [w]) => (decodeHeader w).isSome
      | _ => false) = true := by decide +kernel
theorem witness_StepRunsHeader_b : (headed.headerIssuer.any fun e => (e.1.engineFaultFor e.2).isNone && decide (e.2.wdog ≠ 0) && e.2.reissue.isNone &&
      (match fetchWords headed e.1.agent ((e.2.pc.toNat + 4) % 2 ^ 64) 1 with
      | .ok (t, ws) => !(scanLong t e.1 e.2 (Header.clause ⟨0, 0, 15, 15, false, 7⟩ e.1 e.2 ws) ws.length) && !(e.1.waits 0)
      | .error _ => false)) = true ∧ (Instr.clauseHeader ⟨0, 0, 15, 15, false, 7⟩).wf = true := by decide +kernel
theorem witness_StepRunsAgenda : ∃ s : State, s.agenda = [{ event := .coldReset }] := ⟨{ State.reset with agenda := [{ event := .coldReset }] }, rfl⟩
theorem witness_Quiet : Quiet State.reset ∧ Quiet (at_ .nop) := ⟨rfl, rfl⟩
theorem witness_Canonical : Canonical State.reset ∧ TablesWhole State.reset := by unfold Canonical TablesWhole; decide +kernel
theorem witness_step : Canonical (at_ .nop) ∧ TablesWhole (at_ .nop) := by unfold Canonical TablesWhole; decide +kernel
theorem witness_step_next : (match step (at_ .nop) with | .next _ => true | _ => false) = true := by decide +kernel

/-- A word that fails each check of R41, and no earlier one. -/
theorem witness_CheckOrder :
    verdict (.mov .w32 .lane .zero) (at_ (.mov .w32 .lane .zero)) = some (some .illegalOperand, none) ∧
    verdict (.srd (.v 0) 0x0A) (at_ (.srd (.v 0) 0x0A)) = some (some .illegalOperand, none) ∧
    verdict .rft (at_ .rft) = some (some .illegalForm, none) ∧
    verdict (.mov .w32 (.v 95) .zero) (at_ (.mov .w32 (.v 95) .zero) fun g => { g with regCount := 95 }) = some (some .regRange, none) ∧
    verdict (.mov .w32 (.v 0) (.q 3)) (at_ (.mov .w32 (.v 0) (.q 3))) = some (some .queueUnbound, none) ∧
    verdict (.mov .w32 (.v 95) .zero) (at_ (.mov .w32 (.v 95) .zero)) = some (none, none) := by decide +kernel

theorem witness_PortlessIssue :
    onIssuer (at_ (.cpyl (.s 8)) (busy .cpy false 62)) (fun g p c => (Instr.cpyl (.s 8)).wf && (sysFault (.cpyl (.s 8)) g p).isNone &&
      !(formFault (.cpyl (.s 8)) (at_ (.cpyl (.s 8)) (busy .cpy false 62)) g p c) && !(regRange (.cpyl (.s 8)) p.wb g.regCount) &&
      (srcPorts (.cpyl (.s 8))).isEmpty && p.taken.isEmpty && !(g.lateFull p) &&
      (at_ (.cpyl (.s 8)) (busy .cpy false 62)).released g p (.cpyl (.s 8)) && (dstPort (.cpyl (.s 8))).isNone && decide (g.pathCount .cpy = 62) && decide (g.longCount < 64)) = true ∧
    verdict (.cpyl (.s 8)) (at_ (.cpyl (.s 8)) (busy .cpy false 63)) = some (none, some .path) ∧
    verdict (.cpyl (.s 8)) (at_ (.cpyl (.s 8)) (busy .mat true 64)) = some (none, some .work) ∧
    verdict (.mov .w32 (.v 0) (.q 0)) (at_ (.mov .w32 (.v 0) (.q 0)) (port .gather 0)) = some (none, some .port) ∧
    verdict (.mov .w32 (.q 0) .zero) (at_ (.mov .w32 (.q 0) .zero) (port .cpycmd 16)) = some (none, some .port) := by decide +kernel
/-- The group of a state satisfies a check. -/
def inGroup (s : State) (q : Group → Bool) : Bool := (s.group? 7).any q
/-- A late result of the split stands at a full port. -/
def stuckLate (g : Group) : Group :=
  { port .mrow 0 g with ports := setAt (port .mrow 0 g).ports 0 { code := some .cpycmd, entries := List.replicate 16 { words := [], mask := 0 } },
                        flights := [{ id := 0, split := 0, mask := 1, flag := some 3, path := none, stuck := true, work := .results [] (some (0, { words := [], mask := 1 })) none }], nextFlight := 1 }
/-- A write of the split to a key is issued and not performed. -/
def writeLeft (q : Path) (k : Nat) (g : Group) : Group :=
  { g with flights := [{ id := 0, split := 0, mask := 1, lanes := 0xFFFFFFFF, flag := none, path := some q, work := .performed,
                         writes := [{ lane := 0, key := k, bytes := [1, 2, 3, 4] }] }], nextFlight := 1 }
/-- A release covers it. -/
def afterFence (g : Group) : Group :=
  { writeLeft .scr 0x100 g with orders := [{ at_ := 1, lanes := 0xFFFFFFFF, kind := .rel }] }
theorem witness_PortlessIssue_holds :
    onIssuer (at_ (.mov .w32 (.v 0) .zero) stuckLate) (fun g p _ => g.lateFull p) = true ∧
    verdict (.mov .w32 (.v 0) .zero) (at_ (.mov .w32 (.v 0) .zero) stuckLate) = some (none, some .port) ∧
    onIssuer (at_ (.sts .n8 (.v 0) .zero .zero) afterFence) (fun g p _ => !(at_ .nop).released g p (.sts .n8 (.v 0) .zero .zero) && !g.lateFull p) = true ∧
    verdict (.sts .n8 (.v 0) .zero .zero) (at_ (.sts .n8 (.v 0) .zero .zero) afterFence) = some (none, some .path) ∧
    onIssuer (at_ (.bar 0) (writeLeft .scr 0x100)) (fun g p _ => g.pendingFor p.mask && isRendezvous (.bar 0)) = true ∧
    verdict (.bar 0) (at_ (.bar 0) (writeLeft .scr 0x100)) = some (none, some .path) ∧
    verdict (.cpyl (.s 8)) (at_ (.cpyl (.s 8)) (busy .cpy false 63) 0) = some (none, none) := by decide +kernel

theorem witness_VectorOperandRange :
    onIssuer (at_ (.mov .w64 (.v 94) .zero) fun g => { g with regCount := 95 }) (fun g p c =>
      (Instr.mov .w64 (.v 94) .zero).wf && (sysFault (.mov .w64 (.v 94) .zero) g p).isNone &&
      !(formFault (.mov .w64 (.v 94) .zero) (at_ (.mov .w64 (.v 94) .zero)) g p c) && decide (g.regCount < p.wb + 94 + 2)) = true ∧
    ((Kind.dst64, Operand.v 94) ∈ (Instr.mov .w64 (.v 94) .zero).fields) ∧ ((Kind.dst64, Operand.v 3) ∈ (Instr.mov .w64 (.v 3) .zero).fields) ∧
    (at_ (.mov .w64 (.v 3) .zero)).issuer.isSome = true ∧
    (∃ x, Issues (.mov .w32 (.v 95) (.v 95)) (at_ (.mov .w32 (.v 95) (.v 95))) x ∧ decide (31 ∈ x.activeLanes) = true) :=
  ⟨by decide +kernel, by decide, by decide, by decide +kernel, wit (by decide +kernel)⟩

/-! ### Exceptions -/

/-- A fault pending in the split of a group. -/
def pending (t : Trap) (g : Group) : Group := g.modSplit 0 fun p => { p with pend := some t }
/-- The same, with a load of the split outstanding. -/
def waiting (t : Trap) (g : Group) : Group :=
  { pending t g with flights := [{ id := 0, split := 0, mask := 0xFFFFFFFF, flag := some 3, path := some .glb, work := .performed }], nextFlight := 1 }
/-- A machine whose context 0 has a handler at 0x8000. -/
def handled (s : State) : State := s.modContext 0 fun c => { c with tvec := 0x8001 }

theorem witness_FaultRoads :
    (((at_ .nop (pending (trap .align))).group? 7).any fun g => (g.splits.head?.any fun p => decide (g.splits = [p]) && decide (p.pend = some (trap .align)) &&
      !p.dead && !p.escalated && g.handler.isNone && !p.handler && decide ((trap .align).cause.cls = .h) &&
      !((at_ .nop (pending (trap .align))).stoppingGroup g) && !((at_ .nop (pending (trap .align))).awaits g p (trap .align)))) = true ∧
    (((handled (at_ .nop (waiting (trap .align)))).group? 7).any fun g => g.splits.head?.any fun p =>
      (handled (at_ .nop (waiting (trap .align)))).awaits g p (trap .align)) = true ∧
    bit ((handled (at_ .nop)).context 0).tvec.toNat 0 = true ∧ bit ((at_ .nop).context 0).tvec.toNat 0 = false ∧
    (trap .pageNotPresent).cause.cls = .p ∧
    (((at_ .nop fun g => (pending (trap .align) g).modSplit 0 fun p => { p with handler := true }).group? 7).any fun g =>
      g.splits.head?.any fun p => p.handler && p.pend.isSome && !p.dead && !p.escalated) = true ∧
    ({ at_ .nop with groups := [{ gr (sp []) with splits := [], retired := 0xFFFFFFFF, efaults := [{ issue := 0, mask := 1, path := 5, trap := trap .pageNotPresent }] }] }).orphan?.isSome = true := by
  decide +kernel
/-- A second split of the group with a pending fault, raised earlier than that of split 0. -/
def twoFaults (g : Group) : Group :=
  let g := g.modSplit 0 fun p => { p with mask := 0xFFFF, pend := some (trap .align), pendSeq := 4 }
  { g with splits := g.splits ++ [{ id := 1, mask := 0xFFFF0000, pc := 0x1000, wdog := 5, pend := some (trap .pageNotPresent), pendSeq := 3 }] }
/-- The oldest pending fault of a state's group satisfies a check, and none of them is fatal at once. -/
def oldest (s : State) (q : Group → Split → Trap → Bool) : Bool :=
  inGroup s fun g => g.fatalPend?.isNone && g.oldestPend?.any fun e => (g.split? e.1.id).isSome && q g e.1 e.2
/-- The machine with two splits that have faults pending. -/
def faulted (f : Group → Group := id) : State := at_ .nop fun g => f (twoFaults g)
theorem witness_FaultRoads_splits :
    (oldest faulted fun g p t => decide (p.id = 1) && decide (t.cause.cls = .p) && g.handler.isNone && !(faulted.stoppingGroup g) && !(faulted.awaits g p t)) = true ∧
    (oldest (faulted fun g => g.modSplit 1 fun p => { p with pend := some (trap .align) }) fun g p t => decide (p.id = 1) && decide (t.cause.cls = .h) && !(g.unhardened p)) = true ∧
    (oldest (handled faulted) fun _ _ t => decide (t.cause.cls = .p)) = true ∧
    (oldest (faulted fun g => { g with handler := some { lanes := 6, held := 1, at_ := 0x1000 } }) fun g _ _ => g.handler.isSome) = true ∧
    (oldest (faulted.modWorkgroup 1 fun w => { w with stopping := true }) fun g _ _ => (faulted.modWorkgroup 1 fun w => { w with stopping := true }).stoppingGroup g) = true ∧
    inGroup (faulted fun g => g.modSplit 0 fun p => { p with handler := true }) (fun g => g.fatalPend?.any fun e => e.1.handler) = true ∧
    inGroup (faulted fun g => g.modSplit 0 fun p => { p with pend := some (trap .uncorrectable) }) (fun g =>
      g.fatalPend?.any fun e => decide (e.2.cause.cls = .f) && g.splits.contains e.1) = true := by decide +kernel
theorem witness_HandlerEntry : (((at_ .nop).group? 7).any fun g => (g.split? 0).isSome && decide (512 ≤ g.sliceSize)) = true := by decide +kernel
/-- Handler entry at the word at 0x1004 of a load of v0 that faulted ALIGN in lanes 1 and 2. -/
def entered : State := (handled (at_ .nop fun g => g.setReg 3 2 77)).raise 7 0 { trap .align with tval := 6, byLanes := true }
theorem test_handler_entry : ((entered.group? 7).map fun g => (g.tpc, g.causeReg, g.tval)) = some (0x1004, 7, 6) := by decide +kernel
theorem test_handler_lanes : ((entered.group? 7).map fun g => (g.splits.map fun p => (p.mask, p.pc, p.handler), g.handler.map fun h => h.held)) =
    some ([(6, 0x8000, true)], some 0xFFFFFFF9) := by decide +kernel
theorem test_trap_frame : entered.readMem (Space.key (.slice 7 2) (128 + 12)) 4 = 77 := by decide +kernel
/-- A group in its handler, at an RFT. -/
def inHandler (g : Group) : Group :=
  { g with handler := some { lanes := 6, held := 1, at_ := 0x1000 }, tpc := 0x1004, tstate := 0x0000000000000007 }.modSplit 0 fun p =>
    { p with mask := 6, handler := true }
theorem witness_ReturnFromHandler : ∃ x, Issues .rft (at_ .rft inHandler 6) x ∧
    (x.g.handler.isSome && !(x.g.flights.any fun f => f.handlerMode && f.flag.isSome) && decide (x.s = at_ .rft inHandler 6) && x.popped.isEmpty) = true :=
  wit (by decide +kernel)
theorem test_rft : (after .rft (at_ .rft inHandler 6)).map (fun g => (g.handler.isNone, g.splits.map fun p => (p.mask, p.pc, p.handler, p.resume.isSome))) =
    some (true, [(7, 0x1004, false, true)]) := by decide +kernel

/-! ### Results -/

/-- Each of these instructions issues. -/
def allIssue (is : List Instr) : Bool := is.all fun i => (ctxOf i (at_ i)).isSome
theorem allIssue_of {is : List Instr} (h : allIssue is = true) : ∀ i ∈ is, ∃ x, Issues i (at_ i) x := by
  intro i hi
  obtain ⟨x, hx⟩ := Option.isSome_iff_exists.mp (List.all_eq_true.mp h i hi)
  exact ⟨x, ctxOf_issues hx⟩

def integerForms : List Instr :=
  let d : Operand := .v 6
  let a : Operand := .v 4
  let b : Operand := .v 2
  [.mov .w32 d a, .sel ⟨1, true⟩ d a b, .iadd .i32sat d a b, .isub .n64 d a b, .imad .i64 d a b, .imul .n64 d a b, .imulh .i64 d a b, .imin .i32 d a b,
   .imax .n32 (.s 3) .zero .lit, .lea 15 d a b, .land .w64 d a b, .lor .w32 (.s 2) (.s 1) .zero, .lxor .w32 d a b, .landn .w32 d a b, .shl .w64 d a b,
   .shr .w32 d a b, .sar .w64 d a b, .rotl .w32 d a b, .bfe .sgn d a b, .bfi d a b, .popc d a, .clz d a, .ctz d a, .brev d a, .bswap d a, .perm d a b,
   .idp4 .n8i8 d a b, .rdcntCycle d, .rdcntTime (.s 2), .rdcntClauses d, .rdcntPath d a, .tagptr d a b, .lvl 7 d, .lvlExt 0 (.s 0), .shfl .down d a b,
   .bcast d a b, .pidx .zero]
theorem witness_IntegerResults : (∀ i ∈ integerForms, ∃ x, Issues i (at_ i) x) ∧
    ∀ i ∈ integerForms, ((ctxOf i (at_ i)).bind fun x => intResult i x).isSome = true := ⟨allIssue_of (by decide +kernel), by decide +kernel⟩
def floatForms : List Instr :=
  let d : Operand := .v 6
  let a : Operand := .v 4
  let b : Operand := .v 2
  [.fadd .rup d a b, .fsub .rdn d a b, .fmul .rtz d a b, .ffma .rne d a b, .fmin .nan d a b, .fmax .number d a b, .fclass d a, .fabs d a, .fneg (.s 3) (.s 2),
   .frcp d a, .frsq d a, .fsqrt d a, .fexp2 d a, .flog2 d a, .fsin d a, .fcos d a, .ftanh d a, .ffrac d a, .fround .rup d a, .hadd2 .bf16 d a b,
   .hmul2 .fp16 d a b, .hfma2 .bf16 d a b, .hmin2 .fp16 d a b, .hmax2 .bf16 d a b, .fdp2 .bf16 d a b, .cvtf .rdn d a ⟨.bf16, .fp32⟩, .f2i ⟨.rup, true, true⟩ d a,
   .i2f ⟨.rdn, false, true⟩ d a, .dqcvt 3 d a .int8]
theorem witness_FloatResults : (∀ i ∈ floatForms, ∃ x, Issues i (at_ i) x) ∧
    (∀ i ∈ floatForms, ((ctxOf i (at_ i)).bind fun x => floatResult i x).isSome = true) ∧
    (∀ i ∈ [Instr.pack2 ⟨.rsr, .fp16⟩ (.v 6) (.v 4) (.v 2), .qcvt .rsr (.v 6) (.v 4) .e2m1],
      ((ctxOf i (at_ i)).bind fun x => quantResult i x).isSome = true) := ⟨allIssue_of (by decide +kernel), by decide +kernel, by decide +kernel⟩
theorem witness_LeaResult : ∃ x, Issues (.lea 15 (.v 94) (.v 0) .lit) (at_ (.lea 15 (.v 94) (.v 0) .lit)) x ∧ x.anyActive = true := wit (by decide +kernel)
theorem witness_PredicateResults : (∀ i ∈ [Instr.icmp ⟨.le, true, true⟩ 6 (.v 2) (.v 4), .fcmp ⟨.eq, true⟩ 7 (.v 2) .lit, .plop .copy 0 1 7, .voteAll 0 7, .voteAny 6 0],
      ∃ x, Issues i (at_ i) x) ∧ inMask 0x80000000 31 = true ∧ inMask 0x80000000 0 = false := ⟨allIssue_of (by decide +kernel), by decide, by decide⟩
theorem witness_ReductionResults : (∀ i ∈ [Instr.voteBallot (.s 0) 7, .splitqLive .zero, .splitqLowest (.s 15), .splitqCount (.s 0), .lred .or (.s 3) (.v 95),
      .scan ⟨.fadd, true⟩ (.v 0) (.v 0)], ∃ x, Issues i (at_ i) x) ∧ ([(0, 3), (1, 8)] : List (Nat × Nat))[1]? = some (1, 8) :=
  ⟨allIssue_of (by decide +kernel), rfl⟩
theorem witness_DivisionsWait : ∀ i ∈ [Instr.idiv .i32 (.v 6) (.v 4) (.v 2), .irem .n64 (.v 6) (.v 4) (.v 2), .fdiv .rup (.v 6) (.v 4) (.v 2)],
    ∃ x, Issues i (at_ i) x ∧ acts i x.c = true := by
  intro i hi
  have h : (ctxOf i (at_ i)).any (fun x => acts i x.c) = true :=
    (by decide +kernel : ∀ i ∈ [Instr.idiv .i32 (.v 6) (.v 4) (.v 2), .irem .n64 (.v 6) (.v 4) (.v 2), .fdiv .rup (.v 6) (.v 4) (.v 2)],
      (ctxOf i (at_ i)).any (fun x => acts i x.c) = true) i hi
  exact wit h
/-- Worked example of R72: the results that wait for the flag. -/
def late (i : Instr) (a b : Word) : Option Work := (run2 i a b).bind fun g => g.flights.head?.map fun f => f.work
theorem test_divisions : (late (.idiv .i32 (.v 6) (.v 4) (.v 5)) 0xFFFFFFF9 2).map (fun w => match w with
      | .results (.vec 6 0 v :: _) _ _ => v
      | _ => 0) = some 0xFFFFFFFD ∧
    (late (.irem .i32 (.v 6) (.v 4) (.v 5)) 0xFFFFFFF9 2).map (fun w => match w with
      | .results (.vec 6 0 v :: _) _ _ => v
      | _ => 0) = some 0xFFFFFFFF ∧
    (late (.idiv .n32 (.v 6) (.v 4) (.v 5)) 5 0).map (fun w => match w with
      | .results (.vec 6 0 v :: _) _ _ => v
      | _ => 0) = some 0xFFFFFFFF := by decide +kernel

/-! ### Completions and control transfers -/

/-- A group with one outstanding load of v6 in lane 31 on path GLB and flag 3. -/
def loading (g : Group) : Group :=
  { g with flights := [{ id := 0, split := 0, mask := 0x80000000, flag := some 3, path := some .glb, work := .results [.vec 6 31 9] none none }],
           nextFlight := 1 }
/-- The same, with a read that is not fixed: the word at key 0x100. -/
def lately (g : Group) : Group :=
  { loading g with flights := (loading g).flights.map fun f => { f with late := [{ lane := 31, key := 0x100, width := .n32, dests := [.vec 6 31 0] }] } }
theorem witness_LongLatencyCompletes :
    (((at_ .nop loading).group? 7).any fun g => (g.flight? 0).any fun f => f.flag.isSome && !f.done && !(g.shadowed f) && g.pushReady f none && f.fault.isNone &&
      !((at_ .nop loading).unperformed g f) && f.late.isEmpty && decide (f.work = .results [.vec 6 31 9] none none)) = true ∧
    (((at_ .nop lately).group? 7).any fun g => (g.flight? 0).any fun f => !f.late.isEmpty && !(g.shadowed f) && g.pushReady f none &&
      !((at_ .nop lately).unperformed g f)) = true ∧
    (((at_ .nop fun g => { loading g with flights := [{ id := 0, split := 0, mask := 1, flag := some 0, path := none, work := .results [.scal 15 9] none none }] }).group? 7).any
      fun g => (g.flight? 0).any fun f => decide (f.work = .results [.scal 15 9] none none) && !(g.shadowed f)) = true ∧
    (((at_ .nop fun g => { loading g with flights := [{ id := 0, split := 0, mask := 1, flag := some 11, path := none, work := .results [] none (some (7, {})) }] }).group? 7).any
      fun g => (g.flight? 0).any fun f => decide (f.work = .results [] none (some (7, {}))) && decide (7 < g.bt.length)) = true := by decide +kernel
theorem test_load_completes : (after (.longLatencyComplete 7 0) (at_ .nop loading)).map (fun g => ((g.reg 6 31).toNat, g.flagBusy 3)) = some (9, false) := by
  decide +kernel
/-- Die 0's group counts the acknowledgements of its line 0x100. -/
def counted : AckCount := { die := 0, line := 0x100, expect := none, got := 0, writer := 0 }
theorem witness_PathCompletes : (((at_ .nop (busy .rnd false 2)).group? 7).any fun g =>
    (g.flights.find? fun e => e.path = some .rnd).any fun f => decide (f.work = .performed) && f.flag.isNone && decide (g.flight? f.id = some f) &&
      !((at_ .nop (busy .rnd false 2)).unperformed g f)) = true ∧
    (((at_ .nop fun g => { busy .scr false 1 g with flights := (busy .scr false 1 g).flights.map fun f =>
      { f with writes := [{ lane := 0, key := 0x100, bytes := [1] }] } }).group? 7).any fun g =>
        (g.flights.find? fun e => e.path = some .scr).any fun f => !f.writes.isEmpty && !((at_ .nop).awayFrom g.id f.id) && !((at_ .nop).counting g f)) = true ∧
    (((at_ .nop fun g => { busy .glb false 1 g with flights := (busy .glb false 1 g).flights.map fun f => { f with lines := [0x100] } }).group? 7).any fun g =>
        (g.flights.find? fun e => e.path = some .glb).any fun f => f.writes.isEmpty &&
          { at_ .nop with acks := [counted] }.unperformed g f) = true := by
  decide +kernel
theorem test_path_completes : (after (.pathCompletion 7 (Path.code .rnd)) (at_ .nop (busy .rnd false 1))).map (fun g => g.pathCount .rnd) = some 0 := by
  decide +kernel
theorem witness_LongLatencyCompletes_late :
    (inGroup (at_ .nop lately) fun g => (g.flight? 0).any fun f => f.late.all fun r => r.asked.isNone && !(g.isBehind f (r.key, loadBytes r.width))) = true ∧
    (let s := { at_ .nop (fun g => { loading g with flights := (loading g).flights.map fun f => { f with lines := [0x100] } }) with acks := [counted] }
     inGroup s fun g => (g.flight? 0).any fun f => !f.loose && s.unperformed g f) = true := by decide +kernel
theorem witness_PathCompletes_write :
    (let s := at_ .nop (writeLeft .scr 0x100)
     !s.loose.ahead && inGroup s fun g => (g.flights.find? fun e => e.path = some .scr).any fun f => decide (g.flight? f.id = some f) && f.atoms.isEmpty && f.late.isEmpty &&
       !(s.awayFrom g.id f.id) && !(s.counting g f) && f.writes.all fun w => w.asked.isNone && w.home.isNone && !(g.isBehind f (w.key, w.bytes.length))) = true := by decide +kernel

theorem witness_Attachment : (∃ c : Clause, c.att = false ∧ c.setx = 11) ∧ (∃ c : Clause, c.att = true ∧ c.sety = 11) ∧
    (∃ c : Clause, c.att = true ∧ c.sety = 15 ∧ c.setx = 0) ∧
    (∃ x, Issues (.ldl .n32 (.v 0) .zero .zero) (at_ (.ldl .n32 (.v 0) .zero .zero)) x ∧ decide (x.g.split? x.p.id = some x.p) = true) :=
  ⟨⟨{ (sp []).clause.getD ⟨0, 0, [], 0, 0, 0, 0, false, false⟩ with setx := 11 }, by decide, rfl⟩, ⟨⟨0, 0, [], 0, 0, 0, 11, true, false⟩, rfl, rfl⟩,
   ⟨⟨0, 0, [], 0, 0, 0, 15, true, false⟩, rfl, rfl, rfl⟩, wit (by decide +kernel)⟩

/-- p1 is 1 in these lanes. -/
def p1 (m : LaneMask) (g : Group) : Group := g.setPred 1 m m
/-- Every lane has called that often. -/
def called (n : Nat) (g : Group) : Group := { g with calls := List.replicate 32 (List.replicate n 0x2000) }

theorem witness_BranchAndCall :
    (∃ x, Issues (.br ⟨1, false⟩ 4) (at_ (.br ⟨1, false⟩ 4)) x ∧ decide (x.taken ⟨1, false⟩ = 0) = true) ∧
    (∃ x, Issues (.br ⟨7, false⟩ 4) (at_ (.br ⟨7, false⟩ 4)) x ∧ (decide (x.taken ⟨7, false⟩ = x.p.mask) && decide (x.p.mask ≠ 0)) = true) ∧
    (∃ x, Issues (.call ⟨1, false⟩ 4) (at_ (.call ⟨1, false⟩ 4)) x ∧ decide (x.taken ⟨1, false⟩ = 0) = true) ∧
    (∃ x, Issues (.call ⟨7, false⟩ 4) (at_ (.call ⟨7, false⟩ 4) (called 39)) x ∧
      (decide (x.taken ⟨7, false⟩ = x.p.mask) && (List.range 32).all fun l => decide ((x.g.calls.getD l []).length < 40)) = true) ∧
    (∃ x, Issues (.call ⟨7, false⟩ 4) (at_ (.call ⟨7, false⟩ 4) (called 40)) x ∧
      (inMask (x.taken ⟨7, false⟩) 31 && decide (40 ≤ (x.g.calls.getD 31 []).length)) = true) := by
  refine ⟨wit ?_, wit ?_, wit ?_, wit ?_, wit ?_⟩ <;> decide +kernel
/-- A divergence of a BR and of a CALL: lane 31 goes, the others go on; and one with no record left. -/
theorem witness_BranchAndCall_diverge :
    (∃ x, Issues (.br ⟨1, false⟩ 4) (at_ (.br ⟨1, false⟩ 4) (p1 0x80000000)) x ∧
      (decide (x.taken ⟨1, false⟩ = 0x80000000) && decide (x.taken ⟨1, false⟩ ≠ x.p.mask) && decide (x.taken ⟨1, false⟩ &&& ~~~x.p.mask = 0) && x.p.join.isNone &&
        x.p.inner.isNone && decide (x.g.splits.length ≤ 7) && decide (1 ≤ x.s.tableFree x.g) && decide (x.g.freeRecords = 0 :: x.g.freeRecords.tail) &&
        decide (x.g.joins = []) && x.g.splits.all fun p => decide (p.id < x.g.nextSplit)) = true) ∧
    (∃ x, Issues (.call ⟨1, false⟩ 4) (at_ (.call ⟨1, false⟩ 4) (p1 1)) x ∧ (decide (x.taken ⟨1, false⟩ = 1) && decide ((x.g.calls.getD 0 []).length < 40)) = true) ∧
    (∃ x, Issues (.br ⟨1, false⟩ 4) (at_ (.br ⟨1, false⟩ 4) fun g => { p1 1 g with joins := (List.range 256).map fun n =>
        { num := n, joinPc := none, expected := 1, arrived := 0, outer := none, savedWb := 0, defer := none } }) x ∧
      (decide (x.taken ⟨1, false⟩ ≠ 0) && decide (x.taken ⟨1, false⟩ ≠ x.p.mask) && decide (x.g.freeRecords = [])) = true) := by
  refine ⟨wit ?_, wit ?_, wit ?_⟩ <;> decide +kernel
/-- R129: BR p1 with p1 = 1 in lane 0 from the header at 0x1000, offset 4 words. -/
theorem test_diverge : (after (.br ⟨1, false⟩ 4) (at_ (.br ⟨1, false⟩ 4) (p1 1))).map (fun g => (g.splits.map fun p => (p.mask, p.pc), g.joins.map fun r => r.expected)) =
    some ([(1, 0x1010), (0xFFFFFFFE, 0x1008)], [0xFFFFFFFF]) := by decide +kernel

/-- v4:v5 holds an address in every lane. -/
def pair4 (a : DWord) (g : Group) : Group :=
  (List.range 32).foldl (fun g l => (g.setReg 4 l (lowWord a)).setReg 5 l (highWord a)) g
theorem witness_JumpAndReturn :
    (∃ x, Issues (.jmpr ⟨1, false⟩ (.v 4)) (at_ (.jmpr ⟨1, false⟩ (.v 4))) x ∧ (decide (x.taken ⟨1, false⟩ = 0) && decide (x.p.mask ≠ 0)) = true) ∧
    (∃ x, Issues (.jmpr ⟨7, false⟩ (.v 4)) (at_ (.jmpr ⟨7, false⟩ (.v 4)) (pair4 0x2000)) x ∧
      (decide (x.taken ⟨7, false⟩ = x.p.mask) && (lanesOf x.p.mask).all fun l => decide (x.src64 (.v 4) l = 0x2000)) = true) ∧
    (∃ x, Issues (.jmpr ⟨7, false⟩ (.v 4)) (at_ (.jmpr ⟨7, false⟩ (.v 4)) (pair4 0x2002)) x ∧
      ((lanesOf (x.taken ⟨7, false⟩)).any fun l => decide ((x.src64 (.v 4) l).toNat % 4 ≠ 0)) = true) ∧
    (∃ x, Issues (.ret ⟨1, false⟩) (at_ (.ret ⟨1, false⟩)) x ∧ decide (x.taken ⟨1, false⟩ = 0) = true) ∧
    (∃ x, Issues (.ret ⟨7, false⟩) (at_ (.ret ⟨7, false⟩) (called 1)) x ∧
      (decide (x.taken ⟨7, false⟩ = x.p.mask) && x.g.region.isNone && (lanesOf x.p.mask).all fun l => decide ((x.g.calls.getD l []).head? = some 0x2000)) = true) ∧
    (∃ x, Issues (.ret ⟨7, false⟩) (at_ (.ret ⟨7, false⟩)) x ∧ ((lanesOf (x.taken ⟨7, false⟩)).contains 31 && decide (x.g.calls.getD 31 [] = [])) = true) := by
  refine ⟨wit ?_, wit ?_, wit ?_, wit ?_, wit ?_, wit ?_⟩ <;> decide +kernel
theorem test_jump : (after (.jmpr ⟨7, false⟩ (.v 4)) (at_ (.jmpr ⟨7, false⟩ (.v 4)) (pair4 0x2000))).map (fun g => g.splits.map fun p => p.pc) = some [0x2000] ∧
    (after (.ret ⟨7, false⟩) (at_ (.ret ⟨7, false⟩) (called 1))).map (fun g => (g.splits.map fun p => p.pc, g.calls.getD 3 [])) = some ([0x2000], []) ∧
    faults (.ret ⟨7, false⟩) (at_ (.ret ⟨7, false⟩)) = some .illegalForm := by decide +kernel
theorem witness_ExitRetires :
    (∃ x, Issues (.exit ⟨1, false⟩) (at_ (.exit ⟨1, false⟩)) x ∧ decide (x.taken ⟨1, false⟩ = 0) = true) ∧
    (∃ x, Issues (.exit ⟨1, false⟩) (at_ (.exit ⟨1, false⟩) (p1 1)) x ∧ (decide (x.taken ⟨1, false⟩ ≠ 0) && x.g.region.isNone) = true) ∧
    (∃ x, Issues (.exit ⟨7, false⟩) (at_ (.exit ⟨7, false⟩)) x ∧ (decide (x.taken ⟨7, false⟩ = x.p.mask) && decide (x.p.mask ≠ 0) && decide (x.g.joins = [])) = true) := by
  refine ⟨wit ?_, wit ?_, wit ?_⟩ <;> decide +kernel
theorem test_exit : (after (.exit ⟨1, false⟩) (at_ (.exit ⟨1, false⟩) (p1 1))).map (fun g => (g.splits.map fun p => (p.mask, p.pc), g.retired)) =
    some ([(0xFFFFFFFE, 0x1008)], 1) := by decide +kernel
/-- The split has this pending rejoin address. -/
def joinsAt (a : DWord) (g : Group) : Group := g.modSplit 0 fun p => { p with join := some a }
/-- Eight live splits. -/
def crowded (g : Group) : Group :=
  { g with splits := g.splits ++ (List.range 7).map fun k => { id := k + 1, mask := 0, pc := 0x1000, wdog := 5 }, nextSplit := 8 }
/-- Records 0 to n - 1 are in use. -/
def recorded (n : Nat) (g : Group) : Group :=
  { g with joins := (List.range n).map fun k => { num := k, joinPc := none, expected := 1, arrived := 0, outer := none, savedWb := 0, defer := none } }
/-- A BR diverges: what its statement asks for. -/
def diverges (f : Group → Group) (q : Ctx → Bool) : Bool :=
  go (.br ⟨1, false⟩ 4) (at_ (.br ⟨1, false⟩ 4) fun g => f (p1 1 g)) fun x =>
    decide (x.taken ⟨1, false⟩ = 1) && decide (x.taken ⟨1, false⟩ &&& ~~~x.p.mask = 0) && x.p.inner.isNone && x.p.join.all (fun a => (x.g.recordOffset a).isSome) &&
    x.g.joins.all (fun r => r.defer.isSome || decide (r.arrived ≠ r.expected)) && x.g.splits.all (fun p => decide (p.id < x.g.nextSplit)) && q x
theorem witness_BranchAndCall_join :
    (diverges (joinsAt 0x1010) fun x => decide (x.p.join = some (x.branchTarget 4)) && !x.g.freeRecords.isEmpty) = true ∧
    (diverges (joinsAt 0x1008) fun x => decide (x.p.join = some x.c.next) && decide (x.p.join ≠ some (x.branchTarget 4))) = true ∧
    (diverges crowded fun x => decide (8 ≤ x.g.splits.length) && decide (2 ≤ x.g.freeRecords.length) && (x.g.recordOffset x.c.next).isSome) = true ∧
    (go (.call ⟨1, false⟩ 4) (at_ (.call ⟨1, false⟩ 4) fun g => joinsAt 0x1010 (p1 1 g)) fun x => decide ((x.g.calls.getD 0 []).length < 40) && !x.g.freeRecords.isEmpty) = true ∧
    (go (.br ⟨1, false⟩ 4) (at_ (.br ⟨1, false⟩ 4) fun g => crowded (recorded 255 (p1 1 g))) fun x =>
      decide (x.taken ⟨1, false⟩ ≠ 0) && decide (x.g.freeRecords = [255]) && decide (8 ≤ x.g.splits.length)) = true := by decide +kernel
/-- The split is in a versioned region of this call depth. -/
def opening (depth : Nat) (g : Group) : Group :=
  { g with region := some { first := 0, count := 0, header := 0x1000, lanes := 0xFFFFFFFF, wb := 0, join := none, regs := [], preds := [],
                            depths := List.replicate 32 depth } }.modSplit 0 fun p => { p with opener := true }
/-- Two targets, and lanes that are not taken: lane 0 goes to 0x2000, lane 1 to 0x3000. -/
def twoTargets (g : Group) : Group := (p1 3 (pair4 0x2000 g)).setReg 4 1 0x3000
/-- The same two return addresses. -/
def twoReturns (g : Group) : Group := { p1 3 g with calls := [0x2000] :: [0x3000] :: List.replicate 30 [] }
/-- What a divergence of JMPR and RET asks for. -/
def parting (x : Ctx) (f : Nat → DWord) : Bool :=
  let rest := x.p.mask &&& ~~~(x.taken ⟨1, false⟩)
  let parts := (distinctTargets ((lanesOf (x.taken ⟨1, false⟩)).map fun l => (l, f l))).length + (if rest = 0 then 0 else 1)
  decide (x.taken ⟨1, false⟩ = 3) && decide (rest ≠ 0) && decide (parts = 3) && decide (parts + x.g.splits.length ≤ 9) && decide (parts ≤ x.s.tableFree x.g + 1) &&
    x.p.join.isNone && x.p.inner.isNone && !x.g.freeRecords.isEmpty && x.g.joins.isEmpty && x.g.splits.all fun p => decide (p.id < x.g.nextSplit)
theorem witness_JumpAndReturn_diverge :
    (go (.jmpr ⟨1, false⟩ (.v 4)) (at_ (.jmpr ⟨1, false⟩ (.v 4)) twoTargets) fun x =>
      parting x (fun l => x.src64 (.v 4) l) && (lanesOf (x.taken ⟨1, false⟩)).all fun l => decide ((x.src64 (.v 4) l).toNat % 4 = 0)) = true ∧
    (go (.ret ⟨1, false⟩) (at_ (.ret ⟨1, false⟩) twoReturns) fun x =>
      parting x (fun l => (x.g.calls.getD l []).headD 0) && (lanesOf (x.taken ⟨1, false⟩)).all fun l => decide (x.g.calls.getD l [] ≠ [])) = true ∧
    ([0, 1].all fun d => go (.ret ⟨7, false⟩) (at_ (.ret ⟨7, false⟩) fun g => (opening d (called 1 g))) fun x =>
      x.p.opener && x.g.region.any (fun r => !r.hard && (lanesOf x.p.mask).all fun l => decide (r.depths.getD l 0 = d))) = true := by decide +kernel
/-- R130: the parts in the order of their lowest lanes, the lanes that are not taken last. -/
theorem test_targets : (after (.jmpr ⟨1, false⟩ (.v 4)) (at_ (.jmpr ⟨1, false⟩ (.v 4)) twoTargets)).map (fun g => g.splits.map fun p => (p.mask, p.pc)) =
    some [(1, 0x2000), (2, 0x3000), (0xFFFFFFFC, 0x1008)] := by decide +kernel
/-- One record waits for the split's lanes and for those that have arrived. -/
def joining (arrived : LaneMask) (g : Group) : Group :=
  { g with joins := [{ num := 0, joinPc := some 0x4000, expected := 0xFFFFFFFF, arrived, outer := none, savedWb := 16, defer := none }] }.modSplit 0
    fun p => { p with mask := 3, inner := some 0 }
theorem witness_ExitRetires_records :
    ([0xFFFFFFFC, 0xFFFF0000].all fun m => go (.exit ⟨7, false⟩) (at_ (.exit ⟨7, false⟩) (joining m) 3) fun x => decide (x.taken ⟨7, false⟩ = x.p.mask) &&
      decide (x.p.inner = some 0) && decide (x.g.joins.length = 1) && x.g.handler.isNone &&
      decide ((x.g.joins.all fun r => r.arrived = r.expected &&& ~~~x.p.mask) = (m == 0xFFFFFFFC))) = true ∧
    (go (.exit ⟨1, false⟩) (at_ (.exit ⟨1, false⟩) fun g => opening 0 (p1 1 g)) fun x => decide (x.taken ⟨1, false⟩ = 1) && x.g.region.isSome && x.p.opener &&
      decide (x.p.mask &&& ~~~(x.taken ⟨1, false⟩) ≠ 0) && x.g.handler.isNone && x.p.inner.isNone && x.g.joins.isEmpty) = true := by decide +kernel
/-- R135: the last lanes to be waited for exit, and the record releases those that have arrived. -/
theorem test_exit_release : (after (.exit ⟨7, false⟩) (at_ (.exit ⟨7, false⟩) (joining 0xFFFFFFFC) 3)).map (fun g => (g.joins.length, g.splits.map fun p => (p.mask, p.pc, p.wb))) =
    some (0, [(0xFFFFFFFC, 0x4000, 16)]) := by decide +kernel
theorem witness_JoinatWindowYield :
    (∃ x, Issues (.joinat 12) (at_ (.joinat 12)) x) ∧
    (∃ x, Issues (.window .lit) (at_ (.window .lit) (fun g => { g with regCount := 256 }) 0xFFFFFFFF 160) x ∧
      (x.anyActive && decide ((x.src .lit x.firstLane).toNat % 16 = 0) && decide ((x.src .lit x.firstLane).toNat + 96 = x.g.regCount)) = true) ∧
    (∃ x, Issues (.window .lit) (at_ (.window .lit) (fun g => { g with regCount := 256 }) 0xFFFFFFFF 176) x ∧
      (x.anyActive && decide (x.g.regCount < (x.src .lit x.firstLane).toNat + 96)) = true) ∧
    (∃ x, Issues (.window .lit) (at_ (.window .lit) id 0xFFFFFFFF 8) x ∧ (x.anyActive && decide ((x.src .lit x.firstLane).toNat % 16 ≠ 0)) = true) ∧
    (∃ x, Issues (.window .lit) (at_ (.window .lit) id 0) x ∧ (!x.anyActive) = true) ∧
    (∃ x, Issues .yield (at_ .yield) x ∧ x.anyActive = true) ∧ (∃ x, Issues .yield (at_ .yield id 0) x ∧ (!x.anyActive) = true) := by
  refine ⟨?_, wit ?_, wit ?_, wit ?_, wit ?_, wit ?_, wit ?_⟩
  · exact (wit (q := fun _ => true) (by decide +kernel)).imp fun _ h => h.1
  all_goals decide +kernel
theorem test_window : (after (.window .lit) (at_ (.window .lit) (fun g => { g with regCount := 256 }) 0xFFFFFFFF 160)).map (fun g => g.splits.map fun p => (p.wb, p.pwb)) =
      some [(0, some 160)] ∧
    faults (.window .lit) (at_ (.window .lit) id 0xFFFFFFFF 8) = some .windowRange ∧
    (after (.joinat 12) (at_ (.joinat 12))).map (fun g => g.splits.map fun p => p.join) = some [some 0x1030] := by decide +kernel
theorem witness_MoveOnFrame : (((mk (gr (sp [encode .nop, encode .nop]))).group? 7).any fun g => (g.split? 0).any fun p => p.clause.any fun c =>
    decide (c.idx + 1 < c.words.length) && !c.only) = true := by decide +kernel


/-! ### Memory -/

/-- The page at address 0 is cached for context 0 on die 0 with these leaf flags; its frame lies in die 0's heap. -/
def mapped (flags : Nat) (s : State) : State :=
  { s with tlb := [{ ctx := 0, die := 0, core := none, page := 0, size := 2 ^ 15, frame := 5 * 2 ^ 15, leaf := BitVec.ofNat 64 (5 * 2 ^ 15 + flags), expiry := 10 ^ 9 }] }
/-- Valid, leaf, R, W, X, A and D. -/
def rw : Nat := 0x301F
/-- The key of the byte at address a of that page. -/
def cell (a : Nat) : Nat := Space.key (.phys 0 0) (5 * 2 ^ 15 + a)
/-- The lanes' accesses are granted cells of this package, and satisfy a check. -/
def granted (r : Except Stop (State × List (Nat × Grant))) (q : State → List (Nat × Grant) → Bool := fun _ _ => true) : Bool :=
  match r with
  | .ok (s, gs) => gs.all (fun e => match e.2.place with
      | .cell .. => true
      | _ => false) && q s gs
  | _ => false
/-- The fault or wait that the address checks answer. -/
def denied (r : Except Stop (State × List (Nat × Grant))) : Option (Option Cause) :=
  match r with
  | .ok _ => none
  | .error e => some (e.map Trap.cause)
/-- A level access of lanes passes its checks. -/
def clear (x : Ctx) (lv : Level4) (lanes : List Nat) (a b : Operand) (size : Nat) : Bool :=
  lanes.all fun l => decide (x.levelAddr a b l % size = 0) && match x.s.reach x.g lv l (x.levelAddr a b l) size with
    | .bad _ => false
    | _ => true
/-- v2 holds the lane's number times a word. -/
def ramp (k : Nat) (g : Group) : Group := (List.range 32).foldl (fun g l => g.setReg 2 l (BitVec.ofNat 32 (k * l))) g
/-- v4:v5 holds the address a + k × lane. -/
def ptrs (a k : Nat) (g : Group) : Group :=
  (List.range 32).foldl (fun g l => (g.setReg 4 l (BitVec.ofNat 32 (a + k * l))).setReg 5 l 0) g
/-- A byte or word of memory after an instruction. -/
def memAfter (i : Instr) (s : State) (k n : Nat) : Option Nat := (next i s).map fun t => t.readMem k n
/-- What waits to be written for lane l of a long-latency instruction. -/
def waits (i : Instr) (s : State) (l : Nat) : Option (List Nat) := (after i s).bind fun g => g.flights.getLast?.map fun f => match f.work with
  | .results ds _ _ => ds.filterMap fun d => match d with
      | .vec _ m v => if m = l then some v.toNat else none
      | .scal _ v | .word _ v => some v.toNat
  | _ => []

theorem witness_LevelLoads :
    (∃ x, Issues (.lds .n32 (.v 0) (.v 2) .zero) (at_ (.lds .n32 (.v 0) (.v 2) .zero) (ramp 4)) x ∧
      (clear x .scratch (x.lanesFor (.v 0)) (.v 2) .zero 4 && acts (.lds .n32 (.v 0) (.v 2) .zero) x.c) = true) ∧
    (∃ x, Issues (.ldl .n128 (.v 0) .lit .zero) (at_ (.ldl .n128 (.v 0) .lit .zero) id 0xFFFFFFFF 496) x ∧
      clear x .lane (x.lanesFor (.v 0)) .lit .zero 16 = true) ∧
    (∃ x, Issues (.ldc .n8 (.v 0) .lit .zero) (at_ (.ldc .n8 (.v 0) .lit .zero) id 0xFFFFFFFF 1023) x ∧
      clear x .cluster (x.lanesFor (.v 0)) .lit .zero 1 = true) ∧
    (∃ x, Issues (.ldd .n32 (.v 0) .lit .zero) (at_ (.ldd .n32 (.v 0) .lit .zero) id 0 4092) x ∧
      (clear x .die (x.lanesFor (.v 0)) .lit .zero 4 && !acts (.ldd .n32 (.v 0) .lit .zero) x.c) = true) := by
  refine ⟨wit ?_, wit ?_, wit ?_, wit ?_⟩ <;> decide +kernel
theorem witness_LevelStores :
    (∃ x, Issues (.sts .n32 (.v 2) (.v 2) .zero) (at_ (.sts .n32 (.v 2) (.v 2) .zero) (ramp 4)) x ∧
      (clear x .scratch x.activeLanes (.v 2) .zero 4 && decide (31 ∈ x.activeLanes) &&
        (match x.s.reach x.g .scratch 31 (x.levelAddr (.v 2) .zero 31) 4 with
          | .key k => decide (k = Space.key (.scratch 1) 124)
          | _ => false)) = true) ∧
    (∃ x, Issues (.stl .n64 (.v 2) .lit .zero) (at_ (.stl .n64 (.v 2) .lit .zero) id 0xFFFFFFFF 512) x ∧
      clear x .lane x.activeLanes .lit .zero 8 = true) ∧
    (∃ x, Issues (.stc .n8 (.v 2) .lit .zero) (at_ (.stc .n8 (.v 2) .lit .zero) id 1 1023) x ∧
      clear x .cluster x.activeLanes .lit .zero 1 = true) ∧
    (∃ x, Issues (.std .n16 (.v 2) .lit .zero) (at_ (.std .n16 (.v 2) .lit .zero) id 1 4094) x ∧
      clear x .die x.activeLanes .lit .zero 2 = true) ∧
    (¬ ∃ n j, j < 16 ∧ Space.key (.scratch 1) 124 = (gr (sp [])).sliceKey (n / 8) ((gr (sp [])).sliceSize - 512 + 16 * (n % 8)) + j) := by
  refine ⟨wit ?_, wit ?_, wit ?_, wit ?_, ?_⟩
  · decide +kernel
  · decide +kernel
  · decide +kernel
  · decide +kernel
  · rintro ⟨n, j, hj, h⟩
    simp only [Group.sliceKey, Space.key, gr] at h
    omega
/-- STS.32 of 4 × lane at 4 × lane: lane 5's word is 20; beyond the slice a store is lost, and reads are 0 (R199). -/
theorem test_level_store : memAfter (.sts .n32 (.v 2) (.v 2) .zero) (at_ (.sts .n32 (.v 2) (.v 2) .zero) (ramp 4)) (Space.key (.scratch 1) 20) 4 = some 20 ∧
    (next (.stl .n64 (.v 2) .lit .zero) (at_ (.stl .n64 (.v 2) .lit .zero) (ramp 4) 0xFFFFFFFF 512)).map (fun t => t.mem) = some [] ∧
    waits (.ldl .n64 (.v 0) .lit .zero) (at_ (.ldl .n64 (.v 0) .lit .zero) id 1 512) 0 = some [0, 0] := by decide +kernel
/-- Addresses 1020 and 1021 to 1024 of 1,024 bytes: the last word fits, the next does not; a host core has none. -/
theorem witness_ScratchBounds :
    (∃ x, Issues (.lds .n32 (.v 0) .lit .zero) (at_ (.lds .n32 (.v 0) .lit .zero) id 1 1024) x ∧
      ((x.lanesFor (.v 0)).all (fun l => decide (x.levelAddr .lit .zero l % 4 = 0)) &&
        (x.lanesFor (.v 0)).any fun l => decide (x.s.scratchSize x.g < x.levelAddr .lit .zero l + 4)) = true) ∧
    (∃ x, Issues (.sts .n8 (.v 0) .lit .zero) (at_ (.sts .n8 (.v 0) .lit .zero) id 1 1024) x ∧
      (x.activeLanes.any fun l => decide (x.s.scratchSize x.g < x.levelAddr .lit .zero l + 1)) = true) ∧
    (∃ x, Issues (.atoms .add (.v 0) .lit .zero) (at_ (.atoms .add (.v 0) .lit .zero) id 1 1024) x ∧
      ((x.lanesFor (.v 0)).any fun l => decide (x.s.scratchSize x.g < x.levelAddr .lit .zero l + 4)) = true) ∧
    (∃ x, Issues (.ldd .n32 (.v 0) .zero .zero) (at_ (.ldd .n32 (.v 0) .zero .zero) (fun g => { g with isHost := true })) x ∧
      (x.g.isHost && decide (x.lanesFor (.v 0) ≠ [])) = true) := by
  refine ⟨wit ?_, wit ?_, wit ?_, wit ?_⟩ <;> decide +kernel
theorem test_scratch_bounds : faults (.lds .n32 (.v 0) .lit .zero) (at_ (.lds .n32 (.v 0) .lit .zero) id 1 1024) = some .scrBounds ∧
    faults (.lds .n32 (.v 0) .lit .zero) (at_ (.lds .n32 (.v 0) .lit .zero) id 1 1020) = none ∧
    faults (.ldc .n32 (.v 0) .zero .zero) (at_ (.ldc .n32 (.v 0) .zero .zero) (fun g => { g with isHost := true })) = some .cluBounds := by decide +kernel

/-- The machine with a page, about to issue an instruction. -/
def glob (i : Instr) (f : Group → Group := id) (act : LaneMask := 0xFFFFFFFF) (lit : Word := 0) : State := mapped rw (at_ i f act lit)
/-- Base translation slot 3: the first 256 bytes of that page. -/
def slot3 (g : Group) : Group := { g with bt := setAt g.bt 3 { base := 0, phys := 5 * 2 ^ 15, r := true, w := true, lease := 10 ^ 9, limit := 256 } }

theorem witness_GlobalLoads :
    (∃ x, Issues (.ld .n32 (.v 0) (.v 4) .zero) (glob (.ld .n32 (.v 0) (.v 4) .zero) (ptrs 0x100 4)) x ∧
      (acts (.ld .n32 (.v 0) (.v 4) .zero) x.c && granted (x.lanes x.s (x.lanesFor (.v 0))
        (fun l => x.src64 (.v 4) l + sext64 (x.src .zero l)) 4 4 { r := true } true false)) = true) ∧
    (∃ x, Issues (.ldb .n32 (.v 0) 3 .lit) (glob (.ldb .n32 (.v 0) 3 .lit) slot3 0xFFFFFFFF 252) x ∧
      (acts (.ldb .n32 (.v 0) 3 .lit) x.c && granted (eachLane x.s (x.lanesFor (.v 0)) (fun l => (x.slot 3).base + zext64 (x.src .lit l)) false fun s l =>
        slotAccess s x.g.agent (x.slot 3) (x.src .lit l).toNat ((x.slot 3).base + zext64 (x.src .lit l)).toNat 4 false)) = true) := by
  refine ⟨wit ?_, wit ?_⟩ <;> decide +kernel
/-- A word stored little-endian reads back; an LD.I8 extends its sign (R102). -/
theorem test_global_load :
    waits (.ld .n32 (.v 0) (.v 4) .zero) ((glob (.ld .n32 (.v 0) (.v 4) .zero) (ptrs 0x100 4)).writeMem (cell 0x104) [0x78, 0x56, 0x34, 0x12]) 1 = some [0x12345678] ∧
    waits (.ld .i8 (.v 0) (.v 4) .lit) ((glob (.ld .i8 (.v 0) (.v 4) .lit) (ptrs 0x100 0) 1 0xFFFFFFFF).writeMem (cell 0xFF) [0x80]) 0 = some [0xFFFFFF80] := by
  decide +kernel
theorem witness_GlobalStores :
    (∃ x, Issues (.st .n32 (.v 2) (.v 4) .zero) (glob (.st .n32 (.v 2) (.v 4) .zero) (ptrs 0x100 4)) x ∧
      (x.g.region.isNone && granted (x.lanes x.s x.activeLanes (fun l => x.src64 (.v 4) l + sext64 (x.src .zero l)) 4 4 { w := true } true false)
        fun s gs => gs.all fun e => !s.lineBlocked x.g.die e.2.pa) = true) ∧
    (∃ x, Issues (.stb .n32 (.v 2) 3 .lit) (glob (.stb .n32 (.v 2) 3 .lit) slot3 1 252) x ∧
      (x.g.region.isNone && granted (eachLane x.s x.activeLanes (fun l => (x.slot 3).base + zext64 (x.src .lit l)) false fun s l =>
        slotAccess s x.g.agent (x.slot 3) (x.src .lit l).toNat ((x.slot 3).base + zext64 (x.src .lit l)).toNat 4 true)
          fun s gs => (gs.all fun e => !s.lineBlocked x.g.die e.2.pa) &&
            decide (gs.map (fun e => (e.1, match e.2.place with
              | .cell k h => (k, h)
              | _ => (0, 0), e.2.pa, e.2.copies)) = [(0, (cell 252, 0), 5 * 2 ^ 15 + 252, [])])) = true) ∧
    (∃ x, Issues (.scat (.v 2) (.v 4) .lit) (glob (.scat (.v 2) (.v 4) .lit) (ptrs 0x100 4) 0xFFFFFFFF 4) x ∧
      (x.anyActive && !badElem (x.src .lit x.firstLane).toNat && decide (bits (x.src .lit x.firstLane).toNat 8 5 = 0) &&
        granted (x.lanes x.s x.activeLanes (fun l => x.src64 (.v 4) l) 4 4 { w := true } true false)) = true) := by
  refine ⟨wit ?_, wit ?_, wit ?_⟩ <;> decide +kernel
theorem test_global_store :
    memAfter (.st .n16 (.v 2) (.v 4) .zero) (glob (.st .n16 (.v 2) (.v 4) .zero) (fun g => ptrs 0x100 2 (ramp 0x10101 g))) (cell 0x104) 4 = some 0x03030202 ∧
    memAfter (.scat (.v 2) (.v 4) .lit) (glob (.scat (.v 2) (.v 4) .lit) (fun g => ptrs 0x100 4 (ramp 7 g)) 0xFFFFFFFF 4) (cell 0x11C) 4 = some 49 := by
  decide +kernel

/-- Page tables whose leaf of the page at 0 has these flags: tables at 1 to 4 times 32 KiB. -/
def walked (flags : Nat) (s : State) : State :=
  let table (n : Nat) : Nat := n * 2 ^ 15
  let s := s.modContext 0 fun c => { c with ptbr := BitVec.ofNat 64 (table 1) }
  (((s.physWrite 0 (table 1) 8 (table 2 + 1)).physWrite 0 (table 2) 8 (table 3 + 1)).physWrite 0 (table 3) 8 (table 4 + 1)).physWrite 0 (table 4) 8
    (table 5 + flags)
/-- A walk that succeeds and meets this leaf. -/
def leafOf (s : State) : Option (Nat × Bool) := match walk s 0 0 0 with
  | .ok lf => some (lf.entry, bit lf.entry 6)
  | .error _ => none
theorem witness_AccessChecks :
    leafOf (walked (rw + 64) (mk (gr (sp [])))) = some (5 * 2 ^ 15 + rw + 64, true) ∧ (walked (rw + 64) (mk (gr (sp [])))).tlb = [] ∧
    (match walk (mk (gr (sp []))) 0 0 0 with
      | .error t => decide (t.cause = .pageNotPresent)
      | _ => false) = true ∧
    ((mapped rw State.reset).cached? 0 0 none 0 { r := true }).isSome = true ∧
    (∃ x, Issues (.ld .n32 (.v 0) (.v 4) .zero) (at_ (.ld .n32 (.v 0) (.v 4) .zero)) x ∧
      decide (denied (x.lanes x.s (x.lanesFor (.v 0)) (fun l => x.src64 (.v 4) l + sext64 (x.src .zero l)) 4 4 { r := true } true false)
        = some (some .pageNotPresent)) = true) ∧
    (∃ x, Issues (.st .n32 (.v 0) (.v 4) .zero) (glob (.st .n32 (.v 0) (.v 4) .zero) (ptrs 2 0) 1) x ∧
      decide (denied (x.lanes x.s x.activeLanes (fun l => x.src64 (.v 4) l + sext64 (x.src .zero l)) 4 4 { w := true } true false)
        = some (some .align)) = true) := by
  refine ⟨by decide +kernel, by decide +kernel, by decide +kernel, by decide +kernel, wit ?_, wit ?_⟩ <;> decide +kernel
/-- The leaf's W is cleared while a migration moves its page: a store waits at the walker (R403). -/
def migrating (i : Instr) : State :=
  { walked 0x1017 (at_ i (ptrs 0x100 0) 1) with migrations := [{ rim := 48, cmd := 0, pte := 4 * 2 ^ 15, dest := 0, ctx := 0, tier := 0, old := 8, start := 0, lease := 8 }] }
theorem witness_AccessChecks_wait :
    (∃ x, Issues (.st .n32 (.v 0) (.v 4) .zero) (migrating (.st .n32 (.v 0) (.v 4) .zero)) x ∧
      decide (denied (x.lanes x.s x.activeLanes (fun l => x.src64 (.v 4) l + sext64 (x.src .zero l)) 4 4 { w := true } true false) = some none) = true) :=
  wit (by decide +kernel)
/-- A walk sets A and D (R217), and REP = 1 refuses a store whatever W (R400). -/
theorem test_walk : memAfter (.st .n32 (.v 2) (.v 4) .zero) (walked 0x1F (at_ (.st .n32 (.v 2) (.v 4) .zero) (fun g => ptrs 0x100 0 (ramp 0 g)) 1)) (Space.key (.phys 0 0) (4 * 2 ^ 15)) 8
      = some (5 * 2 ^ 15 + 0x301F) ∧
    faults (.st .n32 (.v 2) (.v 4) .zero) (walked 0x5F (at_ (.st .n32 (.v 2) (.v 4) .zero) (ptrs 0x100 0) 1)) = some .pageProtection ∧
    faults (.ld .n32 (.v 2) (.v 4) .zero) (at_ (.ld .n32 (.v 2) (.v 4) .zero) (pair4 0x0E00000000000100) 1) = some .canonical := by decide +kernel

theorem witness_LevelAtomics :
    (∃ x, Issues (.atoms .add (.v 0) .lit .zero) (at_ (.atoms .add (.v 0) .lit .zero) id 1 256) x ∧
      (clear x .scratch (x.lanesFor (.v 0)) .lit .zero 4 && acts (.atoms .add (.v 0) .lit .zero) x.c) = true) ∧
    (∃ x, Issues (.atomc .cas (.v 0) .zero .zero) (at_ (.atomc .cas (.v 0) .zero .zero) id 1) x ∧
      (clear x .cluster (x.lanesFor (.v 0)) .zero .zero 4 && acts (.atomc .cas (.v 0) .zero .zero) x.c) = true) := by
  refine ⟨wit ?_, wit ?_⟩ <;> decide +kernel
/-- v6 of lanes 0 to 3 is 1, 2, 3, 4. -/
def ones (g : Group) : Group := (List.range 4).foldl (fun g l => g.setReg 6 l (BitVec.ofNat 32 (l + 1))) g
/-- R251: ATOMG.ADD by lanes 0 to 3 on a word that holds 10, with 1, 2, 3 and 4: the lanes receive 10, 11, 13 and 16, and 20 stands there. -/
theorem test_atomic_order :
    let i : Instr := .atomg .add (.v 0) (.v 4) (.v 6)
    let s := (glob i (fun g => ptrs 0x100 0 (ones g)) 0xF).writeMem (cell 0x100) [10]
    (List.range 4).map (waits i s) = [some [10], some [11], some [13], some [16]] ∧ memAfter i s (cell 0x100) 4 = some 20 := by decide +kernel
theorem witness_GlobalAtomics :
    (∃ x, Issues (.atomg .add (.v 0) (.v 4) (.v 2)) (glob (.atomg .add (.v 0) (.v 4) (.v 2)) (ptrs 0x100 0)) x ∧
      (acts (.atomg .add (.v 0) (.v 4) (.v 2)) x.c && granted (x.lanes x.s (x.lanesFor (.v 0)) (fun l => x.src64 (.v 4) l) 4 4 { r := true, w := true } true false)
        fun s _ => (s.group? x.g.id).all fun g => g.region.isNone) = true) ∧
    (∃ x, Issues (.redg .faddF32 (.v 2) (.v 4)) (glob (.redg .faddF32 (.v 2) (.v 4)) (ptrs 0x100 4)) x ∧
      (acts (.redg .faddF32 (.v 2) (.v 4)) x.c && granted (x.lanes x.s x.activeLanes (fun l => x.src64 (.v 4) l) 4 4 { r := true, w := true } true false)
        fun s gs => (s.poisonOf gs 4).isNone) = true) := by
  refine ⟨wit ?_, wit ?_⟩ <;> decide +kernel
/-- An earlier write of the split to a key has gone to its home and is not answered. -/
def writeAway (q : Path) (k : Nat) (g : Group) : Group :=
  { writeLeft q k g with flights := (writeLeft q k g).flights.map fun f => { f with writes := f.writes.map fun w => { w with asked := some 90 } } }
/-- An access of some cells of the issuing group waits for that write. -/
def mustWait (x : Ctx) (s : State) (cells : List (Nat × Nat)) (reads : Bool) : Bool :=
  (s.orderFor x.g x.p.mask x.i.path cells).blocked x.g.id x.p.mask x.i.path cells reads
/-- The page at address 0 is cached for context 0 on die 0 with a frame and leaf flags. -/
def mappedAt (frame flags : Nat) (s : State) : State :=
  { s with tlb := [{ ctx := 0, die := 0, core := none, page := 0, size := 2 ^ 15, frame, leaf := BitVec.ofNat 64 (frame + flags), expiry := 10 ^ 9 }] }
/-- A frame of die 1's heap. -/
def far1 : Nat := 2 ^ 36
/-- A frame of a region of package 3 behind rim die 49, whose links are up or down. -/
def fabricked (up : Bool) (s : State) : State :=
  let s := mappedAt (2 ^ 46) rw s
  { s with regions := s.regions ++ [{ base := 2 ^ 46, size := 2 ^ 35, dieset := 2 ^ 49, valid := true, target := 4, dbase := 3 * 2 ^ 40 }],
           links := if up then [] else (List.range 32).map fun k => { id := 32 + k, up := false } }
/-- The page is REPLREAD memory of dies 0 and 1. -/
def replicated (s : State) : State :=
  let s := mappedAt (2 ^ 46) rw s
  { s with regions := s.regions ++ [{ base := 2 ^ 46, size := 2 ^ 35, dieset := 3, valid := true, mode := 1 }] }
theorem witness_LevelAccesses_wait :
    (∃ x, Issues (.lds .n32 (.v 0) (.v 2) .zero) (at_ (.lds .n32 (.v 0) (.v 2) .zero) (fun g => ramp 4 (writeAway .scr (Space.key (.scratch 1) 4) g))) x ∧
      mustWait x x.s [(Space.key (.scratch 1) 4, 4)] true = true) ∧
    (∃ x, Issues (.sts .n32 (.v 0) (.v 2) .zero) (at_ (.sts .n32 (.v 0) (.v 2) .zero) (fun g => ramp 4 (writeAway .scr (Space.key (.scratch 1) 4) g))) x ∧
      mustWait x x.s ((x.levelWrites .scratch .n32 (.v 0) (.v 2) .zero).map LaneWrite.cell) false = true) ∧
    (∃ x, Issues (.atoms .add (.v 0) .lit .zero) (at_ (.atoms .add (.v 0) .lit .zero) (writeAway .scr (Space.key (.scratch 1) 256)) 1 256) x ∧
      mustWait x x.s [(Space.key (.scratch 1) 256, 4)] false = true) := by
  refine ⟨wit ?_, wit ?_, wit ?_⟩ <;> decide +kernel
/-- One lane's load of address 0x100, and what its checks grant. -/
def loads (s : State → State) (q : Ctx → State → List (Nat × Grant) → Bool) (f : Group → Group := id) : Bool :=
  let i : Instr := .ld .n32 (.v 0) (.v 4) .zero
  go i (s (at_ i (fun g => f (ptrs 0x100 0 g)) 1)) fun x => acts i x.c &&
    match x.lanes x.s (x.lanesFor (.v 0)) (fun l => x.src64 (.v 4) l + sext64 (x.src .zero l)) 4 4 { r := true } true false with
    | .ok (u, gs) => decide (gs.length = 1) && q x u gs
    | _ => false
theorem witness_GlobalLoads_homes :
    (loads (mappedAt far1 rw) fun x u gs => !u.copying x.g.die gs && gs.all fun e => !e.2.tagged && e.2.home?.any fun hm => decide (hm.die = 1) && !u.mayRead x.g.die hm) = true ∧
    (loads (mapped rw) fun x u gs => decide (u.loose.late = 0) && !u.loose.hit && x.g.region.isNone && gs.all fun e => !e.2.tagged && decide (e.2.coh = 0) && !e.2.rep && !e.2.repl &&
      e.2.home?.any fun hm => u.mayRead x.g.die hm) = true ∧
    ([true, false].all fun up => loads (fabricked up) fun x u gs => x.g.region.isNone && gs.all fun e => !e.2.tagged && decide ((u.planesIn (u.rimsOf e.2.pa)).isEmpty = !up) &&
      match e.2.place with
      | .remote p a => decide (p = 3 ∧ a = 0x100)
      | _ => false) = true ∧
    (loads (fun s => { replicated s with acks := [{ die := 0, line := 2 ^ 46 + 0x100, expect := none, got := 0, writer := 0 }] }) fun x u gs => u.copying x.g.die gs) = true ∧
    (loads (mapped rw) (fun x u gs => !u.copying x.g.die gs && mustWait x u (grantCells gs 4) true) (writeAway .glb (cell 0x100))) = true := by decide +kernel
/-- One lane's store to address 0x100. -/
def stores (s : State → State) (q : Ctx → State → List (Nat × Grant) → Bool) (f : Group → Group := id) : Bool :=
  let i : Instr := .st .n32 (.v 2) (.v 4) .zero
  go i (s (at_ i (fun g => f (ptrs 0x100 0 g)) 1)) fun x => acts i x.c &&
    match x.lanes x.s x.activeLanes (fun l => x.src64 (.v 4) l + sext64 (x.src .zero l)) 4 4 { w := true } true false with
    | .ok (u, gs) => decide (gs.length = 1) && q x u gs
    | _ => false
/-- What waits of a store's writes. -/
def left (x : Ctx) (u : State) (gs : List (Nat × Grant)) : List LaneWrite :=
  (remaining u.tick LaneWrite.place (grantWrites gs (x.storeData .n32 (.v 2)))).filter fun w => !((grantOf gs w.lane).elim false fun gr => gr.tagged) && delayed x u w
theorem witness_GlobalStores_homes :
    (stores (mapped rw) fun x u gs => x.g.region.isNone && (left x u gs).isEmpty && gs.all fun e => e.2.copies.isEmpty && !e.2.tagged) = true ∧
    (stores (mappedAt far1 rw) fun x u gs => decide ((left x u gs).length = 1) && gs.all fun e => !e.2.tagged && e.2.home?.any fun hm => !u.mayWrite x.g.die hm) = true ∧
    (stores (fun s => { mapped rw s with loose := { delay := 1 } }) fun x u gs => decide ((left x u gs).length = 1)) = true ∧
    (stores (mapped (rw + 32)) fun x u gs => (left x u gs).isEmpty && gs.all fun e => e.2.tagged && e.2.copies.isEmpty) = true ∧
    (stores (mapped rw) (fun x u gs => mustWait x u (grantCells gs 4) false) (writeAway .glb (cell 0x100))) = true ∧
    (go (.st .n32 (.v 2) (.v 4) .zero) (glob (.st .n32 (.v 2) (.v 4) .zero) id 0) fun x => !acts x.i x.c) = true := by decide +kernel
/-- The walk of address 0 meets a leaf with these flags, which satisfies a check; no other translation is cached. -/
def meetsLeaf (flags : Nat) (q : State → Leaf → Bool) : Bool :=
  let s := walked flags (mk (gr (sp [])))
  (s.cached? 0 0 none 0 { w := true }).isNone && match s.walkFor 0 0 0 { w := true } with
    | .ok lf => !hintPoisoned s 0 lf && q s (hinted s 0 lf).1
    | .error _ => false
theorem witness_AccessChecks_leaves :
    (meetsLeaf (rw + 64) fun _ lf => bit lf.entry 6) = true ∧ (meetsLeaf 0x17 fun s lf => !bit lf.entry 6 && !bit lf.entry 3 && !s.migrating lf) = true ∧
    (meetsLeaf 0x1B fun _ lf => !bit lf.entry 2) = true ∧
    (match translate (mappedAt (2 ^ 46) rw State.reset) 0 0 0x100 { r := true } none with
      | .ok (u, xl) => (u.regionOf xl.pa).isNone
      | _ => false) = true ∧
    (match translate ((mapped (rw + 32) State.reset).writeTag (cell 0x100) 5) 0 0 0x100 { r := true } none with
      | .ok (u, xl) => bit xl.leaf 5 && match u.placeFor { ctx := 0, die := 0, sys := false } { r := true } xl.pa with
        | .cell k _ => decide ((u.tagAt k).toNat = 5) && (granulesOf k 4).all fun j => decide ((u.tagAt j).toNat = 5)
        | _ => false
      | _ => false) = true := by decide +kernel
/-- One lane's level atomic, and a flight with one read-modify-write left. -/
def modifying (m : AtomUnit) (g : Group) : Group :=
  { g with flights := [{ id := 0, split := 0, mask := 1, flag := some 3, path := some .glb, work := .results [] none none, atoms := [m] }], nextFlight := 1 }
def addOne (home : Option Home) : AtomUnit := { lane := 0, key := cell 0x100, op := .add, items := [(1, 0, [])], home }
theorem witness_AtomicsStart :
    (∃ x, Issues (.atoms .add (.v 0) .lit .zero) (at_ (.atoms .add (.v 0) .lit .zero) id 1 256) x ∧ (decide (x.lanesFor (.v 0) = [0]) &&
      decide (x.s.loose.delay = 0) && x.g.flights.all fun f => decide (f.id < x.g.nextFlight)) = true) ∧
    ([none, some ({ die := 0, pa := 5 * 2 ^ 15 + 0x100 } : Home)].all fun h =>
      let s := at_ .nop (modifying (addOne h))
      inGroup s fun g => (g.flight? 0).any fun f => decide (f.atoms = [addOne h]) && f.late.isEmpty && decide (s.loose.delay = 0) && s.homeReady g none h) = true ∧
    (let h : Home := { die := 1, pa := far1 + 0x100 }
     let s := at_ .nop (modifying (addOne (some h)))
     inGroup s fun g => (g.flight? 0).any fun f => decide (f.atoms = [addOne (some h)]) && !s.homeReady g none (some h)) = true ∧
    (go (.atomg .add (.v 0) (.v 4) (.v 2)) (glob (.atomg .add (.v 0) (.v 4) (.v 2)) (fun g => ptrs 0x100 0 (writeAway .glb (cell 0x100) g))) fun x =>
      match x.lanes x.s (x.lanesFor (.v 0)) (fun l => x.src64 (.v 4) l) 4 4 { r := true, w := true } true false with
      | .ok (u, gs) => mustWait x (u.harden x.g.id x.p.id 2) (grantCells gs 4) false
      | _ => false) = true ∧
    (go (.redg .add (.v 2) (.v 4)) (glob (.redg .add (.v 2) (.v 4)) (fun g => ptrs 0x100 0 (writeAway .glb (cell 0x100) g))) fun x =>
      match x.lanes x.s x.activeLanes (fun l => x.src64 (.v 4) l) 4 4 { r := true, w := true } true false with
      | .ok (u, gs) => mustWait x (u.harden x.g.id x.p.id 2) (grantCells gs 4) false
      | _ => false) = true := by
  refine ⟨wit ?_, ?_, ?_, ?_, ?_⟩ <;> decide +kernel
theorem witness_FencesAndWaits :
    (∃ x, Issues (.fence .die .sc) (at_ (.fence .die .sc)) x) ∧ (∃ x, Issues (.pfence 4 4) (at_ (.pfence 4 4)) x) ∧
    (∃ x, Issues (.pref .l1 (.v 4) .zero) (at_ (.pref .l1 (.v 4) .zero)) x) ∧
    (∃ x, Issues (.waitp 4 .lit) (at_ (.waitp 4 .lit) (busy .glb false 2) 1 2) x ∧
      decide (Path.ofCode? 4 = some .glb ∧ x.g.pathCount .glb ≤ (x.src .lit x.scalarLane).toNat) = true) ∧
    (∃ x, Issues (.waitp 4 .lit) (at_ (.waitp 4 .lit) (busy .glb false 2) 1 1) x ∧
      (decide ((x.src .lit x.scalarLane).toNat < x.g.pathCount .glb) && (x.g.engineFaultFor x.p).isNone) = true) := by
  refine ⟨(wit (q := fun _ => true) ?_).imp fun _ h => h.1, (wit (q := fun _ => true) ?_).imp fun _ h => h.1,
    (wit (q := fun _ => true) ?_).imp fun _ h => h.1, wit ?_, wit ?_⟩ <;> decide +kernel
theorem witness_FencesAndWaits_memory :
    (∃ x, Issues (.waitmem .die (.v 4) .zero) (glob (.waitmem .die (.v 4) .zero) (ptrs 0x100 4)) x ∧
      (x.anyActive && decide (x.p.hold ≠ .waitmem) && granted (x.lanes x.s x.activeLanes (fun l => x.src64 (.v 4) l) 4 4 { r := true } true false)
        fun s gs => (s.poisonOf gs 4).isNone && gs.all fun e => decide (x.passWord (s.orderFor x.g x.p.mask (some .glb) (grantCells gs 4)) e.1 e.2 = (x.src .zero e.1).toNat)) = true) ∧
    (∃ x, Issues (.waitmem .die (.v 4) .lit) (glob (.waitmem .die (.v 4) .lit) (ptrs 0x100 4) 1 1) x ∧
      (x.anyActive && granted (x.lanes x.s x.activeLanes (fun l => x.src64 (.v 4) l) 4 4 { r := true } true false)
        fun s gs => (s.poisonOf gs 4).isNone && gs.any fun e => decide (x.passWord (s.orderFor x.g x.p.mask (some .glb) (grantCells gs 4)) e.1 e.2 ≠ (x.src .lit e.1).toNat)) = true) := by
  refine ⟨wit ?_, wit ?_⟩ <;> decide +kernel
theorem witness_SlotsAndTags :
    (∃ x, Issues (.btset 7 (.s 0) .lit) (glob (.btset 7 (.s 0) .lit)) x ∧ (decide ((x.src64 (.s 0) x.scalarLane).toNat / 2 ^ 57 % 8 = 0) &&
      match translate x.s x.g.ctx x.g.die ((x.src64 (.s 0) x.scalarLane).toNat % 2 ^ 57) {} with
        | .ok _ => true
        | _ => false) = true) ∧
    (∃ x, Issues (.tagset .lit (.v 4)) (glob (.tagset .lit (.v 4)) (ptrs 0x120 0) 0x80000000 0x1F) x ∧ (decide (x.activeLanes = [31]) &&
      granted (x.lanes x.s x.activeLanes (fun l => x.src64 (.v 4) l) 32 32 { w := true } false false) fun _ gs =>
        decide (gs.map (fun e => (e.1, e.2.pa, e.2.copies)) = [(31, 5 * 2 ^ 15 + 0x120, [])])) = true) ∧
    (∃ x, Issues (.tagget (.v 0) (.v 4)) (glob (.tagget (.v 0) (.v 4)) (ptrs 0x120 32)) x ∧ (acts (.tagget (.v 0) (.v 4)) x.c &&
      granted (x.lanes x.s (x.lanesFor (.v 0)) (fun l => x.src64 (.v 4) l) 32 32 { r := true } false false)) = true) := by
  refine ⟨wit ?_, wit ?_, wit ?_⟩ <;> decide +kernel
/-- TAGSET of 0x1F sets tag 15; a tagged page then refuses a pointer of tag 0 (R221). -/
theorem test_tags :
    (next (.tagset .lit (.v 4)) (glob (.tagset .lit (.v 4)) (ptrs 0x120 0) 0x80000000 0x1F)).map (fun t => (t.tagAt (cell 0x13F)).toNat) = some 15 ∧
    faults (.ld .n32 (.v 0) (.v 4) .zero) ((mapped (rw + 32) (at_ (.ld .n32 (.v 0) (.v 4) .zero) (ptrs 0x120 0) 1)).writeTag (cell 0x120) 15) = some .tagMismatch := by
  decide +kernel

/-! ### System registers, regions, launches, barriers, places -/

theorem witness_SystemRegisterAccess :
    (∃ x, Issues (.srd (.s 0) 0x19) (at_ (.srd (.s 0) 0x19)) x ∧ acts (.srd (.s 0) 0x19) x.c = true) ∧
    (∃ x, Issues (.swr (.s 0) 0x09) (at_ (.swr (.s 0) 0x09)) x ∧ acts (.swr (.s 0) 0x09) x.c = true) ∧
    onIssuer (at_ (.srd (.s 0) 0x0A)) (fun g p _ => (Instr.srd (.s 0) 0x0A).wf && !srAllowed 0x0A false g p) = true ∧
    onIssuer (at_ (.swr (.s 0) 0x10)) (fun g p _ => (Instr.swr (.s 0) 0x10).wf && !srAllowed 0x10 true g p) = true ∧
    (((at_ .nop).group? 7).any fun g => (g.split? 0).isSome && decide (g.id = 7) && decide (g.reached < (at_ .nop).contexts.length)) = true :=
  ⟨wit (by decide +kernel), wit (by decide +kernel), by decide +kernel, by decide +kernel, by decide +kernel⟩
/-- R148's SHIFT ranges, R376's fixed bits, and the sticky flags that a 1 clears. -/
def reads (f : Group → Group) (n : Nat) (v : Word) : Option Nat := ((at_ .nop f).group? 7).bind fun g => (g.split? 0).bind fun p =>
  (((at_ .nop f).writeSr g 0 n v).group? 7).map fun h => (srWord ((at_ .nop f).writeSr g 0 n v) h p n).toNat
theorem test_write_srs : [15, 16, 40, 41, 62, 63].map (fun v => reads id 4 (BitVec.ofNat 32 v)) = [some 16, some 16, some 40, some 40, some 40, some 63] ∧
    [0x26, 0x27, 0x28, 0x23, 0x06].map (fun n => reads id n 0xFFFFFFFF) = [some 64, some 0xFFFF, some 0xFFFFFFE1, some 0x01FFFFFF, some 0xFFFFFF80] ∧
    reads (fun g => { g with fstat := 0x1F }) 0 5 = some 0x1A := by decide +kernel
theorem witness_ControlOfTheMachine :
    (∃ x, Issues .haltall ((at_ .haltall).modContext 0 fun c => { c with dbg := true }) x) ∧
    (∃ x, Issues (.bkpt 63) (at_ (.bkpt 63)) x ∧ (x.anyActive && !(x.s.context x.g.ctx).dbg) = true) ∧
    (∃ x, Issues (.bkpt 63) (at_ (.bkpt 63) id 0) x ∧ (!x.anyActive) = true) ∧
    (∃ x, Issues (.bkpt 0) ((at_ (.bkpt 0)).modContext 0 fun c => { c with dbg := true, bkhalt := true }) x ∧
      (x.anyActive && (x.s.context x.g.ctx).dbg && (x.s.context x.g.ctx).bkhalt) = true) ∧
    (∃ x, Issues .kill (at_ .kill inHandler 6) x ∧ x.g.handler.isSome = true) ∧
    (∃ x, Issues (.mappg (.v 4) .lit) (at_ (.mappg (.v 4) .lit) inHandler 6 3) x ∧ acts (.mappg (.v 4) .lit) x.c = true) ∧
    canonical (2 ^ 57) = false ∧
    (∃ x, Issues (.trap .lit) (at_ (.trap .lit) id 0x80000000 9) x ∧ (x.anyActive && decide (x.firstLane = 31)) = true) := by
  refine ⟨(wit (q := fun _ => true) ?_).imp fun _ h => h.1, wit ?_, wit ?_, wit ?_, wit ?_, wit ?_, ?_, wit ?_⟩ <;> decide +kernel
theorem test_kill : (after .kill (at_ .kill inHandler 6)).map (fun g => (g.splits.length, g.retired.toNat, g.handler.isNone)) = some (0, 7, true) := by decide +kernel
theorem test_trap : faults (.trap .lit) (at_ (.trap .lit) id 0x80000000 9) = some .softwareTrap := by decide +kernel
/-- MAPPG framed the frame at HEAD and maps it (R223): pool header at 5 × 32 KiB with capacity 4, entries after it. -/
def pooled (i : Instr) : State :=
  let s := (walked 0 (at_ i inHandler 6 7)).modDie 0 fun d => { d with poolbase := 5 * 2 ^ 15 }
  let s := ((s.physWrite 0 (4 * 2 ^ 15) 8 0).physWrite 0 (5 * 2 ^ 15) 8 (5 * 2 ^ 15 + 64)).physWrite 0 (5 * 2 ^ 15 + 8) 4 4
  (s.physWrite 0 (5 * 2 ^ 15 + 16) 4 1).physWrite 0 (5 * 2 ^ 15 + 64) 8 9
theorem test_mappg : (next (.mappg (.v 4) .lit) (pooled (.mappg (.v 4) .lit))).map (fun t => (t.physRead 0 (4 * 2 ^ 15) 8, t.physRead 0 (5 * 2 ^ 15 + 12) 4,
    (t.group? 7).map fun g => g.tval.toNat)) = some (9 * 2 ^ 15 + 0x101F, 1, some 0) := by decide +kernel

theorem test_mappg_lost : (next (.mappg (.v 4) .lit) { (pooled (.mappg (.v 4) .lit)).physWrite 0 (4 * 2 ^ 15) 8 1 with mapping := [⟨7, 0, 0, 4 * 2 ^ 15, 9 * 2 ^ 15 + 0x101F, 9⟩] }).map
    (fun t => ((t.die 0).spare, (t.group? 7).map fun g => g.tval.toNat, t.mapping)) = some (some 9, some 1, []) := by decide +kernel
/-- A check of what an issuing MAPPG meets: its own job, another of its die, and the start of a new one. -/
def maps (s : State) (q : State → Option MapJob → MapStart → Bool) : Bool :=
  go (.mappg (.v 4) .lit) s fun x =>
    let u := x.s.release x.g.id x.p.mask .pnl
    acts (.mappg (.v 4) .lit) x.c && q u (u.mapping.find? fun (j : MapJob) => j.group = x.g.id && j.split = x.p.id)
      (u.mapStart x.g.ctx x.g.die (x.src64 (.v 4) x.firstLane).toNat (x.src .lit x.firstLane).toNat)
/-- A frame is taken. -/
def framed : MapStart → Bool
  | .frame .. => true
  | _ => false
theorem witness_ControlOfTheMachine_map :
    let i : Instr := .mappg (.v 4) .lit
    maps { at_ i inHandler 6 3 with mapping := [⟨7, 0, 0, 8, 1, 1⟩] } (fun _ j _ => j.isSome) = true ∧
    maps { at_ i inHandler 6 3 with mapping := [⟨8, 0, 0, 8, 1, 1⟩] } (fun u j _ => j.isNone && u.mapping.any fun j => decide (j.die = 0)) = true ∧
    maps (at_ i inHandler 6 3) (fun u j m => j.isNone && u.mapping.isEmpty && match m with
      | .result n => decide (n = 3)
      | _ => false) = true ∧
    maps (pooled i) (fun u j m => j.isNone && !u.loose.slow && framed m) = true ∧
    maps { pooled i with loose := { slow := true } } (fun u j m => j.isNone && u.loose.slow && framed m) = true ∧
    maps { pooled i with poison := [Space.key (.phys 0 0) (5 * 2 ^ 15)] } (fun _ j m => j.isNone && match m with
      | .error => true
      | _ => false) = true := by decide +kernel

/-- The group has an open region of its split: v0 and v1 checkpointed, v1 of lane 5 as 9, p0 as lane 5's. -/
def regioned (hard : Bool) (version : List (Nat × Byte)) (g : Group) : Group :=
  { g with region := some { first := 0, count := 2, header := 0x1000, lanes := 0xFFFFFFFF, wb := 0, join := none, regs := [(37, 9)], preds := [(0, 32)],
                            depths := List.replicate 32 0, hard, version } }.modSplit 0 fun p => { p with opener := true }
theorem witness_VersionedRegions :
    (∃ x, Issues (.vbegin 0 96) (at_ (.vbegin 0 96)) x ∧ (!x.g.outstanding x.p.mask && inMask x.p.mask 31) = true) ∧
    (∃ x, Issues (.vbegin 95 1) (at_ (.vbegin 95 1) loading) x ∧ x.g.outstanding x.p.mask = true) ∧
    (∃ x, Issues .vend (at_ .vend (regioned false [(cell 0, 7)])) x ∧ (x.p.opener && x.g.region.any fun r => !r.hard) = true) ∧
    (∃ x, Issues .vend (at_ .vend (regioned true [])) x ∧ (x.p.opener && x.g.region.any fun r => r.hard) = true) ∧
    (∃ x, Issues .vend (at_ .vend) x ∧ x.g.region.isNone = true) ∧
    (((at_ .nop (regioned false [])).group? 7).any fun g => (g.split? 0).any fun p => p.opener && g.region.any fun r => !r.hard) = true := by
  refine ⟨wit ?_, wit ?_, wit ?_, wit ?_, wit ?_, ?_⟩ <;> decide +kernel
theorem witness_VersionedRegions_store :
    (∃ x, Issues (.st .n32 (.v 2) (.v 4) .zero) (glob (.st .n32 (.v 2) (.v 4) .zero) (fun g => regioned false [] (ptrs 0x100 0 g)) 1) x ∧
      (x.p.opener && granted (x.lanes x.s x.activeLanes (fun l => x.src64 (.v 4) l + sext64 (x.src .zero l)) 4 4 { w := true } true false)
        fun s gs => (gs.all fun e => !s.lineBlocked x.g.die e.2.pa) && x.g.region.any fun r =>
          let v := versionAdd s r.version (remaining s.tick LaneWrite.place (grantWrites gs (x.storeData .n32 (.v 2))))
          !r.hard && decide (versionLines v = 1) && decide (s.dieVersionLines x.g.die + (versionLines v - versionLines r.version) ≤ 131072)) = true) :=
  wit (by decide +kernel)
/-- A region's store changes no memory until VEND, and an abort puts the registers back (R361, R364). -/
theorem test_regions :
    memAfter (.st .n32 (.v 2) (.v 4) .zero) (glob (.st .n32 (.v 2) (.v 4) .zero) (fun g => regioned false [] (ptrs 0x100 0 (g.setReg 2 0 77))) 1) (cell 0x100) 4 = some 0 ∧
    memAfter .vend (at_ .vend (regioned false [(cell 0, 7)])) (cell 0) 1 = some 7 ∧
    (((at_ .nop fun g => (regioned false [] g).setReg 1 5 3).abortRegion 7 0).group? 7).map (fun g => ((g.reg 1 5).toNat, g.pred 0 5, g.last.toNat, g.splits.map fun p => p.pc))
      = some (9, true, 2, [0x1000]) := by decide +kernel

/-- The launch has other fields than `mk` gives it. -/
def launched (f : LaunchRec → LaunchRec) (s : State) : State :=
  { s with launches := s.launches.map fun (l : Launch) => { l with record := f l.record, origin := some (0, 0) } }
/-- Queue 0 is enabled for context 0, with this depth; the resident launch counts as one. -/
def queue0 (depth : Nat) (s : State) : State := { s with queues := setAt s.queues 0 { ctl := 1, depth } }
/-- An instruction on path GLB waits for the ownership of a line (R239). -/
def onLine (g : Group) : Group := { busy .glb false 1 g with flights := (busy .glb false 1 g).flights.map fun f => { f with lines := [0x100] } }
theorem witness_LaunchAndPhaseend :
    (∃ x, Issues (.launchG (.v 4) .zero) (glob (.launchG (.v 4) .zero) id 0) x ∧ (!x.anyActive) = true) ∧
    (∃ x, Issues (.launchG (.v 4) .zero) { glob (.launchG (.v 4) .zero) (ptrs 0x200 128) with poison := [cell 0x200] } x ∧
      (x.anyActive && granted (x.lanes x.s x.activeLanes (fun l => x.src64 (.v 4) l) 128 128 { r := true } true false) fun s gs =>
        (recordPoison? ((s.harden x.g.id x.p.id 4).release x.g.id x.p.mask .pnl) gs).isSome) = true) ∧
    (∃ x, Issues (.launchL (.v 4) .zero) (queue0 33 (glob (.launchL (.v 4) .zero) (ptrs 0x200 128))) x ∧
      (x.anyActive && granted (x.lanes x.s x.activeLanes (fun l => x.src64 (.v 4) l) 128 128 { r := true } true false) fun s gs =>
        let u := (s.harden x.g.id x.p.id 4).release x.g.id x.p.mask .pnl
        (recordPoison? u gs).isNone && (recordBytes u gs).all fun e => u.queueRoom (fieldAt e.2 26 1) 32) = true) ∧
    (∃ x, Issues (.launchG (.v 4) .zero) (queue0 1 (glob (.launchG (.v 4) .zero) (ptrs 0x200 128))) x ∧
      (x.anyActive && granted (x.lanes x.s x.activeLanes (fun l => x.src64 (.v 4) l) 128 128 { r := true } true false) fun s gs =>
        let u := (s.harden x.g.id x.p.id 4).release x.g.id x.p.mask .pnl
        (recordPoison? u gs).isNone && ((recordBytes u gs).find? fun e => e.1 = x.firstLane).any fun e => !u.queueRoom (fieldAt e.2 26 1) 1) = true) ∧
    (∃ x, Issues (.phaseend .add .lit) (at_ (.phaseend .add .lit) id 0) x ∧ (!x.anyActive) = true) ∧
    (∃ x, Issues (.phaseend .or .lit) (launched (fun r => { r with phase := 0 }) (at_ (.phaseend .or .lit))) x ∧
      (x.anyActive && decide ((x.s.recordOf x.g).phase = 0)) = true) ∧
    (∃ x, Issues (.phaseend .add (.v 2)) (glob (.phaseend .add (.v 2))) x ∧ (x.anyActive && decide ((x.s.recordOf x.g).phase = 0x40) &&
      let u := x.atRelease 4
      !x.releaseOpen u && (u.group? 7).any (fun h => h.flights.all fun f => decide (f.id < h.nextFlight)) &&
      match hwPlace u x.g.ctx x.g.die 0x40 { r := true, w := true } with
        | .ok (s, .cell k _, _) => decide (k = cell 0x40) && !s.poisoned k 4
        | _ => false) = true) ∧
    (∃ x, Issues (.phaseend .add (.v 2)) { glob (.phaseend .add (.v 2)) onLine with acks := [counted] } x ∧ (x.anyActive && decide ((x.s.recordOf x.g).phase = 0x40) &&
      x.releaseOpen (x.atRelease 4)) = true) := by
  refine ⟨wit ?_, wit ?_, wit ?_, wit ?_, wit ?_, wit ?_, wit ?_, wit ?_⟩ <;> decide +kernel
/-- PHASEEND.ADD of the lane numbers adds 496 (R171); LAUNCH.L makes a child for each lane (R168). -/
theorem test_launch_phaseend : memAfter (.phaseend .add (.v 2)) ((glob (.phaseend .add (.v 2)) (ramp 1)).writeMem (cell 0x40) [4]) (cell 0x40) 4 = some 500 ∧
    (next (.launchL (.v 4) (.v 2)) (queue0 33 (glob (.launchL (.v 4) (.v 2)) (fun g => ptrs 0x200 128 (ramp 3 g))))).map (fun t => t.children.map fun c => (c.addr.toNat, c.arg.toNat))
      = some ((List.range 32).map fun l => (0x200 + 128 * l, 3 * l)) := by decide +kernel
/-- The group's split is held at a barrier. -/
def heldAt (h : Hold) (i : Instr) : State := at_ i fun g => g.modSplit 0 fun p => { p with hold := h }
theorem witness_Barriers :
    (∃ x, Issues (.bar 15) (at_ (.bar 15)) x ∧ (!x.g.isHost) = true) ∧
    (∃ x, Issues (.bar 0) (at_ (.bar 0) fun g => { g with isHost := true }) x ∧ x.g.isHost = true) ∧
    (∃ x, Issues (.cbar 1) (launched (fun r => { r with flags := 1 }) (at_ (.cbar 1))) x) ∧
    (∃ x, Issues (.regroup 15 (.v 0) 4 2) (at_ (.regroup 15 (.v 0) 4 2)) x ∧ (!badRegroup x.s x.g x.p 15) = true) ∧
    (∃ x, Issues (.regroup 0 (.v 0) 4 2) (at_ (.regroup 0 (.v 0) 4 2) (called 1)) x ∧ badRegroup x.s x.g x.p 0 = true) ∧
    (heldAt (.bar 3) (.bar 3)).barReady?.isSome = true ∧ (heldAt (.cbar 1) (.cbar 1)).cbarReady?.isSome = true ∧
    (heldAt (.regroup 2) (.regroup 2 (.v 0) 4 2)).regroupReady?.isSome = true ∧
    (((mk ((gr (sp [encode (.bar 3), encode .nop])).modSplit 0 fun p => { p with hold := .bar 3 })).group? 7).any fun g => g.splits.head?.any fun p =>
      decide (g.splits = [p]) && decide (p.hold = .bar 3) && p.clause.any fun c => decide (c.idx + 1 < c.words.length) && !c.only) = true := by
  refine ⟨wit ?_, wit ?_, (wit (q := fun _ => true) ?_).imp fun _ h => h.1, wit ?_, wit ?_, ?_, ?_, ?_, ?_⟩ <;> decide +kernel
/-- R151–R153: active lanes 1 and 3 become lanes 0 and 1 of the group, and v0 holds where each came from. -/
theorem test_regroup : (after .regroupComplete (mk (((gr (sp [encode (.regroup 2 (.v 0) 4 2)] 10)).modSplit 0 fun p => { p with hold := .regroup 2 }).setReg 4 3 55))).map (fun g => ((g.reg 0 0).toNat, (g.reg 0 1).toNat, (g.reg 4 1).toNat, g.retired.toNat, g.splits.map fun p => p.mask)) =
    some (1, 3, 55, 0xFFFFFFFC, [3]) := by decide +kernel
theorem witness_Places :
    (∃ x, Issues (.placeCl (.v 0) .zero) (launched id (at_ (.placeCl (.v 0) .zero))) x ∧
      (x.lanesFor (.v 0)).all (fun l => (x.s.placeCl x.g (signed 32 (x.val false .zero l))).isSome) = true) ∧
    (∃ x, Issues (.placeRect (.v 0) .zero) (launched id (at_ (.placeRect (.v 0) .zero))) x ∧
      (x.lanesFor (.v 0)).all (fun l => (x.s.placeAt x.g (signed 16 (x.val false .zero l % 2 ^ 16)) (signed 16 (x.val false .zero l / 2 ^ 16 % 2 ^ 16))).isSome) = true) ∧
    (∃ x, Issues (.placeDie (.v 0) .lit) (launched id (at_ (.placeDie (.v 0) .lit) id 1 1)) x ∧
      (x.lanesFor (.v 0)).any (fun l => (x.s.placeAt x.g (((x.s.coords x.g).1 : Int) + signed 16 (x.val false .lit l % 2 ^ 16))
        (((x.s.coords x.g).2 : Int) + signed 16 (x.val false .lit l / 2 ^ 16 % 2 ^ 16))).isNone) = true) ∧
    (∃ x, Issues (.placeFab (.v 0) .zero) (at_ (.placeFab (.v 0) .zero)) x ∧
      (x.lanesFor (.v 0)).all (fun l => (x.s.placeFab x.g (signed 32 (x.val false .zero l))).isSome) = true) := by
  refine ⟨wit ?_, wit ?_, wit ?_, wit ?_⟩ <;> decide +kernel

/-! ### Ports, copies, matrices -/

theorem witness_Ports :
    (∃ x, Issues (.qbind (.q 7) .mrow) (at_ (.qbind (.q 7) .mrow)) x ∧
      ((x.g.ports.getD (portNum (.q 7)) {}).code.isNone && (x.g.portOf .mrow).isNone) = true) ∧
    (∃ x, Issues (.qbind (.q 7) .mrow) (at_ (.qbind (.q 7) .mrow) (port .mrow 0)) x ∧ (x.g.portOf .mrow).isSome = true) ∧
    (∃ x, Issues (.qcount (.s 0) (.q 0)) (at_ (.qcount (.s 0) (.q 0)) (port .mrow 16)) x ∧ (x.g.ports.getD 0 {}).code.isSome = true) ∧
    (∃ x, Issues (.qcount (.s 0) (.q 1)) (at_ (.qcount (.s 0) (.q 1)) (port .mrow 0)) x ∧ (x.g.ports.getD 1 {}).code.isNone = true) ∧
    (∃ x, Issues (.qdrain (.q 1)) (at_ (.qdrain (.q 1))) x ∧ (x.g.ports.getD 1 {}).code.isNone = true) ∧
    (∃ x, Issues (.qunbind (.q 0)) (at_ (.qunbind (.q 0)) (port .mrow 16)) x ∧
      (decide ((x.g.ports.getD 0 {}).code = some .mrow) && decide (x.p.hold ≠ .port) && !x.g.pushing (some .mrow) x.g.nextFlight) = true) ∧
    (∃ x, Issues (.qdrain (.q 0)) (at_ (.qdrain (.q 0)) fun g => (port .gather 0 { g with
        ports := g.ports, nextFlight := 1, flights := [{ id := 0, split := 0, mask := 1, flag := none, path := some .gat, work := .gather [] ⟨[], .n32, 1, 0⟩ }] }).modSplit 0
          fun p => { p with hold := .port }) x ∧ (decide (x.p.hold = .port) && (x.g.engineFaultFor x.p).isNone) = true) := by
  refine ⟨wit ?_, wit ?_, wit ?_, wit ?_, wit ?_, wit ?_, wit ?_⟩ <;> decide +kernel
theorem test_ports : (after (.qunbind (.q 0)) (at_ (.qunbind (.q 0)) (port .mrow 16))).map (fun g => (g.ports.getD 0 {}).code.isNone) = some true ∧
    (after (.qcount (.s 2) (.q 0)) (at_ (.qcount (.s 2) (.q 0)) (port .mrow 16))).map (fun g => (g.scalar 2).toNat) = some 16 ∧
    faults (.qbind (.q 7) .mrow) (at_ (.qbind (.q 7) .mrow) (port .mrow 0)) = some .queueMisuse := by decide +kernel

/-- s8 to s11 hold four words. -/
def four (ws : List Nat) (g : Group) : Group := ws.zipIdx.foldl (fun g e => g.setScalar (8 + e.2) (BitVec.ofNat 32 e.1)) g
/-- An instruction of a path is under way with some work. -/
def working (p : Path) (w : Work) (g : Group) : Group :=
  { g with flights := [{ id := 0, split := 0, mask := 1, flag := none, path := some p, long := true, work := w }], nextFlight := 1 }
/-- 48 bytes from global 0x100 to the scratchpad at 0x10: a unit ends at 0x20. -/
def load48 : CopyDesc := { kind := 0, gaddr := 0x100, laddr := 0x10, ctl := 48 }
theorem witness_Copies :
    (∃ x, Issues (.cpyl (.s 8)) (at_ (.cpyl (.s 8)) id 0) x ∧ (!x.anyActive) = true) ∧
    (∃ x, Issues (.cpyl (.s 8)) (at_ (.cpyl (.s 8)) (four [0x100, 0, 0x10, 48])) x ∧ (x.anyActive && ((x.copyDesc 0 (.s 8)).check x.s x.g).isNone) = true) ∧
    (∃ x, Issues (.cpym (.s 8)) (at_ (.cpym (.s 8)) (four [0x100, 0, 0x10, 48])) x ∧ (x.anyActive && ((x.copyDesc 2 (.s 8)).check x.s x.g).isSome) = true) ∧
    (let s := mapped rw (at_ .nop (working .cpy (.copy load48)))
     (s.pick s.copies).any (fun e => (unitAt e.2.2.toGlobal e.2.2.pieces e.2.1.progress).any fun u => match copyUnit s e.1 e.2.1 e.2.2 u with
       | .ok _ => true
       | _ => false) = true) ∧
    (let s := at_ .nop (working .cpy (.copy load48))
     ((s.pick s.copies).any (fun e => (unitAt e.2.2.toGlobal e.2.2.pieces e.2.1.progress).any fun u => match copyUnit s e.1 e.2.1 e.2.2 u with
       | .error (some t) => !t.denied
       | _ => false) && s.orphan?.isNone) = true) ∧
    (let s := at_ .nop (port .cpycmd 1)
     (s.pick s.commands).any (fun e => decide ((e.1.ports.getD e.2.1 {}).partialCmd.length < 4) && decide (s.group? e.1.id = some e.1)) = true) ∧
    (∃ d : CopyDesc, d.rows = 1 ∧ d = load48) := by
  refine ⟨wit ?_, wit ?_, wit ?_, ?_, ?_, ?_, ⟨_, ?_, rfl⟩⟩ <;> decide +kernel
theorem witness_Copies_gather :
    (∃ x, Issues (.gath (.v 4) .lit) (at_ (.gath (.v 4) .lit) id 0) x ∧ (!x.anyActive) = true) ∧
    (∃ x, Issues (.gath (.v 4) .lit) (at_ (.gath (.v 4) .lit) id 1) x ∧ (x.anyActive && (x.g.portOf .gather).isNone) = true) ∧
    (∃ x, Issues (.gath (.v 4) .lit) (at_ (.gath (.v 4) .lit) (port .gather 0) 1 8) x ∧
      (x.anyActive && (x.g.portOf .gather).isSome && badElem (x.src .lit x.firstLane).toNat) = true) ∧
    (∃ x, Issues (.gath (.v 4) .lit) (mapped rw (at_ (.gath (.v 4) .lit) (fun g => port .gather 0 (ptrs 0x100 4 g)) 3 0x00801F04)) x ∧
      (x.anyActive && !badElem 0x00801F04 && decide (elemWidth (0x00801F04 % 8) = some .n32) &&
        match eachItem x.s (gatherItems x.activeLanes 32) (fun i => i.1) (fun i => x.src64 (.v 4) i.1 + BitVec.ofNat 64 (i.2 * 128)) false (fun s i =>
          access s x.g.agent (x.src64 (.v 4) i.1 + BitVec.ofNat 64 (i.2 * 128)).toNat 4 4 { r := true }) with
        | .ok (_, gs) => gs.all fun e => match e.2.place with
            | .cell .. => true
            | _ => false
        | _ => false) = true) ∧
    (let s := at_ .nop fun g => port .gather 0 (working .gat (.gather [{ words := List.replicate 32 9, mask := 1 }] ⟨[(0, 0x100)], .n32, 1, 0⟩) g)
     (s.pick s.gathers).any (fun e => e.2.1.fault.isNone && match gatherEntry s e.1 e.2.1 e.2.2.1 e.2.2.2 with
       | .ok (s', t) => (s'.group? e.1.id).any fun h => (h.enginePush .gather e.2.1.id t).isSome
       | _ => false) = true) := by
  refine ⟨wit ?_, wit ?_, wit ?_, wit ?_, ?_⟩ <;> decide +kernel
/-- R269: the first unit of that copy is 16 bytes, to the end of a sector of its destination. -/
theorem test_copy_unit : unitAt false load48.pieces 0 = some (0x100, 0x10, 16) ∧ unitAt false load48.pieces 1 = some (0x110, 0x20, 32) ∧
    unitAt false load48.pieces 2 = none ∧
    memAfter .copyUnit ((mapped rw (at_ .nop (working .cpy (.copy load48)))).writeMem (cell 0x10F) [7]) (Space.key (.scratch 1) 0x1F) 1 = some 7 ∧
    ((mapped rw (at_ .nop (working .cpy (.copy load48)))).groups.map fun g => g.pathCount .cpy) = [1] := by decide +kernel
/-- CPYL of a descriptor with level 3 (R271). -/
theorem test_copy_check : faults (.cpyl (.s 8)) (at_ (.cpyl (.s 8)) (four [0x100, 0, 0x10, 0xC0000030])) = some .illegalOperand ∧
    faults (.cpyl (.s 8)) (at_ (.cpyl (.s 8)) (four [0x108, 0, 0x10, 48])) = some .align := by decide +kernel

/-- A scratchpad of 8 KiB, with bytes at an offset. -/
def pad (off : Nat) (bs : List Nat) (s : State) : State :=
  (launched (fun r => { r with scratch := 8192 }) s).writeMem (Space.key (.scratch 1) off) (bs.map (BitVec.ofNat 8))
/-- INT8 by INT8 with rows of 64 bytes, drained as INT32 (R281); and E2M1 in blocks of 16 with rows of 16 bytes and scales at 2,048. -/
def int8s : List Byte := [8, 8, 4, 0, 4] ++ List.replicate 9 0 ++ [10] ++ List.replicate 17 0
def e2m1s : List Byte := [0x15, 0x15, 1, 0, 1, 0, 0, 8, 0, 0, 0, 8, 0, 0, 5] ++ List.replicate 17 0
def withFmt (f : List Byte) (g : Group) : Group := { g with fmt := some f }
/-- 32 entries stand in the core's matrix queue. -/
def queued (g : Group) : Group :=
  { g with flights := (List.range 32).map fun k => { id := k, split := 0, mask := 1, flag := none, path := some .mat, work := .mstat 0 none }, nextFlight := 32 }
theorem witness_MatrixInstructions_mma :
    ∃ x, Issues (.mmaSet ⟨false, false⟩ 3 (.s 8) (.s 9)) (pad 0 [] (at_ (.mmaSet ⟨false, false⟩ 3 (.s 8) (.s 9)) (fun g => four [0, 2048] (withFmt int8s g)))) x ∧
      (x.anyActive && (x.s.tileFault x.g 3).isNone && decide (x.g.fmt = some int8s) && decide (x.addrOf (.s 8) = 0) && decide (x.addrOf (.s 9) = 2048) &&
        x.s.operandFits x.g (FBlock.operand int8s false) 0 (FBlock.k int8s) && x.s.operandFits x.g (FBlock.operand int8s true) 2048 (FBlock.k int8s) &&
        !x.s.matrixFull x.g) = true := wit (by decide +kernel)
theorem witness_MatrixInstructions_jobs :
    (∃ x, Issues (.mclr 0) (at_ (.mclr 0) queued) x ∧ (x.anyActive && (x.s.tileFault x.g 0).isNone && x.s.matrixFull x.g) = true) ∧
    (∃ x, Issues (.mload 3 (.s 8)) (pad 0 [] (at_ (.mload 3 (.s 8)) (four [4096]))) x ∧ (x.anyActive && decide (x.addrOf (.s 8) = 4096) &&
      (x.activeLanes.all fun l => (x.s.clu x.g (x.addrOf (.s 8)) (128 * l) 128).isSome) && !x.s.matrixFull x.g) = true) ∧
    (∃ x, Issues (.mdrain 3 (.s 8)) (pad 0 [] (at_ (.mdrain 3 (.s 8)) (fun g => four [4096] (withFmt int8s g)))) x ∧ (x.anyActive && !FBlock.res int8s &&
      (x.activeLanes.all fun l => (x.s.clu x.g (x.addrOf (.s 8)) (l * rowPitch (FBlock.out int8s)) (rowPitch (FBlock.out int8s))).isSome)) = true) ∧
    (∃ x, Issues (.mdrainMrow 0 (.s 0)) (at_ (.mdrainMrow 0 (.s 0)) (fun g => port .mrow 0 (withFmt int8s g))) x ∧
      (x.anyActive && (x.g.portOf .mrow).isSome && decide (x.g.fmt = some int8s)) = true) ∧
    (∃ x, Issues (.mtrq (.s 8) (.s 9)) (pad 0 [] (at_ (.mtrq (.s 8) (.s 9)) (fun g => four [0, 4096] (withFmt e2m1s g)))) x ∧ (x.anyActive && !x.g.isHost &&
      mtrqFormat e2m1s && decide ((mtrqSource e2m1s).scales % 16 = 0) && x.s.operandFits x.g (mtrqSource e2m1s) (x.addrOf (.s 8)) 32 &&
      (x.s.clu x.g (x.addrOf (.s 9)) 0 (32 * rowPitch (mtrqSource e2m1s).fmt + 32 * (32 / (mtrqSource e2m1s).len))).isSome) = true) := by
  refine ⟨wit ?_, wit ?_, wit ?_, wit ?_, wit ?_⟩ <;> decide +kernel
theorem witness_MatrixInstructions_others :
    (∃ x, Issues (.mclr 4) (at_ (.mclr 4)) x ∧ (x.anyActive && decide ((x.s.recordOf x.g).accum ≤ 4)) = true) ∧
    (∃ x, Issues (.mmaAcc ⟨false, false⟩ 3 (.s 8) (.s 9)) (at_ (.mmaAcc ⟨false, false⟩ 3 (.s 8) (.s 9))) x ∧ (x.anyActive && (x.s.tileFault x.g 3).isNone && x.g.fmt.isNone) = true) ∧
    (∃ x, Issues (.mfmt (.s 8)) (pad 64 (int8s.map BitVec.toNat) (at_ (.mfmt (.s 8)) (four [64]))) x ∧ (x.anyActive && !x.g.isHost && !x.s.matrixFull x.g &&
      (x.s.clu x.g (x.addrOf (.s 8)) 0 32).any fun k => !x.draining k && (FBlock.bad (x.s.bytesAt k 32)).isNone) = true) ∧
    (∃ x, Issues (.mfmt (.s 8)) (at_ (.mfmt (.s 8)) (four [992])) x ∧ (x.anyActive && !x.g.isHost && !x.s.matrixFull x.g &&
      (x.s.clu x.g (x.addrOf (.s 8)) 0 32).any fun k => !x.draining k && decide (FBlock.bad (x.s.bytesAt k 32) = some 0)) = true) ∧
    (∃ x, Issues (.mseed (.s 8)) (at_ (.mseed (.s 8))) x) ∧
    (∃ x, Issues (.mstat (.s 15) 3) (at_ (.mstat (.s 15) 3)) x ∧ ((x.s.tileFault x.g 3).isNone && !x.s.matrixFull x.g) = true) := by
  refine ⟨wit ?_, wit ?_, wit ?_, wit ?_, (wit (q := fun _ => true) ?_).imp fun _ h => h.1, wit ?_⟩ <;> decide +kernel
theorem test_matrix_faults : faults (.mclr 4) (at_ (.mclr 4)) = some .regRange ∧
    (after (.mfmt (.s 8)) (at_ (.mfmt (.s 8)) (four [992]))).map (fun g => g.splits.map fun p => p.pend.map fun t => (t.cause, t.tval.toNat))
      = some [some (.formatBlock, 0)] := by decide +kernel

/-- A job of a kind on tile 0 with INT8 operands at 0 and 2,048. -/
def job (k : Nat) (f : List Byte := int8s) : MatrixJob := { kind := k, tile := 0, a := 0, b := 2048, fmt := f, seed := 0 }
/-- The event's pick is this work. -/
def headIs (drain : Bool) (s : State) (q : Group → Flight → Bool) : Bool :=
  (s.pick ((if drain then s.mrowHeads else []) ++ s.matrixHeads.filter fun e => e.2.work.isDrain == drain)).any fun e => q e.1 e.2
theorem witness_MatrixExecution :
    (∀ k ∈ [0, 1, 2, 3, 6], headIs false (pad 0 [] (at_ .nop (working .mat (.matrix (job k))))) (fun _ f => decide (f.work = .matrix (job k))) = true) ∧
    (let s := pad 0 [] (at_ .nop (working .mat (.matrix (job 1))))
     headIs false s (fun g f => (s.mmaBad g f (job 1)).isNone) = true) ∧
    (let f := [8, 8, 4, 0, 4] ++ List.replicate 9 0 ++ [10, 0x10] ++ List.replicate 16 (0 : Byte)
     let s := pad 0 [1] (at_ .nop (working .mat (.matrix (job 1 f))))
     headIs false s (fun g e => decide (s.mmaBad g e (job 1 f) = some 0)) = true) ∧
    headIs false (at_ .nop (working .mat (.mstat 0 (some 15)))) (fun _ f => decide (f.work = .mstat 0 (some 15))) = true ∧
    (∀ k ∈ [4, 5], headIs true (pad 0 [] (at_ .nop (working .mat (.matrix (job k))))) (fun _ f => decide (f.work = .matrix (job k))) = true) ∧
    headIs true (at_ .nop fun g => port .mrow 0 (working .mat (.mrow [{ words := List.replicate 32 9, mask := 1 }]) g))
      (fun g f => (g.enginePush .mrow f.id { words := List.replicate 32 9, mask := 1 }).isSome) = true ∧
    lanesOf 0x80000000 = [31] ∧ (FBlock.operand (job 1).fmt false).fmt = 8 := by decide +kernel
/-- Row 0 of A is −1 and 2, column 0 of B 3 and 5: the product adds 7 to what stands in the tile (R287). -/
theorem test_int_mma : let s := (pad 0 [255, 2] (pad 2048 [3, 5] (at_ .nop))).writeMem (accKey (gr (sp [])) 0 0 0) [1]
    (s.mmaElem (gr (sp [])) (job 0) 0 0).1 = 8 ∧ (s.mmaElem (gr (sp [])) (job 1) 0 0).1 = 7 := by decide +kernel
theorem test_mclr_mstat : (next .matrixExecute ((at_ .nop (working .mat (.matrix (job 2)))).writeMem (accKey (gr (sp [])) 0 0 0) [9])).map (fun t => t.mem) = some [] ∧
    (after .matrixExecute ((at_ .nop (working .mat (.mstat 0 (some 15)))).setStatus (gr (sp [])) 0 0x80000003)).map (fun g => g.flights.map fun f => decide (f.work = .results [.scal 15 0x80000003] none none)) = some [true] := by
  decide +kernel

/-! ### Rendering -/

/-- A pass of 64 × 64 pixels in squares of 16, one plane that is written out to 0x1000 with a pitch of 256 bytes, two
sub-passes, parameter buffer of 4,096 bytes at 0x400, owned by die 0. -/
def passBytes : List Byte :=
  (List.range 448).map fun k => BitVec.ofNat 8 (([(0, 64), (2, 64), (5, 1), (6, 2), (8, 1), (13, 16), (17, 4), (321, 16), (332, 16), (334, 16)].find? fun e => e.1 = k).elim 0 fun e => e.2)
def thePass : Pass :=
  { id := 9, ctx := 0, desc := 0x2000, bytes := passBytes, rectf := 1, rectr := 1, origin := some (0, 0),
    owners := [{ closed := true, stored := 1 }], draws := [(0, 4)] }
/-- The launch names that pass; it is a task launch, or a pixel launch when its flags say so. -/
def passed (flags : Nat) (s : State) : State :=
  { s with passes := [thePass],
           launches := s.launches.map fun (l : Launch) => { l with pass := some 9, record := { l.record with flags, groups := 2 }, origin := some (0, 0) } }
/-- The workgroup runs square 0, of whose packets `next` are taken. -/
def squared (next : Nat) (s : State) : State :=
  (passed 16 s).modWorkgroup 1 fun w => { w with square := some { pass := 9, owner := 0, sid := 0, total := 1, next } }
/-- A packet of a primitive for square 0: the triangle (0, 0), (16, 0), (0, 16). -/
def tri : List Byte :=
  bytesOf 8 0 ++ bytesOf 16 0 ++ bytesOf 4 0x41800000 ++ bytesOf 12 0 ++ bytesOf 4 0 ++ bytesOf 4 0x41800000 ++ bytesOf 8 0 ++ bytesOf 8 0
def packet (close : Bool) (sent : Bool) : SortPacket :=
  { id := 1, pass := 9, owner := 0, src := 0, close, turn := 0, bytes := tri, num := 0, group := 7, flight := 0, sent }

theorem witness_RenderingInstructions_emission :
    (∃ x, Issues (.emitv (.v 4) (.v 2)) (passed 8 (at_ (.emitv (.v 4) (.v 2)) id 0x80000000)) x ∧ (x.anyActive && decide (x.activeLanes = [31])) = true) ∧
    (∃ x, Issues (.emitp (.v 4) (.v 2)) (passed 8 (at_ (.emitp (.v 4) (.v 2)) fun g => { g with prims := 225 })) x ∧
      (decide (x.s.passOf x.g = some thePass) && decide (256 < x.g.prims + x.activeLanes.length)) = true) ∧
    (∃ x, Issues (.emitp (.v 4) (.v 2)) (passed 8 (at_ (.emitp (.v 4) (.v 2)) fun g => { g with prims := 224 })) x ∧
      (decide (x.s.passOf x.g = some thePass) && decide (x.g.prims + x.activeLanes.length ≤ 256) && x.anyActive && decide (x.s.unaccepted x.g.die < 512)) = true) ∧
    (∃ x, Issues (.emitp (.v 4) (.v 2)) { passed 8 (at_ (.emitp (.v 4) (.v 2))) with sorts := List.replicate 512 (packet false true) } x ∧
      (decide (x.g.prims + x.activeLanes.length ≤ 256) && x.anyActive && decide (512 ≤ x.s.unaccepted x.g.die)) = true) ∧
    (∃ x, Issues .emitend (passed 8 (at_ .emitend)) x ∧ (decide (x.s.passOf x.g = some thePass) && decide (x.s.unaccepted x.g.die < 512)) = true) := by
  refine ⟨wit ?_, wit ?_, wit ?_, wit ?_, wit ?_⟩ <;> decide +kernel
theorem witness_RenderingInstructions_tiles :
    (∃ x, Issues (.tload (.v 0) (.v 2)) (squared 1 (at_ (.tload (.v 0) (.v 2)) (ramp 8))) x ∧ (acts (.tload (.v 0) (.v 2)) x.c &&
      (x.tileLanes ((x.tloadLanes (.v 0)).filter fun l => x.g.actsOn l && inMask x.active l) (.v 2)).any fun e => decide (e.2.2.2 = [])) = true) ∧
    (∃ x, Issues (.tload (.v 0) .lit) (squared 1 (at_ (.tload (.v 0) .lit) id 1 256)) x ∧ (acts (.tload (.v 0) .lit) x.c &&
      (x.tileLanes ((x.tloadLanes (.v 0)).filter fun l => x.g.actsOn l && inMask x.active l) .lit).any fun e => decide (e.2.2.2 = [0])) = true) ∧
    (∃ x, Issues (.tstore (.v 0) .lit) (squared 1 (at_ (.tstore (.v 0) .lit) id 1 255)) x ∧ (acts (.tstore (.v 0) .lit) x.c &&
      (x.tileLanes x.activeLanes .lit).any fun e => decide (e.2.2.2 = [])) = true) ∧
    (∃ x, Issues (.tstore (.v 0) .lit) (squared 1 (at_ (.tstore (.v 0) .lit) id 1 256)) x ∧ (acts (.tstore (.v 0) .lit) x.c &&
      (x.tileLanes x.activeLanes .lit).any fun e => decide (e.2.2.2 = [0])) = true) ∧
    (∃ x, Issues .tnext (squared 1 (at_ .tnext)) x) ∧
    (∃ x, Issues .tdone (squared 1 (at_ .tdone)) x ∧ ((x.s.squareOf x.g).any Square.drained && decide (x.g.pathCount .rnd = 0)) = true) ∧
    (∃ x, Issues .tdone (squared 0 (at_ .tdone)) x ∧ (x.s.squareOf x.g).any (fun q => !q.drained) = true) := by
  refine ⟨wit ?_, wit ?_, wit ?_, wit ?_, (wit (q := fun _ => true) ?_).imp fun _ h => h.1, wit ?_, wit ?_⟩ <;> decide +kernel
theorem test_rendering : (after (.emitv (.v 4) (.v 2)) (passed 8 (at_ (.emitv (.v 4) (.v 2)) (fun g => (g.setReg 5 31 77).setReg 2 31 0x103) 0x80000000))).map (fun g => (g.vert 3 1).toNat)
      = some 77 ∧
    (after (.emitp (.v 4) (.v 2)) (passed 8 (at_ (.emitp (.v 4) (.v 2)) fun g => { g with prims := 224 }))).map (fun g => g.prims) = some 256 ∧
    faults (.tload (.v 0) .lit) (squared 1 (at_ (.tload (.v 0) .lit) id 1 256)) = some .scrBounds := by decide +kernel
/-- Blend 4 of R317: half of white over black, alpha 0x80. -/
theorem test_blend : blendWord 4 0 0x80FFFFFF = 0x80808080 ∧ blendWord 5 0xFFFFFFFF 2 = 1 ∧ blendWord 2 7 9 = 7 := by decide

/-- The square starts at a machine whose page at 0 is mapped, with the packet in die 0's parameter buffer. -/
def shading (i : Instr) (next : Nat) (f : Group → Group := id) : State := (mapped rw (squared next (at_ i f))).writeMem (cell 0x440) tri
/-- A packet or marker that was sent reaches its owner: what the event takes. -/
def arrived (close : Bool) (f : SortPacket → SortPacket := id) : Option (MeshPacket × State) :=
  let s := mapped rw (passed 8 (at_ .nop))
  let q := f (packet close true)
  let s := { s with sorts := [q], packets := [s.sortPacket q] }
  s.takePacket (s.packetsOf (if close then 0x11 else 0x10))
/-- The owner's 16,384 entries are held for the oldest task group, whose packet 0 has not come. -/
def full (s : State) : State :=
  s.modPass 9 fun p => { p with owners := [{ held := List.replicate 16384 { packet false true with num := 2 } }] }
theorem witness_RenderingEvents :
    ({ passed 8 (at_ .nop) with sorts := [packet false false] }).sendable?.isSome = true ∧
    ([false, true].all fun c => (arrived c).any fun e => e.2.takesSort (packet c true) && (e.2.acceptSort (packet c true)).isOk) = true ∧
    ((arrived false fun p => { p with num := 1 }).any fun e =>
      !(full e.2).takesSort { packet false true with num := 1 }) = true ∧
    (let s := passed 16 (at_ .nop)
     (match s.decision with
      | some (.square l q _) => decide (l.pass = some 9) && decide (q.sid = 0) && (match readSeed s l q.die with
          | .ok _ => true
          | _ => false)
      | _ => false) = true) ∧
    (let s := shading .nop 0
     (s.pick s.dispatching).any (fun e => match nextBatch s e.2.2.1 e.2.1 e.1.die (e.2.1.total - e.2.1.next) e.2.1.next e.2.1.block with
      | .ok (_, some b) => decide (b.block = 0 ∧ b.cover = 0xFFFFFFFF)
      | _ => false) = true) ∧
    (let s := shading .nop 1 fun g => g.modSplit 0 fun p => { p with hold := .tnext }
     (s.pick s.nexts).any (fun e => s.controls e.1 && !s.lastSub e.1) = true) ∧
    (let s := shading .nop 1 (working .rnd .writeout)
     (s.pick s.writeouts).any (fun e => decide (((List.range e.2.2.2.planes).filter e.2.2.2.outPlane).length * e.2.2.2.side > e.2.1.progress) &&
       match writeoutUnit s e.1 e.2.1 e.2.2.1 e.2.2.2 e.2.1.progress with
        | .ok _ => true
        | _ => false) = true) := by decide +kernel
/-- R314 and R315: of the triangle's batch, lane 3 of block 0 is pixel (1, 1), and v0 its tile word. -/
theorem test_batch : (next .batchDispatch (shading .nop 0)).map (fun t => t.groups.map fun g => ((g.reg 0 3).toNat, (g.reg 1 3).toNat, (g.scalar 9).toNat, (g.pred 6 3))) =
    some [(0, 0, 0, false), (17, 0x00010001, 0xFFFFFFFF, true)] := by decide +kernel

/-! ### Textures, marches, rays -/

theorem witness_TexturesAndMarches_tex :
    (∃ x, Issues (.texl (.v 8) (.v 4) (.s 8)) (at_ (.texl (.v 8) (.v 4) (.s 8)) id 0) x ∧ (!acts (.texl (.v 8) (.v 4) (.s 8)) x.c) = true) ∧
    (∃ x, Issues (.texf (.v 8) (.v 4) (.s 8)) (mapped rw (at_ (.texf (.v 8) (.v 4) (.s 8)))) x ∧
      (x.anyActive && !x.g.isHost && match x.s.clusterReach x.g (x.src (.s 8) x.firstLane).toNat 32 with
        | .key k => (TexDesc.mk (x.s.bytesAt k 32)).bad.isNone &&
          (match eachItem x.s (texelItems x .texf ⟨x.s.bytesAt k 32⟩ (.v 4)) (fun i => i.lane) (fun i => i.addr) false (fun s i =>
              access s x.g.agent i.addr.toNat (TexDesc.mk (x.s.bytesAt k 32)).texel 1 { r := true }) with
            | .ok (_, gs) => decide (gs.length = 32) && gs.all fun e => match e.2.place with
                | .cell .. => true
                | _ => false
            | _ => false)
        | _ => false) = true) := by
  refine ⟨wit ?_, wit ?_⟩ <;> decide +kernel
/-- A TEXF of an RGBA8 texel 0xFF000080 (R324, R325): red 128 / 255 rounded, alpha 1. -/
theorem test_texf : (after (.texf (.v 8) (.v 4) (.s 8)) ((mapped rw (at_ (.texf (.v 8) (.v 4) (.s 8)) id 1)).writeMem (cell 0) [0x80, 0, 0, 0xFF])).map (fun g =>
    g.flights.map fun f => (match f.work with
      | .results ds _ _ => ds
      | _ => []).map fun (d : Dest) => match d with
      | .vec n _ v | .scal n v | .word n v => (n, v.toNat)) = some [[(8, 0x3F008081), (9, 0), (10, 0), (11, 0x3F800000)]] := by decide +kernel
/-- A march with no ray: its ring of two batches at 1,024. -/
def marchBytes : List Byte :=
  (List.range 64).map fun k => BitVec.ofNat 8 (([(30, 0x80), (31, 0x3F), (34, 0x80), (35, 0x3F), (36, 1), (49, 4), (52, 2), (53, 1), (54, 4), (56, 1)].find? fun e => e.1 = k).elim 0 fun e => e.2)
theorem witness_TexturesAndMarches_march :
    (∃ x, Issues (.hgfetch (.v 0) (.v 4) (.s 8)) (mapped rw (at_ (.hgfetch (.v 0) (.v 4) (.s 8)) (four [64]) 1)) x ∧ (acts (.hgfetch (.v 0) (.v 4) (.s 8)) x.c &&
      decide (4 ≤ (x.src (.s 8) x.scalarLane).toNat / 16 % 32) && granted (x.lanes x.s (x.lanesFor (.v 0)) (x.hgAddr (.v 4) 64) 4 4 { r := true } true false)) = true) ∧
    (∃ x, Issues (.march (.s 8)) (pad 0 (marchBytes.map BitVec.toNat) (at_ (.march (.s 8)) (port .msample 0))) x ∧
      (x.anyActive && (x.g.portOf .msample).isSome && decide (x.addrOf (.s 8) % 64 = 0) && (x.s.clu x.g (x.addrOf (.s 8)) 0 64).any fun k =>
        (x.s.clu x.g (MarchDesc.mk (x.s.bytesAt k 64)).ring 0 ((MarchDesc.mk (x.s.bytesAt k 64)).nbuf * 2304)).isSome && (MarchDesc.mk (x.s.bytesAt k 64)).bad.isNone) = true) ∧
    (let s := pad 0 [] (at_ .nop fun g => port .msample 0 (working .ray (.march marchBytes 0 0 0 0 0) g))
     (s.pick (s.marchHeads.filter March.room)).any (fun m => match takeSamples s m.g m.d m.pool m.slot m.step 32 with
      | .ok (t, xs, more) => (match sampleRows t m.g m.d xs with
          | .ok _ => (m.g.enginePush .msample m.f.id (m.entry xs.length more.isNone)).isSome
          | _ => false)
      | _ => false) = true) := by
  refine ⟨wit ?_, wit ?_, ?_⟩ <;> decide +kernel
/-- An empty march pushes one entry with LAST (R347). -/
theorem test_march : let s := pad 0 [] (at_ .nop fun g => port .msample 0 (working .ray (.march marchBytes 0 0 0 0 0) g))
    (next .marchBatch s).map (fun t => (t.group? 7).map fun g => (g.ports.getD 0 {}).entries.map fun e => (e.words.headD 0).toNat) = some (some [2 ^ 31]) := by decide +kernel

/-- A pool at 0x200 with 4 slots; slot 0's record is a ray along x from the origin, t at most 1, with this status. -/
def pooled2 (status : Nat) (s : State) : State :=
  (((s.writeMem (cell 0x208) [4]).writeMem (cell 0x290) (bytesOf 4 0x3F800000)).writeMem (cell 0x29C) (bytesOf 4 0x3F800000)).writeMem (cell 0x2A4) [BitVec.ofNat 8 status]
def raying (g : Group) : Group := { g with rpool := 0x200 }
/-- A ray of slot 0 that stands at a node. -/
def rayAt (node : Word) (g : Group) : Group :=
  { raying g with rays := [{ slot := 0, node, pool := 0x200, trace := ⟨0, 7, 0, 0x200, 0, 1⟩, split := 0, issue := 0 }], nextFlight := 1 }
/-- How the walk of the ray that an event takes ends. -/
def walkEnds (s : State) : Option Nat := (s.pick s.walkers).map fun e => match walkRay s e.1 e.2 with
  | .exit .. => 0
  | .suspend .. => 1
  | .fault .. => 2
  | _ => 3
theorem witness_RayInstructions_slots :
    (∃ x, Issues (.trace (.v 2)) (pooled2 1 (mapped rw (at_ (.trace (.v 2)) raying 1))) x ∧ (x.anyActive && !x.raysFull &&
      (slotLanes (x.s.harden x.g.id x.p.id 3) x.g.id ⟨x.issueMask, x.p.id, x.g.nextFlight⟩ (x.activeLanes.map fun l => (l, (x.src (.v 2) l).toNat))
        fun s g _ slot => traceLane s g ⟨x.issueMask, x.p.id, x.g.nextFlight⟩ slot).isSome) = true) ∧
    (∃ x, Issues (.commit (.v 2) .zero) (at_ (.commit (.v 2) .zero) id 0) x ∧ (!x.anyActive) = true) ∧
    (∃ x, Issues (.rpfree (.v 2)) (pooled2 1 { migrating (.rpfree (.v 2)) with groups := (at_ (.rpfree (.v 2)) raying 1).groups }) x ∧ (x.anyActive &&
      (slotLanes (x.s.harden x.g.id x.p.id 3) x.g.id ⟨x.issueMask, x.p.id, x.g.nextFlight⟩ (x.activeLanes.map fun l => (l, (x.src (.v 2) l).toNat))
        fun s g _ slot => rpfreeLane s g slot).isNone) = true) ∧
    (∃ x, Issues (.resume (.v 2) .zero) (at_ (.resume (.v 2) .zero) (fun g => { g with rays := List.replicate 2048 { slot := 0, node := 0, pool := 0, trace := ⟨0, 7, 0, 0, 0, 0⟩, split := 0, issue := 0 } }) 1) x ∧ x.raysFull = true) ∧
    (∃ x, Issues (.rpalloc (.v 0)) (pooled2 0 (mapped rw (at_ (.rpalloc (.v 0)) raying 1))) x ∧ (acts (.rpalloc (.v 0)) x.c &&
      (rpallocLanes (x.s.harden x.g.id x.p.id 3) x.g.id (x.lanesFor (.v 0))).2.2.isNone) = true) := by
  refine ⟨wit ?_, wit ?_, wit ?_, wit ?_, wit ?_⟩ <;> decide +kernel
theorem witness_RayInstructions_walks :
    walkEnds (pooled2 2 (mapped rw (at_ .nop (rayAt 0x10000000)))) = some 0 ∧
    walkEnds (pooled2 2 (mapped rw (at_ .nop fun g => port .rayisect 0 (rayAt 0x30000000 g)))) = some 1 ∧
    walkEnds (pooled2 2 (mapped rw (at_ .nop (rayAt 0x30000000)))) = some 2 ∧
    (let s := at_ .nop fun g => port .rayhit 0 { g with hitBatch := { slots := List.range 33 } }
     (s.pick s.batches).any (fun e => decide (32 ≤ e.2.2.slots.length) &&
       (e.1.enginePush (if e.2.1 then .rayisect else .rayhit) e.1.nextFlight e.2.2.entry).isSome) = true) := by decide +kernel
/-- TRACE of a READY slot starts a ray and sets TRAVERSING; a ray that meets nothing ends as MISS, STATUS 5 (R334, R340); RPALLOC takes slot 0. -/
theorem test_rays : (next (.trace (.v 2)) (pooled2 1 (mapped rw (at_ (.trace (.v 2)) raying 1)))).map (fun t => (t.readMem (cell 0x2A4) 1, t.groups.map fun g => g.rays.length)) = some (2, [1]) ∧
    (next .rayDone (pooled2 2 (mapped rw (at_ .nop fun g => port .rayhit 0 (rayAt 0x10000000 g))))).map (fun t => (t.readMem (cell 0x2A4) 1, t.groups.map fun g => (g.rays.length, g.hitBatch.slots)))
      = some (5, [(0, [0])]) ∧
    waits (.rpalloc (.v 0)) (pooled2 0 (mapped rw (at_ (.rpalloc (.v 0)) raying 1))) 0 = some [0] := by decide +kernel

/-! ### Tokens and collectives -/

/-- Token slot 3 of die 0 is in a state under generation 2; its word. -/
def tok (state : BitVec 2) (s : State) : State := s.putToken 0 3 { state, gen := 2, count := 1 }
def tokWord : Word := 0x800000C2
theorem test_token_word : tokenWord 0 0 3 2 = tokWord ∧ (tokV tokWord, tokPkg tokWord, tokDie tokWord, tokSlot tokWord, tokGen tokWord) = (true, 0, 0, 3, 2) := by decide +kernel
/-- A TKWAIT, TKSTAT or STXW of that token by one lane. -/
def waitTok (state : BitVec 2) : State := tok state (at_ (.tkwait .lit) id 1 tokWord)

/-- No entry of a die's table is FREE. -/
def pendings (n : Nat) : List (Nat × TokenEntry) := (List.range n).map fun k => (k, { state := 1 })
theorem pendings_all (n : Nat) : (List.range n).find? (fun k => !((pendings n).any fun e => e.1 = k)) = none := by
  rw [List.find?_eq_none]
  intro k hk
  simpa [pendings] using hk
theorem pendings_held (n : Nat) : (pendings n).filter (fun e => e.2.state = 0) = [] := by
  rw [List.filter_eq_nil_iff]
  intro e he
  obtain ⟨k, -, rfl⟩ := List.mem_map.mp he
  simp
theorem pending_none_free (s : State) (d : Nat) (h : (s.die d).tokens = pendings 1024) : s.freeToken? d = none := by
  unfold State.freeToken?
  rw [h]
  simp only [pendings_all, pendings_held]
  rfl
theorem witness_TokensAndCollectives_stxt :
    (∃ x, Issues (.stxt (.s 0) (.v 4) .zero) (glob (.stxt (.s 0) (.v 4) .zero) id 0) x ∧ (!x.anyActive) = true) ∧
    (∃ x, Issues (.stxt (.s 0) (.v 4) (.v 2)) (glob (.stxt (.s 0) (.v 4) (.v 2)) (ptrs 0x100 4)) x ∧ (x.anyActive &&
      granted (x.lanes x.s x.activeLanes (fun l => x.src64 (.v 4) l) 4 4 { w := true } true false) fun s gs =>
        decide (s.freeToken? x.g.die = some 0) && decide (gs.length = 32)) = true) ∧
    (∃ x, Issues (.stxt (.s 0) (.v 4) (.v 2)) ((glob (.stxt (.s 0) (.v 4) (.v 2)) (ptrs 0x100 4) 1).modDie 0
        fun d => { d with tokens := pendings 1024 }) x ∧ (x.anyActive &&
      granted (x.lanes x.s x.activeLanes (fun l => x.src64 (.v 4) l) 4 4 { w := true } true false) fun s _ =>
        decide ((s.die x.g.die).tokens = pendings 1024)) = true) := by
  refine ⟨wit ?_, wit ?_, wit ?_⟩ <;> decide +kernel
theorem witness_TokensAndCollectives_stxw :
    (∃ x, Issues (.stxw (.v 2) (.v 4) .lit) (tok 1 (glob (.stxw (.v 2) (.v 4) .lit) (ptrs 0x100 4) 3 tokWord)) x ∧ (x.anyActive &&
      granted (x.lanes x.s x.activeLanes (fun l => x.src64 (.v 4) l) 4 4 { w := true } true false) fun _ gs =>
        !gs.isEmpty && gs.all fun e => decide (x.s.resolveToken x.g (x.src .lit e.1) e.1 = .carried)) = true) := wit (by decide +kernel)
theorem witness_TokensAndCollectives_waits :
    (∃ x, Issues (.tkwait .lit) (waitTok 2) x ∧ (x.tokenLanes .lit).all (fun l => tokV (x.src .lit l) && decide (tokPkg (x.src .lit l) = x.s.pkgid) &&
      x.s.tokenHome (tokDie (x.src .lit l)) && decide ((x.s.tokenState (x.src .lit l)).1 = 2)) = true) ∧
    (∃ x, Issues (.tkwait .lit) (waitTok 3) x ∧ (x.tokenLanes .lit).any (fun l => tokV (x.src .lit l) && decide (tokPkg (x.src .lit l) = x.s.pkgid) &&
      x.s.tokenHome (tokDie (x.src .lit l)) && decide ((x.s.tokenState (x.src .lit l)).1 = 3)) = true) ∧
    (∃ x, Issues (.tkwait .lit) (waitTok 1) x ∧ (x.tokenLanes .lit).any (fun l => tokV (x.src .lit l) && decide (tokPkg (x.src .lit l) = x.s.pkgid) &&
      x.s.tokenHome (tokDie (x.src .lit l)) && decide ((x.s.tokenState (x.src .lit l)).1 = 1)) = true) ∧
    (∃ x, Issues (.tkwait .lit) (at_ (.tkwait .lit) id 1 0x803F0000) x ∧ (x.tokenLanes .lit).any (fun l => tokV (x.src .lit l) && decide (tokPkg (x.src .lit l) = x.s.pkgid) &&
      !x.s.tokenHome (tokDie (x.src .lit l))) = true) ∧
    (∃ x, Issues (.tkstat (.v 0) .lit) (tok 1 (at_ (.tkstat (.v 0) .lit) id 1 tokWord)) x ∧ (acts (.tkstat (.v 0) .lit) x.c &&
      (x.lanesFor (.v 0)).all (fun l => tokV (x.src .lit l) && decide (tokPkg (x.src .lit l) = x.s.pkgid))) = true) := by
  refine ⟨wit ?_, wit ?_, wit ?_, wit ?_, wit ?_⟩ <;> decide +kernel
/-- STXT of lanes 0 to 31 takes slot 0 of its die's table with 32 stores; its token is 0x80000000 (R409–R411). -/
theorem test_stxt : ((next (.stxt (.s 0) (.v 4) (.v 2)) (glob (.stxt (.s 0) (.v 4) (.v 2)) (ptrs 0x100 4))).map fun t =>
    ((t.tokenEntry 0 0).state, (t.tokenEntry 0 0).count, t.held.length, (t.group? 7).map fun g => g.scalar 0)) = some (1, 32, 32, some 0x80000000) := by decide +kernel
theorem test_tkwait : faults (.tkwait .lit) (waitTok 3) = some .tokenExpired ∧ faults (.tkwait .lit) (waitTok 2) = none ∧
    ((after (.tkwait .lit) (waitTok 1)).map fun g => g.splits.map fun p => p.hold) = some [.token] := by decide +kernel

/-- A collective's descriptor in s8 to s11: LADDR 0, CTL, DST 0. -/
def colling (i : Instr) (ctl : Nat) (act : LaneMask := 0xFFFFFFFF) : State := launched id (at_ i (four [0, ctl, 0, 0]) act)
theorem witness_TokensAndCollectives_coll :
    (∃ x, Issues (.coll .addF32 (.s 8) .zero) (colling (.coll .addF32 (.s 8) .zero) 128 0) x ∧
      ((collOf (.coll .addF32 (.s 8) .zero) x).isSome && !x.anyActive) = true) ∧
    (∃ x, Issues (.coll .addF32 (.s 8) .zero) (colling (.coll .addF32 (.s 8) .zero) 0x20000080) x ∧ (x.anyActive &&
      (collOf (.coll .addF32 (.s 8) .zero) x).any fun e => (x.collFault e.2.1 e.2.2.1 e.2.2.2).isNone) = true) ∧
    (∃ x, Issues (.collPkg .copy (.s 8) .zero) (colling (.collPkg .copy (.s 8) .zero) 0) x ∧ (x.anyActive &&
      (collOf (.collPkg .copy (.s 8) .zero) x).any fun e => (x.collFault e.2.1 e.2.2.1 e.2.2.2).any fun t => decide (t.cause = .illegalOperand)) = true) := by
  refine ⟨wit ?_, wit ?_, wit ?_⟩ <;> decide +kernel

/-! ### Events: scheduling, timing and faults -/

/-- The group's split stands at a header, with these changes. -/
def idle (f : Split → Split := id) (g : Group → Group := id) : State := mk (g (gr (f { sp [] with clause := none })))
/-- A second split of the group, ready at a header. -/
def twin (g : Group) : Group := { g with splits := g.splits ++ [{ id := 1, mask := 0, pc := 0x1000, wdog := 5 }] }
theorem witness_SchedulingEvents_issue :
    (let s := idle
     ((s.pick ((s.splitsWhere s.runnable).map fun e => e.1.datapath).eraseDups).any fun dp =>
      (s.chooseSplit ((s.splitsWhere s.runnable).filter fun e => e.1.datapath = dp)).isSome) = true) ∧
    (let s := { idle fun p => { p with waited := 1 } with cycle := 1025, cur := none }
     (sortBy (fun e => e.2.waited) s.starving).head?.isSome = true) ∧
    (idle (fun p => { p with headers := 256 }) twin).rival?.isSome = true ∧
    (idle id fun g => { g with joins := [{ num := 0, joinPc := none, expected := 3, arrived := 1, outer := none, savedWb := 0, defer := some 0 }],
                               defers := [{ num := 0, owner := 0, lanes := 2, addr := 0x1000, reissue := none }] }).deferredReady?.isSome = true ∧
    (idle (fun p => { p with wdog := 0 })).spent?.isSome = true := by decide +kernel
theorem witness_SchedulingEvents_timers :
    (let s := { idle (fun p => { p with hold := .queue }) (fun g => { g with qlimit := 10 }) with cycle := 1025 }
     (!s.overdue.isEmpty && !s.halted) = true) ∧
    (let s := idle (fun p => { p with hold := .waitmem })
     ((s.parked? 7 0).isSome && (s.group? 7).any (fun g => decide (g.holdLimit = some (2 ^ 26))) && !s.halted) = true) ∧
    (let s := { idle (fun p => { p with hold := .token }) with ns := 200001 }
     (s.overWaiting?.isSome && !s.halted) = true) ∧ (mapped rw State.reset).tlb ≠ [] := by decide +kernel
/-- R145: at cycle 1025 a split held since 0 with QLIMIT 10 faults; at 1024 it does not. -/
theorem test_watchdog_queue : [1024, 1025].map (fun n => faults .watchdogQueue { idle (fun p => { p with hold := .queue }) (fun g => { g with qlimit := 10 }) with cycle := n })
    = [none, some .watchdog] := by decide +kernel
/-- The ticket of a split parked in group slot 0 of core 0 of die 0 with GEN 5. -/
def parkedSplit (g : Group → Group := id) : State :=
  { idle (fun p => { p with escalated := true, gen := 5, pend := some (trap .pageNotPresent) }) g with chosen := 5 * 2 ^ 24 }
theorem witness_SchedulingEvents_faults :
    (let s := handled (idle (fun p => { p with pend := some (trap .align) }))
     (s.groups.find? s.deliverable).isSome = true) ∧
    (parkedSplit.ticketSplit? parkedSplit.chosen).isSome = true ∧
    (let s := { parkedSplit with chosen := 6 * 2 ^ 24 }
     (s.ticketSplit? s.chosen).isNone = true) ∧
    (let s := { idle with chosen := 0 }
     (s.closeLaunches (if (s.context (s.chosen % 64)).stopped then 4 else 3) (s.openLaunches (s.chosen % 64))).isOk = true ∧ s.openLaunches 0 ≠ []) ∧
    (0, .core 3) ∈ { idle with frozen := [(0, .core 3)] }.frozen ∧
    { idle with fatals := [{ kind := 1, trap := trap .pageNotPresent, ctx := 0, master := 0, die := 0 }] }.fatals ≠ [] := by decide +kernel
theorem test_ticket_resume : ((after .ticketResume parkedSplit).map fun g => g.splits.map fun p => (p.escalated, p.pend.isSome)) = some [(false, false)] ∧
    ((after .ticketKill parkedSplit).map fun g => (g.splits.length, g.retired)) = some (0, 0xFFFFFFFF) := by decide +kernel
theorem test_freeze : (next .freeze { idle with chosen := 1 + 64 * 127 }).map (fun t => t.frozen) = some [(1, .host 63)] := by decide +kernel

/-! ### Events: launches and graphs -/

/-- The page at 0 is cached for the control unit of rim die 48 as well. -/
def mapped2 (s : State) : State :=
  let m := mapped rw s
  { m with tlb := m.tlb ++ m.tlb.map fun t => { t with die := 48 } }
/-- A launch record's bytes: entry 0x1000, 96 registers, one group, a rectangle of one die, one workgroup. -/
def recordAt (queue flags : Nat) : List Byte :=
  (List.range 128).map fun k => BitVec.ofNat 8 (([(1, 0x10), (8, 96), (10, 1), (26, queue), (28, 1), (29, 1), (30, flags), (32, 1)].find? fun e => e.1 = k).elim 0 fun e => e.2)
def child (queue : Nat) : Child := { ctx := 0, addr := 0x200, arg := 7, host := false, fromDie := some 0, bytes := recordAt queue 0 }
/-- The resident launch has no workgroup left to place. -/
def settled : State := { queue0 64 idle with launches := idle.launches.map fun l => { l with placed := [0] } }
/-- A launch that waits in queue 0, with these changes. -/
def pendingOne (f : Launch → Launch := id) : State :=
  let s := settled
  { s with launches := s.launches ++ [f { id := 3, ctx := 0, addr := 0x200, arg := 7, seq := 5, age := 1, record := parseRecord (recordAt 0 0) }] }
/-- What the distributor decides. -/
def decides (s : State) : Nat := match s.decision with
  | some (.graph _) => 1
  | some (.place _ _) => 2
  | some (.square ..) => 3
  | some (.preempt _ _) => 4
  | none => 0
/-- A launch of higher priority needs all of die 0's scratchpad. -/
def pressing : State :=
  let s := pendingOne fun l => { l with origin := some (0, 0), state := .running, record := { l.record with prio := 1, diescratch := 33554432 } }
  { s with queues := setAt s.queues 0 { ctl := 15, depth := 64 }, launches := s.launches.map fun l => if l.id = 2 then { l with scratchDies := [0] } else l }
/-- The workgroup is being stopped, and all of it stands at headers. -/
def stopping : State := settled.modWorkgroup 1 fun w => { w with stopping := true }
/-- The workgroup is saved. -/
def savedOne : State := settled.modWorkgroup 1 fun w => { w with saved := true }

theorem witness_LaunchEvents_children :
    (let c := child 0
     let s := { (mapped2 (queue0 64 idle)).writeMem (cell 0x200) c.bytes with children := [c] }
     let r := { parseRecord c.bytes with queue := 0 }
     s.childReady c && (s.acceptChild c).isOk && !r.task && !r.pixel &&
       match hwReadAll { s with children := [] } (s.childCtx c 0) s.active 0x200 2 with
       | .ok (t, bs) => decide (bs = c.bytes) && decide (t.refusal c r bs = 0)
       | _ => false) = true ∧
    (let c := { child 0 with after := some (7, 1) }
     let s := { idle id onLine with children := [c], acks := [counted] }
     !s.childReady c) = true ∧
    (let s := { idle with children := [child 128] }
     (s.childReady (child 128), s.refusal (child 128) (parseRecord (child 128).bytes) (child 128).bytes, (s.acceptChild (child 128)).isOk) = (true, 5, true)) := by decide +kernel
theorem witness_LaunchEvents_residents : decides pendingOne = 2 ∧ decides (pendingOne fun l => { l with record := { l.record with flags := 4 } }) = 1 ∧
    decides pressing = 4 ∧ (match pressing.decision with
      | some (.preempt l ds) => (pressing.victim? l ds).isSome
      | _ => false) = true ∧ pressing.saveable?.isNone = true ∧ (pressing.workgroups.all fun w => !w.stopping) = true ∧
    stopping.saveable?.isSome = true ∧ savedOne.restore?.isSome = true ∧ decides savedOne ≠ 4 ∧
    (idle id fun g => { g with splits := [], retired := 0xFFFFFFFF }).overGroup?.isSome = true := by decide +kernel
/-- The launch that has run, with a completion word at 0x300. -/
def ranOne : State := mapped2 { idle with launches := idle.launches.map fun l => { l with ended := 1, record := { l.record with completion := 0x300 } } }
theorem witness_LaunchEvents_completion :
    (ranOne.doneLaunch?.any fun l => !l.record.pixel && (ranOne.complete l.ctx ranOne.active l.record.completion l.seq 0 1).isOk) = true ∧
    (match hwPlace ranOne 0 48 0x300 { w := true } with
      | .ok (_, .cell k _, ks) => decide (k = cell 0x300 ∧ ks = [])
      | _ => false) = true := by decide +kernel
/-- STATUS 1 in byte 0 and SEQ in bytes 4 to 7 (R183); the launch leaves. -/
theorem test_completion : (next .completionWrite { ranOne with launches := ranOne.launches.map fun l => { l with seq := 9 } }).map (fun t =>
    (t.readMem (cell 0x300) 4, t.readMem (cell 0x304) 4, t.launches.length)) = some (1, 9, 0) := by decide +kernel
theorem test_resident : (next .workgroupResident pendingOne).map (fun t => (t.groups.map fun g => [g.die, g.core, g.regCount, (g.scalar 0).toNat, (g.scalar 1).toNat], t.workgroups.length))
    = some ([[0, 0, 96, 0, 0], [0, 0, 96, 7, 5]], 2) := by decide +kernel

/-- A node's 32 bytes (R192). -/
def node (type flags cap nxt alt launch slot arg join : Nat) : List Byte :=
  bytesOf 1 type ++ bytesOf 1 flags ++ bytesOf 2 cap ++ bytesOf 2 nxt ++ bytesOf 2 alt ++ bytesOf 8 launch ++ bytesOf 8 slot ++ bytesOf 4 arg ++
  bytesOf 2 join ++ bytesOf 2 0
/-- A graph whose one cursor stands at this node, at address 0; the slot at 0x100 holds a word. -/
def graphAt (bs : List Byte) (slot : Nat := 1) : State :=
  let s := mapped2 (launched (fun r => { r with flags := 4 }) idle)
  { (s.writeMem (cell 0) bs).writeMem (cell 0x100) (bytesOf 4 slot) with graphs := [{ id := 50, launch := 2, cursors := [{ id := 0, node := 0 }] }] }
/-- The node that an event of a kind takes, and a check of it. -/
def nodeIs (s : State) (kind : Nat) (q : State → Graph → Cursor → List Byte → Bool) : Bool :=
  (s.pick (s.cursorsAt kind)).any fun e => match s.fetchNode e.1 e.2 with
    | .ok (t, b) => q t e.1 e.2 b
    | _ => false
def kernelNode : List Byte := node 1 0 0 3 0xFFFF 0x200 0 7 0
def condNode : List Byte := node 2 0 0 3 4 0 0x100 0 0
def whileNode : List Byte := node 3 0 5 3 4 0 0x100 2 0
def joinNode : List Byte := node 4 0 0 3 0xFFFF 0 0 1 2
theorem witness_LaunchEvents_nodes :
    ([0, 1, 2, 3, 4].all fun k => nodeIs (graphAt (node k 0x40 0 0 0 0 0 0 0)) k fun _ _ _ b => badNode b) = true ∧
    (nodeIs (graphAt kernelNode) 1 fun s g _ b => !badNode b && decide (nodeLaunch b % 128 = 0) && !bit (nodeFlags b) 1 &&
      match hwReadAll s (s.graphLaunch g).ctx s.active (nodeLaunch b) 2 with
      | .ok (t, bytes) => t.queueRoom (fieldAt bytes 26 1) 1
      | _ => false) = true ∧
    (let s := graphAt (node 1 2 0 3 4 0x200 0 7 0)
     nodeIs s 1 fun _ g c b => !badNode b && bit (nodeFlags b) 1 && !c.forked && decide (g.cursors.length < 8)) = true ∧
    (let s := graphAt (node 1 2 0 3 4 0x200 0 7 0)
     let s := { s with graphs := s.graphs.map fun g => { g with cursors := List.replicate 8 { id := 0, node := 0 } } }
     nodeIs s 1 fun _ g c b => !badNode b && bit (nodeFlags b) 1 && !c.forked && decide (8 ≤ g.cursors.length)) = true ∧
    (let s := graphAt (node 1 2 0 3 4 0x200 0 7 0)
     let s := { s with graphs := s.graphs.map fun g => { g with cursors := g.cursors.map fun c => { c with forked := true } } }
     nodeIs s 1 fun s g c b => !badNode b && c.forked && decide (nodeLaunch b % 128 = 0) && match hwReadAll s (s.graphLaunch g).ctx s.active (nodeLaunch b) 2 with
      | .ok (t, bytes) => t.queueRoom (fieldAt bytes 26 1) 1
      | _ => false) = true ∧
    (nodeIs (graphAt condNode) 2 fun s g _ b => !badNode b && match s.takeSlot g b with
      | .ok _ => true
      | _ => false) = true ∧
    (nodeIs (graphAt whileNode) 3 fun s g c b => !badNode b && match s.takeSlot g b with
      | .ok (t, v) => decide (v ≠ 0) && decide (nodeArg b < nodeCap b) && match t.putNode g c 24 4 (nodeArg b + 1) with
        | .ok _ => true
        | _ => false
      | _ => false) = true ∧
    (nodeIs (graphAt joinNode) 4 fun s g c b => !badNode b && decide ((nodeArg b + 1) % 2 ^ 32 = nodeJoin b) && match s.putNode g c 24 4 0 with
      | .ok _ => true
      | _ => false) = true ∧
    (nodeIs (graphAt (node 0 0 0 0 0 0 0 0 0)) 0 fun s g c b => !badNode b && (s.endCursor g c).isOk) = true := by decide +kernel
/-- The cursor's launch has finished with a status. -/
def awaited (st : Nat) : State :=
  let s := graphAt kernelNode
  { s with graphs := [{ id := 50, launch := 2, cursors := [{ id := 0, node := 3, launch := some 3 }] }],
           launches := s.launches ++ [{ id := 3, ctx := 0, addr := 0, arg := 0, seq := 0, age := 0, record := {}, state := .finished st }] }
theorem witness_LaunchEvents_done : ([1, 3].all fun st => ((awaited st).pick (awaited st).doneCursors).any fun e => decide (e.2.2 = st)) = true := by decide +kernel
/-- Where the cursor stands after an event. -/
def stands (i : Instr) (s : State) : Option (List (Nat × Bool)) := (next i s).map fun t => t.graphs.flatMap fun g => g.cursors.map fun c => (c.node, c.waiting)
/-- R193: NEXT is 3 and ALT is 4. -/
theorem test_graph_nodes : stands .graphNodeKernel (graphAt kernelNode) = some [(3, true)] ∧
    [0, 1].map (fun v => stands .graphNodeCond (graphAt condNode v)) = [some [(4, false)], some [(3, false)]] ∧
    [0, 1].map (fun v => stands .graphNodeWhile (graphAt whileNode v)) = [some [(4, false)], some [(3, false)]] ∧
    stands .graphNodeJoin (graphAt joinNode) = some [(3, false)] ∧ stands .graphNodeEnd (graphAt (node 0 0 0 0 0 0 0 0 0)) = some [] := by decide +kernel
theorem test_while_count : memAfter .graphNodeWhile (graphAt whileNode) (cell 24) 4 = some 3 ∧ memAfter .graphNodeWhile (graphAt whileNode 0) (cell 24) 4 = some 0 ∧
    memAfter .graphNodeJoin (graphAt joinNode) (cell 24) 4 = some 0 := by decide +kernel

/-! ### Events: the memory system and token stores -/

/-- One packet from die 1 to die 0 is on the mesh. -/
def pkt (type len aux addr : Nat) (payload : List Byte := []) : MeshPacket := { type, cls := 0, src := 1, dst := 0, len, aux, addr, payload }
def meshed (p : MeshPacket) (s : State := idle) : State := { s with packets := [p] }
/-- The packet of a type that an event takes, and a check of it. -/
def takes (s : State) (type : Nat) (q : MeshPacket → State → Bool := fun _ _ => true) : Bool := (s.takePacket (s.packetsOf type)).any fun e => q e.1 e.2
/-- The line of die 0's heap that the tests use: the page's frame. -/
def line0 : Nat := 5 * 2 ^ 15
theorem witness_MemorySystemEvents_packets :
    takes (meshed (pkt 3 4 0 line0 [1, 2, 3, 4])) 3 = true ∧
    (takes (meshed (pkt 4 16 0 line0 (List.replicate 16 0))) 4 fun p u => decide (u.physKey p.dst p.addr = some (cell 0)) && (AtomicOp.ofCode? (fieldAt p.payload 0 1)).isSome) = true ∧
    takes (meshed (pkt 5 0 0 line0)) 5 = true ∧ (takes (meshed (pkt 7 128 0 line0)) 7 fun p _ => !p.skip) = true ∧
    (takes (meshed (pkt 9 128 0 line0 (List.replicate 128 1))) 9 fun p _ => decide (p.payload.length = 128)) = true ∧
    takes (meshed (pkt 9 128 0 line0)) 9 = true := by decide +kernel
/-- WR writes its LEN bytes (R387); a NACK of BUSY makes its packet wait 64 cycles (R391). -/
theorem test_packets : memAfter .wr (meshed (pkt 3 4 0 (line0 + 8) [1, 2, 3, 4])) (cell 8) 4 = some 0x04030201 ∧
    (next .nack { idle with cycle := 10, packets := [pkt 0xA 0 2 line0, { pkt 1 0 0 line0 with src := 0, dst := 1, refused := true }] }).map (fun t => t.packets.map fun p => p.resendAt)
      = some [74] := by decide +kernel
/-- Rim die 48's command ring, whose header is at 0x40000, holds one command at 0x41000, of the leaf at 0x20000. -/
def ring48 : State :=
  let s := (walked rw idle).modDie 48 fun d => { d with migbase := 0x40000 }
  let s := ((s.physWrite 48 0x40000 8 0x40020).physWrite 48 0x40008 4 4).physWrite 48 0x40010 4 1
  (s.physWrite 48 0x40020 8 0x41000).physWrite 48 0x41000 8 0x20000
/-- A migration whose wait is over, of a frame with or without an uncorrectable error. -/
def copyingOne (poison : List Nat) : State :=
  { idle with ns := 10000, poison, migrations := [{ rim := 48, cmd := 0x41000, pte := 0x20000, dest := 0x48000, ctx := 0, tier := 0, old := BitVec.ofNat 64 (line0 + rw), start := 0, lease := 8 }] }
def copies (s : State) : Option Bool :=
  s.copying?.map s.copyPoisoned
theorem witness_MemorySystemEvents_migration : ring48.migrating? = some 48 ∧ copies (copyingOne []) = some false ∧ copies (copyingOne [cell 64]) = some true := by
  decide +kernel
/-- MIGRATION_COMMAND clears W of the leaf and moves HEAD (R402). -/
theorem test_migration : (next .migrationCommand ring48).map (fun t => (t.physRead 48 0x20000 8, t.physRead 48 0x4000C 4, t.migrations.length)) = some (line0 + 0x3017, 1, 1) := by
  decide +kernel

/-- A token store of lane 0 of flight 0 of the group, in a phase. -/
def store (phase : StorePhase) (issue : Bool := false) (token : Word := tokWord) : HeldStore :=
  { id := 9, src := 0, dst := 0, group := 7, flight := 0, lane := 0, phys := line0 + 4, va := 4, value := 77, token, issue, limit := 200, phase }
def storing (h : HeldStore) : State := { mk (working .fab (.tokens 1) (gr { sp [] with clause := none })) with held := [h] }
/-- A message of the exchange about the token, or about the store of the tests. -/
def tell (type aux : Nat) (ofStore : Bool := false) (s : State) : State :=
  meshed { pkt type 0 aux (if ofStore then line0 + 4 else tokWord.toNat) with tag := if ofStore then 10 else 0 } s
/-- The store that a message about one is about. -/
def carried (p : MeshPacket) (u : State) (q : HeldStore → Bool) : Bool := (u.held.find? fun h => h.carriedBy p && q h).isSome
def tells (s : State) (aux : Nat) (q : MeshPacket → State → Bool) : Bool := (s.takePacket (s.releases aux)).any fun e => q e.1 e.2
theorem witness_MemorySystemEvents_exchange :
    (takes (tell 0x20 0 true (storing (store .sent))) 0x20 fun p u => decide (u.held.find? (fun h => h.phase = .sent && h.pkg.isNone && h.id + 1 = p.tag) = some (store .sent))) = true ∧
    (takes (tell 0x21 0 false (tok 2 idle)) 0x21 fun p u => decide ((u.tokenState (tokenOf p)).1 = 2) && decide (p.ctx = 0)) = true ∧
    (tells (tell 0x22 0 false (storing (store .held))) 0 fun p u => !(u.heldFor p).isEmpty) = true ∧
    (tells (tell 0x22 1 false (storing (store .held))) 1 fun p u => !(u.heldFor p).isEmpty) = true ∧
    (tells (tell 0x22 2 false (storing (store .held))) 2 fun p u => decide (u.heldFor p = [store .held])) = true ∧
    (let s := storing (store .polling)
     (s.held.find? fun h => h.phase = .polling && decide (h.nextAt ≤ s.ns)).isSome = true) ∧
    (tells (tell 0x22 3 true (storing (store .landed))) 3 fun p u => carried p u fun h => h.phase = .landed && !h.issue) = true ∧
    (tells (tell 0x22 4 true (storing (store .away))) 4 fun p u => carried p u fun h => h.phase = .away && !h.issue && !h.tagged) = true ∧
    (tells (tell 0x22 5 true (storing (store .expired))) 5 fun p u => carried p u fun h => h.phase = .expired) = true ∧
    (tells (tell 0x22 1 true (storing (store .broken))) 1 fun p u => decide (p.tag ≠ 0) && carried p u fun h => h.phase = .broken) = true := by decide +kernel
/-- A TKWAIT of die 0 has asked the home of the token. -/
def asking (ph : WaitPhase) (s : State := idle) : State := { s with waits := [{ die := 0, group := 7, split := 0, token := tokWord, phase := ph }] }
theorem witness_MemorySystemEvents_waiting :
    ([0, 1, 2].all fun a => tells (tell 0x22 a false (asking .asked)) a fun p u => u.waits.any fun w =>
      decide (w.die = p.dst) && decide (w.token = tokenOf p) && decide (w.phase = .asked)) = true ∧
    ((asking .polling).held.find? fun h => h.phase = .polling && decide (h.nextAt ≤ (asking .polling).ns)).isNone = true ∧
    ((asking .polling).waits.find? fun w => w.phase = .polling && decide (w.nextAt ≤ (asking .polling).ns)).isSome = true := by decide +kernel
theorem witness_MemorySystemEvents_refusals :
    (takes (tell 0x23 0 true (storing (store .refused))) 0x23 fun p u =>
      carried p u fun h => h.phase = .away || (h.phase = .refused && h.nextAt = 0)) = true ∧
    (let s := { storing { store .refused with nextAt := 256 } with cycle := 256 }
     (s.held.find? fun h => h.phase = .refused && h.nextAt ≠ 0 && decide (h.nextAt ≤ s.cycle)).isSome = true) ∧
    (let s := { storing (store .held) with ns := 200001 }
     (s.overHeld?.isSome && !s.halted) = true) ∧
    (let s := { tok 2 idle with cycle := 4096 }
     (s.retirable?.any fun e => decide (e.1 < s.dies.length)) = true) := by decide +kernel
theorem witness_MemorySystemEvents_coll :
    (let s := { idle with notices := [{ die := 0, launch := some 2, ctx := 0, word := 5 }] }
     (s.notices.findSome? s.pushNotice).isSome = true) ∧
    (let s := mk (working .fab (.coll 0 false 0 128 0 0) (gr { sp [] with clause := none }))
     (s.notices.findSome? s.pushNotice).isNone ∧ (s.pick s.colls).isSome = true) := by decide +kernel
/-- A plain store is performed where it arrives; one that carries a token waits for RELEASE (R414). -/
theorem test_token_stores : memAfter .tstorePacket (tell 0x20 0 true (storing (store .sent false 0))) (cell 4) 4 = some 77 ∧ memAfter .tstorePacket (tell 0x20 0 true (storing (store .sent))) (cell 4) 4 = some 0 ∧
    memAfter .release (tell 0x22 0 false (storing (store .held))) (cell 4) 4 = some 77 ∧ memAfter .fail (tell 0x22 1 false (storing (store .held))) (cell 4) 4 = some 0 ∧
    (next .refuse (tell 0x23 0 true (storing (store .refused)))).map (fun t => t.held.map fun h => (h.nextAt, h.backoff)) = some [(256, 512)] ∧
    (next .tokenRetire { tok 2 idle with cycle := 4096 }).map (fun t => ((t.tokenEntry 0 3).state, (t.tokenEntry 0 3).gen)) = some (0, 3) := by decide +kernel
/-- COLL.ADD of 128 bytes of 1.0 onto 2.0 in the die scratchpad gives 3.0 (R422). -/
theorem test_coll : ((fun (s : State) => (next .collTransfer ((s.writeMem (Space.key (.scratch 1) 4) (bytesOf 4 0x3F800000)).writeMem (Space.key (.dieScratch 2 0) 4) (bytesOf 4 0x40000000))).bind fun t =>
      memAfter .collTransfer t (Space.key (.dieScratch 2 0) 4) 4) (mk (working .fab (.coll 0 false 0 128 0 0) (gr { sp [] with clause := none })))) = some 0x40400000 := by decide +kernel

/-! ### Events: the control space, the fabric and the management port -/

/-- A write of the control space waits. -/
def writing (table index value : Nat) (sys : Bool := true) (s : State := idle) : State :=
  { s with controlWrites := [{ table, die := 0, index, value, sys }] }
def writes (s : State) (want : ControlWrite → Bool) (q : ControlWrite → State → Bool := fun w _ => w.sys) : Bool := (s.takeWrite want).any fun e => q e.1 e.2
theorem witness_ManagementEvents_writes :
    ([0, 3, 9, 10].all fun t => writes (writing t 0 0) plainTable) = true ∧ writes (writing 6 1 5) plainTable = true ∧
    (writes (writing 0 0 1 false) plainTable fun w _ => !w.sys) = true ∧
    writes (writing 6 0 1) (fun w => w.table = 6 && w.index = 0) = true ∧ writes (writing 2 0 0) (fun w => w.table = 2) = true ∧
    (writes (writing 1 63 0) (fun w => w.table = 1) fun w u => w.sys && decide (u.regions.length ≤ 64) && decide (w.index < 64)) = true ∧
    ([4, 5, 7, 8].all fun t => writes (writing t 0 0) fun w => w.table = t) = true := by decide +kernel
/-- Queue 3 for context 5, enabled with priority 1 and depth 9 (R182); without SR_CTX.SYS nothing changes (R438). -/
theorem test_queue_write : [true, false].map (fun b => (next .controlRegisterWrite (writing 0 3 (5 + 3 * 2 ^ 8 + 9 * 2 ^ 16) b)).map fun t =>
    ((t.queues.getD 3 {}).ctx, (t.queues.getD 3 {}).ctl, (t.queues.getD 3 {}).depth)) = [some (5, 3, 9), some (0, 0, 1)] := by decide +kernel
/-- R408: position 1 of 2 whose entry is not VALID is refused. -/
theorem test_ringctl : (next .ringctlWrite (writing 6 0 (2 + 2 ^ 16))).map (fun t => (t.ringP, t.ringPos)) = some (1, 0) ∧
    (next .ringctlWrite (writing 6 0 2)).map (fun t => (t.ringP, t.ringPos)) = some (2, 0) := by decide +kernel
/-- R444: 1,900 MHz is a step, 1,901 MHz is refused. -/
theorem test_step_entry : [1900, 1901].map (fun f => (next .stepEntryWrite (writing 8 15 (f * 4096))).map fun t => ((t.island 0).step 15) / 4096) = [some 1900, some 600] := by
  decide +kernel

/-- A fabric packet of package 3 to this one, and a flit of a type on link 0. -/
def fabric : FabricPacket := { pkt := pkt 3 4 0 line0 [1, 2, 3, 4], spkg := 3, dpkg := 0, eseq := 0, lane := 0 }
def flit (type : Nat) : Flit := { link := 0, type, seq := 0, ack := 0, body := [], tag := 0, crc := 0 }
theorem witness_ManagementEvents_fabric :
    { idle with eackIn := [{ pkg := 3, lane := 0, eseq := 0 }] }.eackIn ≠ [] ∧
    (let s := { idle with fabricIn := [fabric] }
     decide (s.eackIn = []) && (s.pick s.fabricIn).any fun p => decide (p.dpkg = s.pkgid)) = true ∧
    ([0, 1, 2, 3].all fun k =>
      let s := { idle with flitsIn := [flit k] }
      (s.pick (s.flitsOf k)).isSome) = true ∧
    (let s := { idle with links := [{ id := 0, switchAt := some 0 }] }
     (s.pick (s.flitsOf 2)).isNone = true ∧ s.switching? = some 0) ∧
    { idle with links := [{ id := 5, counter := 2 ^ 40 - 1 }] }.spentLink? = some 5 ∧
    (let s := { idle with links := [{ id := 5, up := false }], chosen := 5 }
     (decide (s.chosen < 128) && !(s.link s.chosen).up) = true) := by decide +kernel
/-- A packet without an import entry is not performed; its source is told (R406). -/
theorem test_fabric_denied : (next .fabricPacket { idle with fabricIn := [fabric] }).map (fun t => (t.mem.length, t.eackOut.length, t.fabricOut.map fun p => (p.pkt.type, p.pkt.aux, p.dpkg)))
    = some (0, 1, [(0xA, 3, 3)]) := by decide +kernel

/-- A management request of an OP. -/
def request (op : Nat) (arg : DWord := 0) (s : State := idle) : State := { s with mgmtIn := [{ op, seq := 6, arg }] }
/-- Every OP has a request to answer, for each in the state that its statement asks for. -/
theorem witness_ManagementEvents_port :
    ([1, 2, 3, 4, 5, 8, 9].all fun k => ((request k).pick ((request k).mgmtRequests k)).any fun m => !m.bad && !(request k).resetting && decide (m.die < 52)) = true ∧
    ([6, 7].all fun k =>
      let s := { request k with halted := true }
      s.halted && !s.resetting && (s.pick (s.mgmtRequests k)).any fun m => !m.bad && decide (m.die < 52)) = true ∧
    ([1, 2, 3, 4, 5, 6, 7, 8, 9].all fun k =>
      let s := { idle with mgmtIn := [{ op := k, len := 3 }] }
      let u := { request k with agenda := [{ event := .coldReset }] }
      (s.pick (s.mgmtRequests k)).any MgmtMessage.bad && u.resetting && (u.pick (u.mgmtRequests k)).any fun m => !m.bad) = true := by decide +kernel
theorem witness_ManagementEvents_units :
    idle.frozen.contains (48, .control) = false ∧
    (let s := { idle with ns := 100000 }
     s.standbyDue = true ∧ ({ s with active := 50 }.endGraphs).isOk = true) ∧
    idle.chosen % 64 < 52 ∧
    (idle.chosen < 640 ∧ idle.chosen < idle.islands.length ∧ (idle.island idle.chosen).lost = false) ∧
    (let s := idle.modIsland 0 fun i => { i with fallback := true, stored := some 3 }
     (s.island s.chosen).lost = false ∧ (s.island s.chosen).fallback = true) ∧ 64 ≤ ({ idle with chosen := 64 }).chosen := by decide +kernel
/-- R449: HALT halts, and RESUME without a halt is refused with status 3. -/
theorem test_mgmt : (next .mgmtHalt (request 5)).map (fun t => (t.halted, t.mgmtOut.map fun m => (m.status, m.seq))) = some (true, [(0, 6)]) ∧
    (next .mgmtResume (request 6)).map (fun t => t.mgmtOut.map fun m => m.status) = some [3] := by decide +kernel
/-- A lost reference runs the island at step 0 (R445); after it returned the stored step takes effect. -/
theorem test_clocks : (next .clockRefReturn (idle.modIsland 0 fun i => { i with lost := true, fallback := true })).map (fun t => (t.island 0).lost) = some false ∧
    (next .fallbackClear (idle.modIsland 0 fun i => { i with fallback := true, stored := some 3 })).map (fun t => (t.island 0).select) = some 3 := by decide +kernel

/-! ### More states and operands -/

/-- Another path of the split still sees old bytes of a sector, written by an instruction of path SCR that is over. -/
def oldSector (g : Group) : Group :=
  { g with olds := [{ lanes := 0xFFFFFFFF, sources := [(.scr, 5)], key := 0x100, bytes := List.replicate 32 0, now := List.replicate 32 1 }] }
theorem witness_FencesAndWaits_orders :
    Path.ofCode? 15 = none ∧ Path.ofCode? 1 = some .scr ∧
    (∃ x, Issues (.pfence 15 1) (at_ (.pfence 15 1)) x) ∧ (∃ x, Issues (.waitmem .grp (.v 4) .zero) (at_ (.waitmem .grp (.v 4) .zero) id 0) x ∧ (!x.anyActive) = true) ∧
    inGroup (at_ .nop (writeAway .scr 0x100)) (fun g => g.flights.any fun f => decide (f.id < g.nextFlight) && decide (f.lanes &&& 0xFFFFFFFF ≠ 0) && f.loose && f.path.any isCovered) = true ∧
    (let s := { at_ .nop (busy .glb false 1) with fabricOut := [{ fabric with owner := some (7, 0) }] }
     inGroup s fun g => g.flights.any fun f => decide (f.id < g.nextFlight) && f.path.any isCovered && s.fabricOut.any fun p => decide (p.owner = some (7, f.id))) = true ∧
    inGroup ((at_ .nop oldSector).pfence 7 0xFFFFFFFF .scr .glb) (fun h => h.olds.any fun o => o.sources.any fun e => decide (e.1 = .scr) && (h.flight? e.2).isNone) = true ∧
    (go (.waitmem .die (.v 4) .zero) (glob (.waitmem .die (.v 4) .zero) (fun g => ptrs 0x100 0 (writeAway .glb (cell 0x100) g)) 1) fun x =>
      match x.lanes x.s x.activeLanes (fun l => x.src64 (.v 4) l) 4 4 { r := true } true false with
      | .ok (s, gs) => (s.poisonOf gs 4).isNone && (s.orderFor x.g x.p.mask (some .glb) (grantCells gs 4)).blocked x.g.id x.p.mask (some .glb) (grantCells gs 4) true
      | _ => false) = true := by
  refine ⟨by decide, by decide, (wit (q := fun _ => true) ?_).imp fun _ h => h.1, wit ?_, ?_, ?_, ?_, ?_⟩ <;> decide +kernel
theorem witness_SlotsAndTags_core :
    (∃ x, Issues (.btset 7 (.s 0) .lit) (glob (.btset 7 (.s 0) .lit)) x ∧ (decide ((x.src64 (.s 0) x.scalarLane).toNat / 2 ^ 57 % 8 = 0) &&
      match translate x.s x.g.ctx x.g.die ((x.src64 (.s 0) x.scalarLane).toNat % 2 ^ 57) {} (some x.g.coreNum) with
        | .ok _ => true
        | _ => false) = true) := wit (by decide +kernel)
theorem witness_VersionedRegions_wait :
    (go (.st .n32 (.v 2) (.v 4) .zero) (glob (.st .n32 (.v 2) (.v 4) .zero) (fun g => regioned false [] (ptrs 0x100 0 (writeAway .glb (cell 0x100) g))) 1) fun x =>
      match x.lanes x.s x.activeLanes (fun l => x.src64 (.v 4) l + sext64 (x.src .zero l)) 4 4 { w := true } true false with
      | .ok (s, gs) => x.p.opener && mustWait x s (grantCells gs 4) false
      | _ => false) = true := by decide +kernel

/-- A gather of the group is to push at port 0, whose split drains it. -/
def draining (drain : Nat) (h : Hold) (g : Group) : Group :=
  { working .gat (.gather [] ⟨[], .n32, 1, 0⟩) g with ports := setAt g.ports 0 { code := some .gather, drain } }.modSplit 0 fun p => { p with hold := h }
theorem witness_Ports_drain :
    ([(Hold.none, 0, true), (.drain, 1, true), (.drain, 0, false)].all fun (h, n, more) => go (.qdrain (.q 0)) (at_ (.qdrain (.q 0)) (draining n h)) fun x =>
      decide ((x.g.ports.getD 0 {}).code = some .gather) && decide (x.p.hold = h) && decide (x.g.pushing (some .gather) (if h = .drain then n else x.g.nextFlight) = more) &&
        (x.g.engineFaultFor x.p).isNone) = true ∧
    ([3, 4, 5].all fun n => let g := port .cpycmd n (gr (sp []))
     decide (0 < g.ports.length) && decide ((g.ports.getD 0 {}).code = some .cpycmd) && decide ((((g.ports.getD 0 {}).partialCmd.length + (g.ports.getD 0 {}).entries.length) % 5 = 4) = (n = 4))) = true ∧
    ((port .mrow 3 (gr (sp []))).ports.getD 0 {}).code ≠ some .cpycmd := by decide +kernel
/-- R262: a push stands behind the entries of its port. -/
theorem test_push : (after (.mov .w32 (.q 0) .lit) (at_ (.mov .w32 (.q 0) .lit) (port .cpycmd 4) 1 77)).map (fun g =>
    ((g.ports.getD 0 {}).entries.map fun e => (e.word.toNat, e.note), g.nextFlight)) = some ([(5, 0), (5, 0), (5, 0), (5, 0), (77, 1)], 1) := by decide +kernel
theorem witness_Copies_denied :
    (let s := fabricked false (at_ .nop (working .cpy (.copy load48)))
     ((s.pick s.copies).any (fun e => (unitAt e.2.2.toGlobal e.2.2.pieces e.2.1.progress).any fun u => match copyUnit s e.1 e.2.1 e.2.2 u with
       | .error (some t) => t.denied
       | _ => false) && s.orphan?.isNone) = true) ∧
    (go (.gath (.v 4) .lit) (mapped rw (at_ (.gath (.v 4) .lit) (fun g => ptrs 0x100 4 { writeAway .gat (cell 0x100) g with ports := (port .gather 0 g).ports }) 3 0x00800004)) fun x =>
      match eachItem x.s (gatherItems x.activeLanes 1) (fun i => i.1) (fun i => x.src64 (.v 4) i.1 + BitVec.ofNat 64 (i.2 * 128)) false (fun s i =>
          access s x.g.agent (x.src64 (.v 4) i.1 + BitVec.ofNat 64 (i.2 * 128)).toNat 4 4 { r := true }) with
        | .ok (s, gs) => x.anyActive && (x.g.portOf .gather).isSome && mustWait x (s.harden x.g.id x.p.id 3) (grantCells (gs.map fun e => (e.1.1, e.2)) 4) true
        | _ => false) = true := by decide +kernel
theorem witness_RenderingInstructions_idle :
    ([(Instr.emitv (.v 4) (.v 2)), .emitp (.v 4) (.v 2)].all fun i => go i (passed 8 (at_ i id 0)) fun x => !x.anyActive && decide (x.g.prims ≤ 256)) = true ∧
    (go .emitend { passed 8 (at_ .emitend onLine) with acks := [counted] } fun x => decide (x.s.passOf x.g = some thePass) && decide (x.s.unaccepted x.g.die < 512) &&
      x.releaseOpen (x.atRelease 4)) = true ∧
    (go .emitend (passed 8 (at_ .emitend)) fun x => !x.releaseOpen (x.atRelease 4)) = true ∧
    (go (.tload (.v 0) (.v 2)) (squared 1 (at_ (.tload (.v 0) (.v 2)) (ramp 8) 0)) fun x => !acts x.i x.c &&
      (x.tileLanes ((x.tloadLanes (.v 0)).filter fun l => x.g.actsOn l && inMask x.active l) (.v 2)).isSome) = true ∧
    (go (.tstore (.v 0) .lit) (squared 1 (at_ (.tstore (.v 0) .lit) id 0 255)) fun x => !acts x.i x.c && (x.tileLanes x.activeLanes .lit).isSome) = true := by
  decide +kernel

/-- A march of 64 steps of 1/64 along the pool's first ray. -/
def longMarch : List Byte := patch (patch (patch marchBytes 32 (bytesOf 4 0x3C800000)) 36 [64]) 44 [1]
theorem witness_TexturesAndMarches_more :
    (let s := (pooled2 1 (mapped rw (pad 0 [] (at_ .nop fun g => port .msample 0 (raying (working .ray (.march longMarch 0 0 0 0 0x200) g)))))).writeMem (cell 0) [1]
     (s.pick (s.marchHeads.filter March.room)).any (fun m => match takeSamples s m.g m.d m.pool m.slot m.step 32 with
      | .ok (t, xs, more) => decide (more = some (0, 32)) && (match sampleRows t m.g m.d xs with
          | .ok _ => (m.g.enginePush .msample m.f.id (m.entry xs.length more.isNone)).isSome && !m.g.empty && decide ((m.g.portOf .msample).any fun n => (m.g.ports.getD n {}).drain ≤ m.f.id)
          | _ => false)
      | _ => false) = true) := by decide +kernel
theorem witness_TexturesAndMarches_idle :
    (go (.march (.s 8)) (at_ (.march (.s 8)) id 0) fun x => !x.anyActive) = true ∧ (go (.hgfetch (.v 0) (.v 4) (.s 8)) (at_ (.hgfetch (.v 0) (.v 4) (.s 8)) id 0) fun x => !acts x.i x.c) = true ∧
    (go (.texf (.v 8) (.v 4) (.s 8)) (mapped rw (at_ (.texf (.v 8) (.v 4) (.s 8)) (writeAway .gat (cell 0)) 1)) fun x =>
      x.anyActive && match x.s.clusterReach x.g (x.src (.s 8) x.firstLane).toNat 32 with
        | .key k => (match eachItem x.s (texelItems x .texf ⟨x.s.bytesAt k 32⟩ (.v 4)) (fun i => i.lane) (fun i => i.addr) false (fun s i =>
              access s x.g.agent i.addr.toNat (TexDesc.mk (x.s.bytesAt k 32)).texel 1 { r := true }) with
            | .ok (s, gs) => mustWait x (s.harden x.g.id x.p.id 3) (grantCells (gs.map fun q => (q.1.lane, q.2)) (TexDesc.mk (x.s.bytesAt k 32)).texel) true
            | _ => false)
        | _ => false) = true := by decide +kernel
/-- The pool's BVH has its root at 0x400: one node, whose only child is itself. -/
def looping : State :=
  ((pooled2 2 (mapped rw (at_ .nop (rayAt 0x10000000)))).writeMem (cell 0x200) (bytesOf 8 0x400)).writeMem (cell 0x400)
    (bytesOf 12 0 ++ bytesOf 4 0x40000000 ++ bytesOf 4 0x40000000 ++ bytesOf 4 0x40000000 ++ bytesOf 72 0 ++ bytesOf 4 0x10000000 ++ bytesOf 28 0)
/-- A visit leaves the machine and the walk as they are. -/
def stays (s : State) (g : Group) (w : Walk) : Bool :=
  match w.visit s g with
  | .go t v => decide (t = s) && decide (v.r = w.r) && decide (v.rec_.bytes = w.rec_.bytes) && decide (v.top = w.top) && decide (v.leaf = w.leaf)
  | _ => false
theorem stays_visit {s : State} {g : Group} {w : Walk} (h : stays s g w = true) : w.visit s g = .go s w := by
  unfold stays at h
  split at h
  · next t v hg =>
    obtain ⟨r, ⟨b⟩, tp, lf⟩ := v
    obtain ⟨r', ⟨b'⟩, tp', lf'⟩ := w
    simp_all
  · cases h
/-- Such a walk is under way still when an event has used its steps up. -/
theorem stays_run {s : State} {g : Group} {w : Walk} (h : stays s g w = true) (k : Nat) : w.run s g k = .go s w := by
  induction k with
  | zero => rfl
  | succ n ih => rw [Walk.run, stays_visit h]; exact ih
/-- A walk that ends as it starts. -/
def startsLoop (e : Group × RayWalk) : Bool := match startWalk looping e.1 e.2 with
  | .go t w => stays t e.1 w
  | _ => false
theorem witness_RayInstructions_goes_on : ∃ g r t w, looping.pick looping.walkers = some (g, r) ∧ walkRay looping g r = .go t w := by
  have h : (looping.pick looping.walkers).any startsLoop = true := by decide +kernel
  cases he : looping.pick looping.walkers with
  | none => rw [he] at h; cases h
  | some e =>
    have hs : startsLoop e = true := by rw [he] at h; exact h
    unfold startsLoop at hs
    split at hs
    · next t w hw => exact ⟨e.1, e.2, t, w, rfl, by simp [walkRay, hw, stays_run hs]⟩
    · cases hs
/-- The batch of 33 slots, one of whose records' lines is not acknowledged. -/
def hits (lines : List Nat) : State :=
  { at_ .nop (fun g => port .rayhit 0 { g with hitBatch := { slots := List.range 33, lines } }) with acks := [counted] }
theorem witness_RayInstructions_waits :
    ([[], [0x100]].all fun ls => ((hits ls).pick (hits ls).batches).any fun e => (hits ls).batchOpen e.1 e.2.2 == !ls.isEmpty) = true ∧
    ([(Instr.resume (.v 2) .zero), .commit (.v 2) .zero].all fun i => go i { at_ i onLine with acks := [counted] } (fun x => x.anyActive && releasesFirst i && x.releaseOpen (x.atRelease 3))) = true ∧
    (go (.commit (.v 2) .zero) (pooled2 2 (mapped rw (at_ (.commit (.v 2) .zero) raying 1))) fun x => !x.releaseOpen (x.atRelease 3) &&
      (slotLanes (x.atRelease 3) x.g.id ⟨x.issueMask, x.p.id, x.g.nextFlight⟩ (x.activeLanes.map fun l => (l, (x.src (.v 2) l).toNat))
        fun s g l slot => commitLane s g slot (x.src .zero l).toNat).isSome) = true ∧
    (let s := pooled2 2 (mapped rw (at_ .nop (rayAt 0x30000000)))
     (s.pick s.walkers).any fun e => match walkRay s e.1 e.2 with
      | .fault s' w t => (rayFaulted s' e.1 e.2 w t).isSome
      | _ => false) = true := by decide +kernel
/-- A ray whose state record's line a token store holds waits to become FAULTED (R418). -/
theorem witness_RayInstructions_faultWaits :
    (let s := { pooled2 2 (mapped rw (at_ .nop (rayAt 0x30000000))) with held := [{ store .held with phys := line0 + 0x2C0 }] }
     (s.pick s.walkers).any fun e => match walkRay s e.1 e.2 with
      | .fault s' w t => (rayFaulted s' e.1 e.2 w t).isNone
      | _ => false) = true := by decide +kernel
/-- A TKWAIT of a token of die 1, asked or not. -/
def abroad : Word := 0x800100C2
theorem witness_TokensAndCollectives_asks :
    (go (.tkwait .lit) (at_ (.tkwait .lit) id 1 abroad) fun x => decide (tokPkg abroad = x.s.pkgid) && (x.waitState x.s abroad).isNone && tokV abroad) = true ∧
    ([(1, WaitPhase.asked), (2, .landed), (3, .failed)].all fun (n, ph) =>
      go (.tkwait .lit) { at_ (.tkwait .lit) (fun g => g.modSplit 0 fun p => { p with hold := .token }) 1 abroad with
        waits := [{ die := 0, group := 7, split := 0, token := abroad, phase := ph }] } fun x => decide (x.p.hold = .token) && decide (x.waitState x.s abroad = some n)) = true ∧
    (go (.tkwait .lit) (waitTok 2) fun x => decide (tokDie tokWord = x.g.die) && decide (x.waitState x.s tokWord = some 2)) = true ∧
    (go (.stxw (.v 2) (.v 4) .lit) (glob (.stxw (.v 2) (.v 4) .lit) id 0) fun x => !x.anyActive) = true := by decide +kernel
/-- A TKWAIT asks the home of a token of another die with WATCH, and parks (R419). -/
theorem test_tkwait_asks : (next (.tkwait .lit) (at_ (.tkwait .lit) id 1 abroad)).map (fun t => (t.packets.map fun p => (p.type, p.dst, p.addr), t.waits.length, t.groups.map fun g =>
    g.splits.map fun p => p.hold)) = some ([(0x21, 1, abroad.toNat)], 1, [[.token]]) := by decide +kernel

theorem witness_SchedulingEvents_select :
    (let u := idle.noteWaits
     (u.pick ((u.splitsWhere u.runnable).map fun e => e.1.datapath).eraseDups).any fun dp =>
      (u.chooseSplit ((u.splitsWhere u.runnable).filter fun e => e.1.datapath = dp)).isSome) = true := by decide +kernel

theorem witness_LaunchEvents_queue : idle.nextChild?.isNone = true ∧
    (let s := { idle with children := [child 128] }
     s.childReady (child 128) && decide (s.children.find? (fun d => d.queue = (child 128).queue) = some (child 128)) && decide (s.nextChild? = some (child 128))) = true := by decide +kernel
/-- What a node's event asks for when it writes the node: these bytes, then a step that goes on. -/
def rewrites (s : State) (g : Graph) (c : Cursor) (at_ n v : Nat) (q : State → Bool) : Bool := match s.putNode g c at_ n v with
  | .ok t => q t
  | _ => false
theorem witness_LaunchEvents_more :
    (let s := graphAt kernelNode
     nodeIs { s with queues := setAt s.queues 0 { depth := 0 } } 1 fun s g _ b => !badNode b && !bit (nodeFlags b) 1 &&
       match hwReadAll s (s.graphLaunch g).ctx s.active (nodeLaunch b) 2 with
       | .ok (t, bytes) => !t.queueRoom (fieldAt bytes 26 1) 1
       | _ => false) = true ∧
    ([graphAt whileNode 0, graphAt (node 3 0 2 3 4 0 0x100 2 0)].all fun s => nodeIs s 3 fun s g c b => !badNode b && match s.takeSlot g b with
      | .ok (t, v) => (decide (v = 0) || decide (nodeCap b ≤ nodeArg b)) &&
        rewrites t g c 1 1 (if v ≠ 0 ∧ bit (nodeFlags b) 7 = false then nodeFlags b + 128 else nodeFlags b) fun t => rewrites t g c 24 4 0 fun _ => true
      | _ => false) = true ∧
    (nodeIs (graphAt (node 4 0 0 3 0xFFFF 0 0 0 2)) 4 fun s g c b => !badNode b && decide ((nodeArg b + 1) % 2 ^ 32 ≠ nodeJoin b) &&
      rewrites s g c 24 4 ((nodeArg b + 1) % 2 ^ 32) fun t => (t.endCursor g c).isOk) = true := by decide +kernel
/-- CAPHIT is bit 7 of FLAGS and ARG returns to 0 (R193); a JOIN that is not the last counts and ends the cursor. -/
theorem test_node_exits :
    (let s := graphAt (node 3 0 2 3 4 0 0x100 2 0)
     (memAfter .graphNodeWhile s (cell 1) 1, memAfter .graphNodeWhile s (cell 24) 4, stands .graphNodeWhile s)) = (some 0x80, some 0, some [(4, false)]) ∧
    (let s := graphAt (node 4 0 0 3 0xFFFF 0 0 0 2)
     (memAfter .graphNodeJoin s (cell 24) 4, stands .graphNodeJoin s)) = (some 1, some []) := by decide +kernel

/-- A die's directory has one region, around the line of the tests. -/
def dirOf (owned : Bool) (sharers : Nat) : State :=
  idle.modDie 0 fun d => { d with directory := [{ base := line0 / 65536 * 65536, size := 65536, owned, sharers := BitVec.ofNat 52 sharers, lastUse := 0 }] }
/-- A count of die `die`, for this writer. -/
def acked (die writer : Nat) : State := { idle with acks := [{ die, line := line0, expect := none, got := 0, writer }] }
/-- Die 1 asks for the line. -/
def wants (type : Nat) (plain : Bool := false) : MeshPacket := { pkt type 0 0 line0 with asker := 1, plain, owns := type = 2 }
theorem witness_MemorySystemEvents_requests :
    takes (meshed (wants 1 true)) 1 (fun p _ => p.plain) = true ∧ takes (meshed (wants 1) (acked 0 52)) 1 (fun p u => !p.plain && u.recalling p.dst line0) = true ∧
    ([dirOf false 0, dirOf false 12].all fun s => takes (meshed (wants 1) s) 1 fun p u => !p.plain && !u.recalling p.dst line0 &&
      decide ((u.dirRegion p.dst line0).other? p.asker = none) && decide (p.dst < u.dies.length) && decide ((u.die p.dst).directory.length < 2 ^ 20)) = true ∧
    (takes (meshed (wants 1) (dirOf true 4)) 1 fun p u => decide ((u.dirRegion p.dst line0).other? p.asker = some 2)) = true ∧
    ([acked 0 52, acked 1 1].all fun s => takes (meshed (wants 2) s) 2 fun p u => u.recalling p.dst line0 || u.counts p.asker line0) = true ∧
    ([(dirOf false 0, 0), (dirOf false 12, 2), (dirOf true 4, 1), ({ dirOf false 0 with replicas := [(line0, 5)] }, 1)].all fun e => takes (meshed (wants 2) e.1) 2 fun p u =>
      !u.recalling p.dst line0 && !u.counts p.asker line0 &&
      decide ((((u.dirRegion p.dst line0).holders ++ u.replicaHolders line0).filter fun d => d ≠ p.asker).eraseDups.length = e.2)) = true := by decide +kernel
/-- A place is this byte of a die. -/
def isCell (q : Place) (k h : Nat) : Bool := match q with
  | .cell k' h' => decide (k' = k ∧ h' = h)
  | _ => false
/-- Die 0 has the line, owned or not. -/
def holding (own : Bool) : State := { idle with l2 := [{ die := 0, line := line0, key := cell 0, own }] }
theorem witness_MemorySystemEvents_lines :
    ([1, 52].all fun a => let s := meshed { wants 5 with asker := a } (holding true)
      (s.takePacket ((s.packetsOf 5).filter s.invReady)).any fun e => (e.2.l2Line? e.1.dst line0).any fun e => e.own) = true ∧
    takes (meshed { wants 6 with asker := 0 } (acked 0 0)) 6 (fun p u => u.acks.any fun a => decide (a.die = p.dst ∧ a.line = line0 ∧ a.writer = p.asker)) = true ∧
    takes (meshed { wants 7 true with asker := 0, len := 128, payload := List.replicate 128 0 }) 7 (fun p _ => p.plain) = true ∧
    ([true, false].all fun b => takes (meshed { wants 7 with asker := 0, owns := b, aux := 1, len := 128, payload := List.replicate 128 0 } (acked 0 0)) 7 fun p u =>
      !p.plain && !p.skip && decide (p.owns = b) && isCell (u.placeOf p.dst line0) (cell 0) 0) = true ∧
    ([true, false].all fun b => let s := meshed { wants 8 with owns := b } (holding true)
      (s.takePacket ((s.packetsOf 8).filter fun q => !s.counts q.dst (lineOf q.addr))).any fun e => e.1.owns == b) = true ∧
    takes (meshed { wants 9 with len := 128, payload := List.replicate 128 0 }) 9 = true := by decide +kernel
/-- The group has an atomic under way whose home has been asked. -/
def asked90 (g : Group) : Group :=
  { busy .glb false 1 g with flights := (busy .glb false 1 g).flights.map fun f => { f with atoms := [{ lane := 0, key := cell 0, op := .add, items := [(0, 5, [])], asked := some 90 }] } }
def atoms90 (n : Nat) : State := { idle id asked90 with packets := List.replicate n { pkt 4 16 0 line0 (List.replicate 16 0) with tag := 90 } }
theorem witness_MemorySystemEvents_homes :
    (takes (meshed (pkt 3 4 0 line0 [1, 2, 3, 4])) 3 fun p u => isCell (u.writePlace p.dst p.addr) (cell 0) p.dst && isCell (u.placeOf p.dst p.addr) (cell 0) p.dst) = true ∧
    (let p : MeshPacket := { pkt 3 4 0 (2 ^ 46) [1, 2, 3, 4] with src := 0, dst := 1 }
     takes (meshed p (replicated idle)) 3 fun p u => (match u.writePlace p.dst p.addr, u.placeOf p.dst p.addr with
      | .cell _ h, .cell _ _ => decide (h ≠ p.dst)
      | _, _ => false) && (u.regionOf p.addr).any fun e => decide (e.target ≠ 4 ∧ e.mode = 1 ∧ (setBits 56 e.dieset).drop 1 ≠ [])) = true ∧
    ([1, 2].all fun n => takes (atoms90 n) 4 fun p u => (u.askedAtom? p.tag).isSome &&
      (u.packets.any fun q => q.type = 4 && q.src = p.src && q.tag = p.tag) == decide (n = 2)) = true ∧
    (takes (meshed (pkt 4 16 0 line0 (List.replicate 16 0))) 4 fun p u => (u.askedAtom? p.tag).isNone && isCell (u.writePlace p.dst p.addr) (cell 0) 0 &&
      (AtomicOp.ofCode? (fieldAt p.payload 0 1)).isSome) = true := by decide +kernel
/-- Two quiet halves of a region of 256 bytes. -/
def halves : State := { (idle.modDie 0 fun d => { d with directory := [{ base := 0, size := 128, owned := true, sharers := 4, lastUse := 0 },
    { base := 128, size := 128, owned := true, sharers := 4, lastUse := 0 }] }) with cycle := 65536 }
/-- The ring's command names a leaf that is not valid. -/
def ringEmpty : State := ring48.physWrite 48 0x41000 8 0x20800
theorem witness_MemorySystemEvents_events :
    ([1, 2, 3].all fun k => takes { idle with packets := [pkt 0xA 0 k line0, { pkt 1 0 0 line0 with src := 0, dst := 1, refused := true }] } 0xA fun p _ => decide (p.aux = k)) = true ∧
    { idle with cycle := 74, packets := [{ pkt 1 0 0 line0 with refused := true, resendAt := 74 }] }.resendDue?.isSome = true ∧
    (halves.mergeable?.any fun e => decide (e.1 < halves.dies.length)) = true ∧
    ([(8, 0), (0, 0), (0, 4)].all fun e => takes (meshed { pkt 0x30 e.2 0 0 [1, 0, 0, 0] with cls := e.1 }) 0x30 fun p _ => decide (p.len = e.2) && (bit p.cls 3 == decide (e.1 = 8))) = true ∧
    (ring48.migrating?.any fun r => !ring48.commandPoisoned r) = true ∧
    (let s := { ring48 with poison := [Space.key (.phys 0 0) 0x40000] }
     s.migrating?.any fun r => s.commandPoisoned r) = true ∧
    (ringEmpty.migrating?.any fun r => !ringEmpty.commandPoisoned r && leafRefused (ringEmpty.physRead r 0x20800 8)) = true ∧
    leafRefused (ring48.physRead 48 0x20000 8) = false := by decide +kernel
/-- A COLL of die 0 whose units have all gone. -/
def collGone : State := mk (working .fab (.coll 0 true 0 128 0 0) (gr { sp [] with clause := none }) |> fun g => { g with flights := g.flights.map fun f => { f with progress := 1 } })
theorem witness_MemorySystemEvents_collEnd : (collGone.notices.findSome? collGone.pushNotice).isNone = true ∧ collGone.collEnded?.isSome = true ∧
    (let s := mk (working .fab (.coll 0 false 0 128 0 0) (gr { sp [] with clause := none }))
     s.collEnded?.isNone && (s.pick ((s.packets.filter fun p => p.isColl && s.arriving p).map s.arriveUnit ++ s.colls.map s.stepColl)).isSome) = true ∧
    (let s := { storing { store .refused with nextAt := 256, away := some 0 } with cycle := 256 }
     (s.held.find? fun h => h.phase = .refused && h.nextAt ≠ 0 && decide (h.nextAt ≤ s.cycle)).isSome = true) ∧
    ([StorePhase.held, .refused].all fun ph => let s := { storing (store ph) with ns := 200001 }
     s.overHeld?.any fun h => decide (h.phase = ph)) = true := by decide +kernel

theorem witness_ManagementEvents_more :
    (writes (writing 6 0 (2 + 2 ^ 16)) (fun w => w.table = 6 && w.index = 0) fun w u => w.sys && (u.commitRing (w.whole u).value).isNone) = true ∧
    (writes (writing 6 0 2) (fun w => w.table = 6 && w.index = 0) fun w u => w.sys && (u.commitRing (w.whole u).value).isSome) = true ∧
    (let s := { idle with held := [{ store .ready with request := some fabric }] }
     decide (s.eackIn = []) && s.ready?.isSome) = true ∧
    (let s := { idle with fabricIn := [fabric] }
     s.ready?.isNone && (s.pick s.fabricIn).any fun p => decide (p.dpkg = s.pkgid)) = true ∧
    (let s := { idle with links := [{ id := 0, fails := 3 }, { id := 5, counter := 2 ^ 40 - 1 }] }
     decide (s.chosen < 128) && (s.link s.chosen).up && decide (3 ≤ (s.link s.chosen).fails) && s.spentLink?.isSome) = true ∧
    (let s := { idle with links := [{ id := 5, counter := 2 ^ 40 - 1 }] }
     decide (s.spentLink? = some 5) && decide ((s.link s.chosen).fails < 3)) = true ∧
    (decide (idle.chosen < 128) && (idle.link idle.chosen).up && idle.spentLink?.isNone) = true := by decide +kernel
end Sys2Proof.Tests
end

section
/-! Vector operands (R19): the word of every instruction is issued the same way, so the faults of its fields are those of the check
before it issues; the values and results of vector operands are read off their definitions. -/

namespace Sys2Proof

/-- Every operand of a well-formed instruction is within its field's kind. -/
theorem Instr.allows_of_wf {i : Instr} {k : Kind} {o : Operand} (h : i.wf = true) (hf : (k, o) ∈ i.fields) : k.allows o = true := by
  simp only [Instr.wf, Bool.and_eq_true, List.all_eq_true] at h
  obtain ⟨⟨⟨⟨-, hall⟩, -⟩, -⟩, -⟩ := h
  exact hall _ hf

/-- No field of two registers begins at an odd vector register (R19, R30). -/
theorem Kind.not_allows_odd {k : Kind} {n : Fin 96} (hk : k.width = 2) (hn : n.val % 2 = 1) : k.allows (.v n) = false := by
  cases k
  case dst64 | src64 | dread64 | pair | pairV => simp [Kind.allows, hn]
  case pairS => rfl
  all_goals cases hk

theorem Instr.not_wf_of_odd_pair {i : Instr} {k : Kind} {n : Fin 96} (hf : (k, Operand.v n) ∈ i.fields) (hk : k.width = 2)
    (hn : n.val % 2 = 1) : i.wf = false := by
  refine Bool.eq_false_iff.mpr fun hw => ?_
  have ha := Instr.allows_of_wf hw hf
  rw [Kind.not_allows_odd hk hn] at ha
  exact Bool.noConfusion ha

end Sys2Proof

namespace Sys2Proof.Machine

open Sys2Proof

/-! ### Values and results -/

theorem toNat_join64 (lo hi : Word) : (join64 lo hi).toNat = lo.toNat + 2 ^ 32 * hi.toNat := by
  have hlo := lo.isLt
  have hhi := hi.isLt
  rw [join64, BitVec.toNat_ofNat, Nat.mod_eq_of_lt (by omega)]

@[simp] theorem Ctx.src_v (x : Ctx) (n : Fin 96) (l : Nat) : x.src (.v n) l = x.g.reg (x.p.wb + n.val) l := rfl

theorem Ctx.src64_v (x : Ctx) (n : Fin 96) (l : Nat) :
    x.src64 (.v n) l = join64 (x.g.reg (x.p.wb + n.val) l) (x.g.reg (x.p.wb + n.val + 1) l) := rfl

theorem Ctx.out_v_ds (x : Ctx) (n : Fin 96) (f : Nat → List Word) :
    (x.out (.v n) f).ds =
      x.activeLanes.flatMap fun l => (f l).zipIdx.map fun e => .vec (x.p.wb + n.val + e.2) l e.1 := rfl

/-- Word k of an active lane's result goes to register WB + n + k of the lane. -/
theorem Ctx.mem_out_v {x : Ctx} {f : Nat → List Word} {l k : Nat} {w : Word} (n : Fin 96) (hl : l ∈ x.activeLanes)
    (hw : (f l)[k]? = some w) : Dest.vec (x.p.wb + n.val + k) l w ∈ (x.out (.v n) f).ds := by
  rw [Ctx.out_v_ds, List.mem_flatMap]
  exact ⟨l, hl, List.mem_map.mpr ⟨(w, k), List.mk_mem_zipIdx_iff_getElem?.mpr hw, rfl⟩⟩

/-! ### The checks of a word -/

/-- A word of R34 takes its effect through `issue` alone: each arm of `exec` that is a word's names its body, and the other arms are no words. -/
theorem exec_eq_issue {i : Instr} (s : State) (h : i.isInstruction = true) : ∃ body, exec i s = issue i s body := by
  cases i <;> cases h <;> exact ⟨_, rfl⟩

/-- A word that fails one of its checks raises that check's fault and has no other effect (R41). -/
theorem exec_of_checkWord {i : Instr} {s : State} {g : Group} {p : Split} {c : Clause} {t : Trap} (hw : i.isInstruction = true)
    (hi : s.issuer = some (g, p, c)) (hc : checkWord i s g p c = some t) : exec i s = .next (s.raise g.id p.id t) := by
  obtain ⟨body, he⟩ := exec_eq_issue s hw
  rw [he, issue_refused hi (by rw [preIssue, hc])]

theorem checkWord_of_not_wf {i : Instr} (s : State) (g : Group) (p : Split) (c : Clause) (h : i.wf = false) :
    checkWord i s g p c = some (trap .illegalOperand) := by
  simp [checkWord, h]

theorem checkWord_of_regRange {i : Instr} {s : State} {g : Group} {p : Split} {c : Clause} (hw : i.wf = true)
    (hs : sysFault i g p = none) (hf : formFault i s g p c = false) (hr : regRange i p.wb g.regCount = true) :
    checkWord i s g p c = some (trap .regRange) := by
  simp [checkWord, hw, hs, hf, hr]

/-- A vector field that reaches beyond the allocation is out of range. -/
theorem regRange_of_field {i : Instr} {k : Kind} {n : Fin 96} {wb count : Nat} (hf : (k, Operand.v n) ∈ i.fields)
    (h : count < wb + n.val + k.width) : regRange i wb count = true := by
  unfold regRange
  exact (Bool.or_eq_true _ _).mpr (.inl (List.any_eq_true.mpr ⟨_, hf, decide_eq_true h⟩))

/-- Settles O13: values and results are those of the registers from WB + n on; a field beyond the allocation fails the range check of
R41, and an odd pair its first one, the encoding. -/
theorem vectorOperandRange : Obligations.VectorOperandRange := by
  refine ⟨Ctx.src_v, fun x n l => ?_, fun x n f l k w hl hw => Ctx.mem_out_v n hl hw, ?_, ?_⟩
  · rw [Ctx.src64_v, toNat_join64]
  · intro i s g p c f n hi hs hw hsys hform hf hbeyond
    exact exec_of_checkWord hi hs (checkWord_of_regRange hw hsys hform (regRange_of_field hf hbeyond))
  · intro i s g p c f n hi hs hf hpair hodd
    exact exec_of_checkWord hi hs (checkWord_of_not_wf s g p c (Instr.not_wf_of_odd_pair hf hpair hodd))

end Sys2Proof.Machine
end

section
/-! What a split leaves as it was when it moves on (R11, R134–R137): nothing but splits, rejoin records, the orders of accesses and the
reads that these fix, and the bytes of the rejoin area. -/

namespace Sys2Proof.Safety

open Sys2Proof Sys2Proof.Machine

/-! ### Splits and rejoin records of a group -/

theorem flowOnly.refl (g : Group) : flowOnly g g := ⟨rfl, fun _ => rfl⟩

theorem flowOnly.trans {g h k : Group} (hgh : flowOnly g h) (hhk : flowOnly h k) : flowOnly g k := by
  obtain ⟨hh, hfix⟩ := hgh
  obtain ⟨hk, kfix⟩ := hhk
  refine ⟨hk.trans (by rw [hh]), fun hlate => ?_⟩
  have hfl := hfix hlate
  rw [kfix (by rw [hfl]; exact hlate), hfl]

theorem flowOnly.id_eq {g h : Group} (hf : flowOnly g h) : h.id = g.id := by rw [hf.1]
theorem flowOnly.regs_eq {g h : Group} (hf : flowOnly g h) : h.regs = g.regs := by rw [hf.1]
theorem flowOnly.scalars_eq {g h : Group} (hf : flowOnly g h) : h.scalars = g.scalars := by rw [hf.1]
theorem flowOnly.fstat_eq {g h : Group} (hf : flowOnly g h) : h.fstat = g.fstat := by rw [hf.1]
theorem flowOnly.sliceSize_eq {g h : Group} (hf : flowOnly g h) : h.sliceSize = g.sliceSize := by rw [hf.1]

theorem flowOnly_modSplit (g : Group) (pid : Nat) (f : Split → Split) : flowOnly g (g.modSplit pid f) := ⟨rfl, fun _ => rfl⟩

theorem flowOnly_touch (g : Group) (ns : List Nat) : flowOnly g (g.touch ns) := ⟨rfl, fun _ => rfl⟩

theorem flowOnly_arrive (g : Group) (pid : Nat) : flowOnly g (g.arrive pid) := by
  unfold Group.arrive
  split
  · exact .refl g
  · dsimp only
    split
    · exact .refl g
    · exact ⟨rfl, fun _ => rfl⟩

theorem flowOnly_releaseOne (g : Group) (r : Rejoin) : flowOnly g (g.releaseOne r) := by
  unfold Group.releaseOne
  dsimp only
  split <;> exact ⟨rfl, fun _ => rfl⟩

theorem flowOnly_settleJoins (g : Group) (fuel : Nat) : flowOnly g (g.settleJoins fuel) := by
  induction fuel generalizing g with
  | zero => exact .refl g
  | succ k ih =>
    unfold Group.settleJoins
    split
    · exact .refl g
    · next r _ => exact (((flowOnly_releaseOne g r).trans (flowOnly_touch _ [])).trans (flowOnly_arrive _ _)).trans (ih _)

/-- A split that goes to a header may park there and release records (R134, R135). -/
theorem flowOnly_goTo (g : Group) (pid : Nat) (f : Split → Split) : flowOnly g ((g.modSplit pid f).arrive pid).settle :=
  ((flowOnly_modSplit g pid f).trans (flowOnly_arrive _ pid)).trans (flowOnly_settleJoins _ 512)

end Sys2Proof.Safety

namespace Sys2Proof.Machine

open Sys2Proof Sys2Proof.Safety

/-! ### Reads that are fixed (R228) -/

theorem State.modGroup_self (s : State) (gid : Nat) : (s.modGroup gid fun g => g) = s := by
  simp [State.modGroup]

theorem State.modGroup_modGroup (s : State) (gid : Nat) {f k : Group → Group} (hf : ∀ g, g.id = gid → (f g).id = gid) :
    (s.modGroup gid f).modGroup gid k = s.modGroup gid fun g => k (f g) := by
  unfold State.modGroup
  simp only [List.map_map, State.mk.injEq, true_and, and_true]
  refine List.map_congr_left fun g _ => ?_
  by_cases hg : g.id = gid
  · simp [hg, hf g hg]
  · simp [hg]

/-- Nothing changes but lines of L1 copies and the outstanding instructions of one group. -/
def FixesReads (gid : Nat) (s t : State) : Prop :=
  ∃ (l : List L1Line) (f : List Flight → List Flight), t = { s with l1 := l }.modGroup gid fun g => { g with flights := f g.flights }

theorem FixesReads.refl (gid : Nat) (s : State) : FixesReads gid s s := ⟨s.l1, id, (State.modGroup_self s gid).symm⟩

theorem FixesReads.trans {gid : Nat} {s t u : State} (h : FixesReads gid s t) (k : FixesReads gid t u) : FixesReads gid s u := by
  obtain ⟨l, f, rfl⟩ := h
  obtain ⟨m, f', rfl⟩ := k
  exact ⟨m, fun fs => f' (f fs), State.modGroup_modGroup { s with l1 := m } gid (fun _ h => h)⟩

theorem FixesReads.foldl {α : Type} {gid : Nat} {f : State → α → State} (h : ∀ s a, FixesReads gid s (f s a)) (l : List α) (s : State) :
    FixesReads gid s (l.foldl f s) :=
  List.foldlRecOn l f (.refl gid s) fun t ht a _ => ht.trans (h t a)

theorem FixesReads.dropLine (gid : Nat) (s : State) (g : Group) (k : Nat) : FixesReads gid s (s.dropLine g k) :=
  ⟨_, id, (State.modGroup_self (s.dropLine g k) gid).symm⟩

theorem FixesReads.modFlight (s : State) (gid fid : Nat) (f : Flight → Flight) :
    FixesReads gid s (s.modGroup gid fun g => g.modFlight fid f) := ⟨s.l1, _, rfl⟩

theorem FixesReads.fixIn (s : State) (g : Group) (f : Flight) (sel : LateRead → Bool) : FixesReads g.id s (s.fixIn g f sel) := by
  unfold State.fixIn State.fixReads
  dsimp only
  split
  · exact .refl g.id s
  · exact (FixesReads.foldl (fun s (r : LateRead) => .dropLine g.id s g r.key) _ s).trans (.modFlight ..)

theorem FixesReads.fixGroup (s : State) (gid : Nat) (sel : LateRead → Bool) : FixesReads gid s (s.fixGroup gid sel) := by
  unfold State.fixGroup
  split
  · exact .refl gid s
  · next g hg =>
    obtain rfl := State.group?_id hg
    exact .foldl (fun s f => .fixIn s g f sel) g.flights s

theorem State.fixIn_of_late_nil (s : State) (g : Group) {f : Flight} (sel : LateRead → Bool) (h : f.late = []) :
    s.fixIn g f sel = s := by
  simp [State.fixIn, State.fixReads, h]

/-- Where no read is left to fix, none is fixed. -/
theorem State.fixGroup_of_late_nil {s : State} {gid : Nat} {g : Group} (sel : LateRead → Bool) (hg : s.group? gid = some g)
    (hl : g.flights.all (fun f => f.late.isEmpty) = true) : s.fixGroup gid sel = s := by
  unfold State.fixGroup
  rw [hg]
  refine List.foldlRecOn (motive := fun t => t = s) g.flights _ rfl fun t ht f hf => ?_
  rw [ht]
  exact State.fixIn_of_late_nil s g sel (List.isEmpty_iff.mp (List.all_eq_true.mp hl f hf))

/-! ### A group's flow moves on -/

/-- From `s` to `t` the group that `g` names moves on, and nothing else changes but images of its rejoin records. -/
structure MovesFlow (g : Group) (s t : State) : Prop where
  machine : sameMachine s t
  others : otherGroups s t g.id
  memory : memoryKept s t g
  group : ∀ {a}, s.group? g.id = some a → ∃ h, t.group? g.id = some h ∧ flowOnly a h

theorem MovesFlow.refl (g : Group) (s : State) : MovesFlow g s s :=
  ⟨rfl, fun _ _ => rfl, fun _ _ => rfl, fun {a} ha => ⟨a, ha, .refl a⟩⟩

theorem sameMachine_trans {s t u : State} (hst : sameMachine s t) (htu : sameMachine t u) : sameMachine s u := by
  unfold sameMachine at *
  exact htu.trans (by rw [hst])

theorem MovesFlow.trans {g : Group} {s t u : State} (hst : MovesFlow g s t) (htu : MovesFlow g t u) : MovesFlow g s u where
  machine := sameMachine_trans hst.machine htu.machine
  others n hn := (htu.others n hn).trans (hst.others n hn)
  memory k hk := (htu.memory k hk).trans (hst.memory k hk)
  group ha := by
    obtain ⟨b, hb, hab⟩ := hst.group ha
    obtain ⟨h, hh, hbh⟩ := htu.group hb
    exact ⟨h, hh, hab.trans hbh⟩

theorem MovesFlow.foldl {α : Type} {g : Group} {f : State → α → State} (h : ∀ s a, MovesFlow g s (f s a)) (l : List α) (s : State) :
    MovesFlow g s (l.foldl f s) :=
  List.foldlRecOn l f (.refl g s) fun t ht a _ => ht.trans (h t a)

/-- Only the group's identity and the size of its slices matter: they say where its rejoin area lies. -/
theorem MovesFlow.of_area {g h : Group} {s t : State} (hid : g.id = h.id) (hz : g.sliceSize = h.sliceSize) (hm : MovesFlow h s t) :
    MovesFlow g s t where
  machine := hm.machine
  others := hid ▸ hm.others
  memory := by
    have harea : rejoinByte g = rejoinByte h := by funext k; simp only [rejoinByte, Group.sliceKey, hid, hz]
    unfold memoryKept
    rw [harea]
    exact hm.memory
  group := hid ▸ hm.group

theorem MovesFlow.modGroup (s : State) (g : Group) {f : Group → Group} (hf : ∀ a, flowOnly a (f a)) :
    MovesFlow g s (s.modGroup g.id f) where
  machine := rfl
  others n hn := State.group?_modGroup_ne s g.id n f (fun a ha => (hf a).id_eq.trans ha) hn
  memory _ _ := rfl
  group {a} ha := ⟨f a, by rw [State.group?_modGroup_same s g.id f fun b hb => (hf b).id_eq.trans hb, ha]; rfl, hf a⟩

theorem MovesFlow.dropL1 (g : Group) (s : State) (k : Group) : MovesFlow g s (s.dropL1 k) :=
  ⟨rfl, fun _ _ => rfl, fun _ _ => rfl, fun {a} ha => ⟨a, ha, .refl a⟩⟩

theorem MovesFlow.fixGroup (g : Group) (s : State) (sel : LateRead → Bool) : MovesFlow g s (s.fixGroup g.id sel) := by
  obtain ⟨l, f, ht⟩ := FixesReads.fixGroup s g.id sel
  have hid : ∀ a : Group, a.id = g.id → ({ a with flights := f a.flights } : Group).id = g.id := fun _ h => h
  refine ⟨by rw [ht]; rfl, fun n hn => by rw [ht]; exact State.group?_modGroup_ne _ _ n _ hid hn, fun k _ => by rw [ht]; rfl, ?_⟩
  intro a ha
  have hs : (s.fixGroup g.id sel).group? g.id = some { a with flights := f a.flights } := by
    rw [ht, State.group?_modGroup_same _ _ _ hid, show ({ s with l1 := l } : State).group? g.id = some a from ha]; rfl
  refine ⟨_, hs, rfl, fun hl => ?_⟩
  rw [State.fixGroup_of_late_nil sel ha hl, ha] at hs
  exact congrArg Group.flights (Option.some.inj hs).symm

theorem MovesFlow.dropOlds (g : Group) (s : State) (sel : OldSector → Bool) : MovesFlow g s (s.dropOlds g.id sel) := by
  unfold State.dropOlds
  split
  · exact .refl g s
  · exact (MovesFlow.foldl (fun s _ => .fixGroup g s _) _ s).trans (.modGroup _ g fun _ => ⟨rfl, fun _ => rfl⟩)

theorem MovesFlow.acquire (g : Group) (s : State) (lanes : LaneMask) (sc : Scope) : MovesFlow g s (s.acquire g lanes sc) := by
  unfold State.acquire
  dsimp only
  split
  · exact .dropOlds ..
  · exact (MovesFlow.dropOlds ..).trans (.dropL1 ..)

theorem MovesFlow.popOrder (g : Group) (s : State) (lanes : LaneMask) (e : Nat × Entry) : MovesFlow g s (s.popOrder g lanes e) := by
  unfold State.popOrder
  split
  · exact .acquire ..
  · exact .acquire ..
  · exact .acquire ..
  · exact .dropOlds ..
  · exact .refl g s

theorem MovesFlow.addOrder (g : Group) (s : State) (lanes : LaneMask) (kind : OrderKind) (wide : Bool) :
    MovesFlow g s (s.addOrder g.id lanes kind wide) := .modGroup s g fun _ => ⟨rfl, fun _ => rfl⟩

theorem MovesFlow.rejoined (g : Group) (s : State) (lanes : LaneMask) : MovesFlow g s (s.rejoined g.id lanes) := by
  unfold State.rejoined
  split
  · exact .refl g s
  · exact (MovesFlow.addOrder ..).trans (.dropOlds ..)

/-- A record's image fills at most its 16 bytes (R138). -/
theorem Group.recordBytes_length_le (g : Group) (n : Nat) : (g.recordBytes n).length ≤ 16 := by
  unfold Group.recordBytes
  dsimp only
  split
  · simp [bytesOf_length]
  · split <;> simp [bytesOf_length]

theorem MovesFlow.spillRecord (g : Group) (s : State) (n : Nat) : MovesFlow g s (s.spillRecord g n) where
  machine := rfl
  others _ _ := rfl
  memory k hk := by
    refine State.byteAt_writeMem_out s _ _ k (Classical.byContradiction fun hin => hk ?_)
    have hlen := g.recordBytes_length_le n
    exact ⟨n, k - g.sliceKey (n / 8) (g.sliceSize - 512 + 16 * (n % 8)), by omega, by omega⟩
  group {a} ha := ⟨a, ha, .refl a⟩

/-- Once a group is put back, only its flow moves on. -/
theorem MovesFlow.putGroup (s : State) (g : Group) : MovesFlow g (s.modGroup g.id fun _ => g) (s.putGroup g) := by
  unfold State.putGroup
  dsimp only
  split
  · exact .refl g _
  · exact (MovesFlow.rejoined g _ _).trans (.foldl (fun s n => .spillRecord g s n) _ _)

/-- A group put back in its place is found there, moved on at most. -/
theorem State.group?_putGroup {s : State} {g a : Group} (ha : s.group? g.id = some a) :
    ∃ h, (s.putGroup g).group? g.id = some h ∧ flowOnly g h :=
  (MovesFlow.putGroup s g).group (by rw [State.group?_modGroup_same s g.id _ fun _ _ => rfl, ha]; rfl)

theorem MovesFlow.putGroup_of_flow {s : State} {g h : Group} (hg : s.group? g.id = some g) (hf : flowOnly g h) :
    MovesFlow g s (s.putGroup h) := by
  have hid := hf.id_eq
  have hput : MovesFlow g (s.modGroup h.id fun _ => h) (s.putGroup h) := .of_area hid.symm hf.sliceSize_eq.symm (.putGroup s h)
  refine ⟨hput.machine, fun n hn => ?_, hput.memory, fun {a} ha => ?_⟩
  · rw [hput.others n hn, State.group?_modGroup_ne s h.id n _ (fun _ _ => rfl) (hid ▸ hn)]
  · obtain rfl : g = a := Option.some.inj (hg.symm.trans ha)
    obtain ⟨k, hk, hhk⟩ := State.group?_putGroup (s := s) (g := h) (hid ▸ hg)
    exact ⟨k, hid ▸ hk, hf.trans hhk⟩

theorem MovesFlow.goHeader {s : State} {g : Group} (hg : s.group? g.id = some g) (pid : Nat) (a : DWord) :
    MovesFlow g s (s.goHeader g.id pid a) := by
  unfold State.goHeader
  rw [hg]
  exact .putGroup_of_flow hg (flowOnly_goTo g pid _)

/-- A split that moves on from its word changes nothing but its group's flow (R11). -/
theorem MovesFlow.advance {s : State} {g : Group} (hg : s.group? g.id = some g) (pid n : Nat) :
    MovesFlow g s (s.advance g.id pid n) := by
  unfold State.advance
  split
  · exact .refl g s
  · split
    · exact .refl g s
    · split
      · exact .goHeader hg pid _
      · exact .modGroup s g fun a => flowOnly_modSplit a pid _

/-! ### The issuing group -/

theorem Ctx.group?_ordered_took {y : Ctx} {k : Group} (hy : y.s.group? y.g.id = some y.g) (hk : k.id = y.g.id)
    (es : List (Nat × Entry)) :
    (y.took k es).ordered.s.group? (y.took k es).ordered.g.id = some (y.took k es).ordered.g := by
  obtain ⟨a, ha, -⟩ := State.group?_putGroup (g := k) (hk ▸ hy)
  obtain ⟨h, hh, -⟩ := (MovesFlow.foldl (fun s e => .popOrder k s y.p.mask e) es _).group ha
  have hs : (y.took k es).ordered.s.group? k.id = some h := hh
  have hg : (y.took k es).ordered.g = h := by
    change ((y.took k es).ordered.s.group? k.id).getD k = h
    rw [hs]; rfl
  rw [Ctx.ordered_gid, hg]
  exact hs

/-- What a word that issues sees as its group is the group of that number in the state it sees. -/
theorem issues_group? {i : Instr} {s : State} {x : Ctx} (h : Issues i s x) : x.s.group? x.g.id = some x.g := by
  obtain ⟨g, p, c, hi, hx⟩ := h
  obtain ⟨-, hg, -, -⟩ := State.issuer_spec hi
  obtain ⟨-, ⟨-, rfl⟩ | ⟨-, -, ht⟩⟩ := preIssue_cases hx
  · exact hg
  · obtain ⟨-, -, -, -, -, rfl | ⟨-, rfl⟩ | ⟨k, es, hpop, -, rfl⟩⟩ := takeEntries_go ht
    · exact hg
    · exact Ctx.group?_ordered_took hg (Group.modSplit_id ..) _
    · exact Ctx.group?_ordered_took hg (Group.popPorts_id hpop) es

end Sys2Proof.Machine
end

section
/-! Results of short instructions (R29–R31, R81): what a vector, scalar or port destination holds once the result is written, and LEA
(R86) as one of them. -/

namespace Sys2Proof.Machine

open Sys2Proof Sys2Proof.Safety

/-! ### Several cells of a register file -/

/-- Write cells of a store in their order. -/
def swriteAll {w : Nat} (st : Store w) (cells : List (Nat × BitVec w)) : Store w := cells.foldl (fun st e => swrite st e.1 e.2) st

theorem sread_swriteAll_of_not_mem {w : Nat} {k : Nat} (cells : List (Nat × BitVec w)) (st : Store w) (h : ∀ v, (k, v) ∉ cells) :
    sread (swriteAll st cells) k = sread st k := by
  induction cells generalizing st with
  | nil => rfl
  | cons e t ih =>
    obtain ⟨j, v⟩ := e
    have hk : k ≠ j := fun hj => h v (by simp [hj])
    exact (ih _ fun v' hv' => h v' (.tail _ hv')).trans (sread_swrite_ne st j v k hk)

/-- A cell that is written, always with the one value, holds it. -/
theorem sread_swriteAll_of_mem {w : Nat} {k : Nat} {v : BitVec w} {cells : List (Nat × BitVec w)} (st : Store w) (hm : (k, v) ∈ cells)
    (h : ∀ v', (k, v') ∈ cells → v' = v) : sread (swriteAll st cells) k = v := by
  induction cells generalizing st with
  | nil => cases hm
  | cons e t ih =>
    have htail : ∀ v', (k, v') ∈ t → v' = v := fun v' hv' => h v' (.tail _ hv')
    by_cases ht : (k, v) ∈ t
    · exact ih _ ht htail
    · obtain rfl : (k, v) = e := (List.mem_cons.mp hm).resolve_right ht
      refine (sread_swriteAll_of_not_mem t _ fun v' hv' => ht (htail v' hv' ▸ hv')).trans ?_
      exact sread_swrite_same st k v

/-! ### Results in registers -/

/-- The cells of the vector registers that a result fills: key physical register × 32 + lane. -/
def Ctx.vecCells (x : Ctx) (n : Nat) (f : Nat → List Word) : List (Nat × Word) :=
  x.activeLanes.flatMap fun l => (f l).zipIdx.map fun e => ((x.p.wb + n + e.2) * 32 + l, e.1)

/-- The cells of the scalar registers that a result fills. -/
def scalCells (n : Nat) (ws : List Word) : List (Nat × Word) := ws.zipIdx.map fun e => (n + e.2, e.1)

theorem mem_scalCells {n k : Nat} {ws : List Word} {w : Word} : (k, w) ∈ scalCells n ws ↔ ∃ j, ws[j]? = some w ∧ k = n + j := by
  simp only [scalCells, List.mem_map, Prod.exists, Prod.mk.injEq, List.mk_mem_zipIdx_iff_getElem?]
  exact ⟨fun ⟨_, j, hj, hk, hw⟩ => ⟨j, hw ▸ hj, hk.symm⟩, fun ⟨j, hj, hk⟩ => ⟨w, j, hj, hk.symm, rfl⟩⟩

theorem lt_of_mem_lanesOf {m : LaneMask} {l : Nat} (h : l ∈ lanesOf m) : l < 32 := List.mem_range.mp (List.mem_filter.mp h).1

theorem Ctx.mem_vecCells {x : Ctx} {n r l : Nat} {f : Nat → List Word} {w : Word} (hl : l < 32) :
    (r * 32 + l, w) ∈ x.vecCells n f ↔ l ∈ x.activeLanes ∧ ∃ j, (f l)[j]? = some w ∧ r = x.p.wb + n + j := by
  simp only [Ctx.vecCells, List.mem_flatMap, List.mem_map, Prod.exists, Prod.mk.injEq, List.mk_mem_zipIdx_iff_getElem?]
  constructor
  · rintro ⟨l', hl', v, j, hj, hk, rfl⟩
    have hlt := lt_of_mem_lanesOf hl'
    obtain rfl : l' = l := by omega
    exact ⟨hl', j, hj, by omega⟩
  · rintro ⟨hl', j, hj, rfl⟩
    exact ⟨l, hl', w, j, hj, rfl, rfl⟩

/-- Destinations that are vector registers fill their cells, in order. -/
theorem Group.applyDests_map_vec (g : Group) (cs : List (Nat × Nat × Word)) :
    g.applyDests (cs.map fun c => .vec c.1 c.2.1 c.2.2) =
      { g with regs := swriteAll g.regs (cs.map fun c => (c.1 * 32 + c.2.1, c.2.2)) } := by
  induction cs generalizing g with
  | nil => rfl
  | cons c t ih => exact ih (g.setReg c.1 c.2.1 c.2.2)

theorem Group.applyDests_out_v (g : Group) (x : Ctx) (n : Fin 96) (f : Nat → List Word) :
    g.applyDests (x.out (.v n) f).ds = { g with regs := swriteAll g.regs (x.vecCells n.val f) } := by
  have h := g.applyDests_map_vec (x.activeLanes.flatMap fun l => (f l).zipIdx.map fun e => (x.p.wb + n.val + e.2, l, e.1))
  simp only [List.map_flatMap, List.map_map] at h
  exact h

theorem Group.applyDests_scal (g : Group) (n : Nat) (ws : List (Word × Nat)) :
    g.applyDests (ws.map fun e => .scal (n + e.2) e.1) =
      { g with scalars := swriteAll g.scalars (ws.map fun e => (n + e.2, e.1)) } := by
  induction ws generalizing g with
  | nil => rfl
  | cons e t ih => exact ih (g.setScalar (n + e.2) e.1)

theorem Group.applyDests_out_s (g : Group) (x : Ctx) (n : Fin 16) (f : Nat → List Word) :
    g.applyDests (x.out (.s n) f).ds = { g with scalars := swriteAll g.scalars (scalCells n.val (f x.scalarLane)) } := by
  have hds : (x.out (.s n) f).ds = (f x.scalarLane).zipIdx.map fun e => .scal (n.val + e.2) e.1 := List.append_nil _
  rw [hds]
  exact g.applyDests_scal n.val _

theorem wordsOf_length (w64 : Bool) (n : Nat) : (wordsOf w64 n).length = resultWidth w64 := by cases w64 <;> rfl

theorem lt_resultWidth {w64 : Bool} {n k : Nat} {w : Word} (h : (wordsOf w64 n)[k]? = some w) : k < resultWidth w64 :=
  wordsOf_length w64 n ▸ (List.getElem?_eq_some_iff.mp h).1

/-! ### What a result leaves in its group -/

/-- The group after a result of a width is written to a destination. -/
def Ctx.wroteGroup (x : Ctx) (d : Operand) (w64 : Bool) (f : Nat → Nat) : Group :=
  written (x.out d fun l => wordsOf w64 (f l)) x.g

section
variable (x : Ctx) (w64 : Bool) (f : Nat → Nat)

theorem Ctx.wroteGroup_v (n : Fin 96) : x.wroteGroup (.v n) w64 f =
    { x.g with regs := swriteAll x.g.regs (x.vecCells n.val fun l => wordsOf w64 (f l)) } :=
  Group.applyDests_out_v x.g x n _

theorem Ctx.wroteGroup_s (n : Fin 16) : x.wroteGroup (.s n) w64 f =
    { x.g with scalars := swriteAll x.g.scalars (scalCells n.val (wordsOf w64 (f x.scalarLane))) } :=
  Group.applyDests_out_s x.g x n _

theorem Ctx.wroteGroup_q (n : Fin 8) : x.wroteGroup (.q n) w64 f =
    if x.anyActive then x.g.pushPort n.val (resultEntry x f) else x.g := by
  have hhead : ∀ l, (wordsOf w64 (f l)).headD 0 = BitVec.ofNat 32 (f l) := fun l => by cases w64 <;> rfl
  by_cases ha : x.anyActive = true
  · simp only [Ctx.wroteGroup, written, Ctx.out, Ctx.outOn, ha, if_true, hhead]
    rfl
  · simp only [Ctx.wroteGroup, written, Ctx.out, Ctx.outOn, ha]
    rfl

/-- A result leaves the group its identity, its slices and its sticky flags. -/
theorem Ctx.wroteGroup_keeps (d : Operand) :
    (x.wroteGroup d w64 f).id = x.g.id ∧ (x.wroteGroup d w64 f).sliceSize = x.g.sliceSize ∧
      (x.wroteGroup d w64 f).fstat = x.g.fstat := by
  cases d with
  | v n => rw [Ctx.wroteGroup_v]; exact ⟨rfl, rfl, rfl⟩
  | s n => rw [Ctx.wroteGroup_s]; exact ⟨rfl, rfl, rfl⟩
  | q n => rw [Ctx.wroteGroup_q]; split <;> exact ⟨rfl, rfl, rfl⟩
  | zero | lane | grpx | wb | mask | tidx | lit => exact ⟨rfl, rfl, rfl⟩

variable {x w64 f} {h : Group}

/-- A vector destination: the registers of the active lanes hold the words, all others what they held. -/
theorem wrote_v {n : Fin 96} (hf : flowOnly (x.wroteGroup (.v n) w64 f) h) (hfl : h.fstat = x.g.fstat) : Wrote x (.v n) w64 f 0 h := by
  rw [Ctx.wroteGroup_v] at hf
  have hreg : ∀ r l, h.reg r l = sread (swriteAll x.g.regs (x.vecCells n.val fun l => wordsOf w64 (f l))) (r * 32 + l) := fun r l => by
    rw [Group.reg, hf.regs_eq]
  refine ⟨by simp [hfl], fun l hl k w hw => ?_, fun r l hl hout => ?_, ?_⟩
  · have hlt := lt_of_mem_lanesOf hl
    rw [hreg]
    refine sread_swriteAll_of_mem _ ((Ctx.mem_vecCells hlt).mpr ⟨hl, k, hw, rfl⟩) fun v hv => ?_
    obtain ⟨-, j, hj, hkj⟩ := (Ctx.mem_vecCells hlt).mp hv
    obtain rfl : k = j := by omega
    exact Option.some.inj (hj.symm.trans hw)
  · rw [hreg]
    refine sread_swriteAll_of_not_mem _ _ fun v hv => hout ?_
    obtain ⟨hact, j, hj, rfl⟩ := (Ctx.mem_vecCells hl).mp hv
    have hj := lt_resultWidth hj
    exact ⟨hact, by omega, by omega⟩
  · rw [hf.regs_eq, hfl]
    exact hf

/-- A scalar destination: its registers hold the words for the split's lowest lane. -/
theorem wrote_s {n : Fin 16} (hf : flowOnly (x.wroteGroup (.s n) w64 f) h) (hfl : h.fstat = x.g.fstat) : Wrote x (.s n) w64 f 0 h := by
  rw [Ctx.wroteGroup_s] at hf
  have hscal : ∀ r, h.scalar r = sread (swriteAll x.g.scalars (scalCells n.val (wordsOf w64 (f x.scalarLane)))) r := fun r => by
    rw [Group.scalar, hf.scalars_eq]
  refine ⟨by simp [hfl], fun k w hw => ?_, fun r hout => ?_, ?_⟩
  · rw [hscal]
    refine sread_swriteAll_of_mem _ (mem_scalCells.mpr ⟨k, hw, rfl⟩) fun v hv => ?_
    obtain ⟨j, hj, hkj⟩ := mem_scalCells.mp hv
    obtain rfl : k = j := by omega
    exact Option.some.inj (hj.symm.trans hw)
  · rw [hscal]
    refine sread_swriteAll_of_not_mem _ _ fun v hv => hout ?_
    obtain ⟨j, hj, rfl⟩ := mem_scalCells.mp hv
    have hj := lt_resultWidth hj
    exact ⟨by omega, by omega⟩
  · rw [hf.scalars_eq, hfl]
    exact hf

/-- Once the group has its result and moves on, it has been written as the rules of results say. -/
theorem wrote_of_flowOnly {d : Operand} (hf : flowOnly (x.wroteGroup d w64 f) h) : Wrote x d w64 f 0 h := by
  obtain ⟨-, -, hkeep⟩ := x.wroteGroup_keeps w64 f d
  have hfl : h.fstat = x.g.fstat := hf.fstat_eq.trans hkeep
  cases d with
  | v n => exact wrote_v hf hfl
  | s n => exact wrote_s hf hfl
  | q n =>
    rw [Ctx.wroteGroup_q] at hf
    refine ⟨by simp [hfl], ?_⟩
    rw [hfl]
    exact hf
  | zero | lane | grpx | wb | mask | tidx | lit =>
    refine ⟨by simp [hfl], ?_⟩
    rw [hfl]
    exact hf

end

/-! ### Short instructions with one destination -/

section
variable (x : Ctx) (d : Operand) (w64 : Bool) (f : Nat → Nat)

/-- The state with the result written, before the split moves on. -/
def Ctx.wroteState : State := x.mod (written (x.out d fun l => wordsOf w64 (f l)))

/-- No group changes its number, so the result is looked up where it was written. -/
theorem Ctx.written_id (g : Group) (hg : g.id = x.g.id) : (written (x.out d fun l => wordsOf w64 (f l)) g).id = x.g.id :=
  (({ x with g } : Ctx).wroteGroup_keeps w64 f d).1.trans hg

theorem Ctx.group?_wroteState (hg : x.s.group? x.g.id = some x.g) :
    (x.wroteState d w64 f).group? x.g.id = some (x.wroteGroup d w64 f) := by
  rw [Ctx.wroteState, Ctx.mod, State.group?_modGroup_same _ _ _ (x.written_id d w64 f), hg]
  rfl

theorem Ctx.wroteState_storesNothing : storesNothing x (x.wroteState d w64 f) :=
  ⟨rfl, fun n hn => State.group?_modGroup_ne _ _ n _ (x.written_id d w64 f) hn, fun _ _ => rfl⟩

/-- The result is written, and then only the group's flow moves on. -/
theorem Ctx.moveOn_wroteState (hg : x.s.group? x.g.id = some x.g) :
    MovesFlow x.g (x.wroteState d w64 f) (moveOn x (x.wroteState d w64 f)) := by
  obtain ⟨hid, hz, -⟩ := x.wroteGroup_keeps w64 f d
  have hw := x.group?_wroteState d w64 f hg
  have hadv := MovesFlow.advance (hid.symm ▸ hw) x.p.id (wordCount x.i)
  rw [hid] at hadv
  exact .of_area hid.symm hz.symm hadv

end

/-- Storing nothing is kept while the group's flow moves on. -/
theorem storesNothing_of_movesFlow {x : Ctx} {s t : State} (h : storesNothing x s) (hm : MovesFlow x.g s t) : storesNothing x t := by
  obtain ⟨hmach, hoth, hmem⟩ := h
  exact ⟨sameMachine_trans hmach hm.machine, fun n hn => (hm.others n hn).trans (hoth n hn),
    fun k hk => (hm.memory k hk).trans (hmem k hk)⟩

/-- A word on no path whose effect is a result in one destination: it writes the result, stores nothing, and its split moves on. -/
theorem issue_alu {i : Instr} {s : State} {x : Ctx} (hi : Issues i s x) (hp : i.path = none) {body : Ctx → Res} {w64 : Bool} {d : Operand}
    {f : Nat → Nat} (hb : body x = x.alu w64 d f) :
    ∃ t h, issue i s body = .next t ∧ t.group? x.g.id = some h ∧ storesNothing x t ∧ Wrote x d w64 f 0 h := by
  have hg := issues_group? hi
  have hdone : x.idle (body x) = .done (x.wroteState d w64 f) := by
    rw [hb]
    exact Ctx.idle_done (.inr (issues_instr hi ▸ hp))
  have hmove := x.moveOn_wroteState d w64 f hg
  obtain ⟨h, hh, hflow⟩ := hmove.group (x.group?_wroteState d w64 f hg)
  exact ⟨_, h, issue_done hi body hdone, hh, storesNothing_of_movesFlow (x.wroteState_storesNothing d w64 f) hmove,
    wrote_of_flowOnly hflow⟩

/-! ### LEA (R86) -/

/-- The model's sum is the 64-bit sum of a and the shifted extension of b. -/
theorem toNat_lea (a b : DWord) (k : Nat) : (a + b * BitVec.ofNat 64 (2 ^ k)).toNat = (a.toNat + b.toNat * 2 ^ k) % 2 ^ 64 := by
  simp [BitVec.toNat_add, BitVec.toNat_mul]

theorem exec_lea {k : Shift} {d a b : Operand} {s : State} {x : Ctx} (hi : Issues (.lea k d a b) s x) :
    ∃ t h, exec (.lea k d a b) s = .next t ∧ t.group? x.g.id = some h ∧ storesNothing x t ∧
      Wrote x d true (fun l => (x.src64 a l + sext64 (x.src b l) * BitVec.ofNat 64 (2 ^ k.val)).toNat) 0 h := by
  simp only [toNat_lea]
  exact issue_alu hi rfl rfl

/-- A vector pair is no source under a scalar destination (R31). -/
theorem lea_not_wf_of_vector_source (k : Shift) (n : Fin 16) (r : Fin 96) (b : Operand) : (Instr.lea k (.s n) (.v r) b).wf = false := by
  have hrule : (Instr.lea k (.s n) (.v r) b).scalarRule = false := rfl
  simp [Instr.wf, hrule]

/-- With scalars alone both pairs need an even first register (R30). -/
theorem lea_wf_iff_even_pairs (k : Shift) (n m : Fin 16) :
    (Instr.lea k (.s n) (.s m) .zero).wf = true ↔ n.val % 2 = 0 ∧ m.val % 2 = 0 := by
  have hrule : (Instr.lea k (.s n) (.s m) .zero).scalarRule = true := rfl
  have hports : (Instr.lea k (.s n) (.s m) .zero).portsOnce = true := rfl
  have hlit : (Instr.lea k (.s n) (.s m) .zero).litCount = 0 := rfl
  simp [Instr.wf, Instr.immOk, Instr.fields, Kind.allows, hrule, hports, hlit]

/-- Settles O19: LEA is a short word with one 64-bit destination, so its result is written, its split moves on and nothing else
changes; its form is read off its fields. -/
theorem leaResult : Obligations.LeaResult :=
  ⟨fun _ _ _ _ _ _ hi => exec_lea hi, fun _ _ _ _ => ⟨rfl, rfl⟩,
    fun k n m r b => ⟨lea_not_wf_of_vector_source k n r b, lea_wf_iff_even_pairs k n m⟩, by decide⟩

end Sys2Proof.Machine
end

section
/-! Bounds faults of level accesses (R198, R202): every lane whose address plus size exceeds the level's allocation fails, and the word
raises the level's fault in all of them; a host core's allocations are empty, so there every lane fails. -/

namespace Sys2Proof.Machine

open Sys2Proof Sys2Proof.Safety

/-! ### The allocations of a host core (R202) -/

theorem State.scratchSize_host (s : State) {g : Group} (h : g.isHost = true) : s.scratchSize g = 0 := by
  simp [State.scratchSize, h]

theorem State.scratchSize_core (s : State) {g : Group} (h : g.isHost = false) : s.scratchSize g = (s.recordOf g).scratch := by
  simp [State.scratchSize, h]

theorem State.dieScratchSize_host (s : State) {g : Group} (h : g.isHost = true) : s.dieScratchSize g = 0 := by
  simp [State.dieScratchSize, h]

/-- The fault of an access beyond a level's allocation; a lane slice has none (R199, R202, R204, R207). -/
def Level4.boundsCause : Level4 → Cause
  | .cluster => .cluBounds
  | .die => .dieBounds
  | .lane | .scratch => .scrBounds

/-- The fault of an address, where it has one. -/
def Reach.cause? : Reach → Option Cause
  | .bad c => some c
  | .key _ | .zeros => none

theorem State.reach_scratch_cause (s : State) (g : Group) (l addr size : Nat) :
    (s.reach g .scratch l addr size).cause? = if s.scratchSize g < addr + size then some .scrBounds else none :=
  apply_ite Reach.cause? _ _ _

/-- A cluster address that passes the checks of its core offset still lies beyond an allocation that is empty. -/
theorem State.clusterReach_of_empty {s : State} {g : Group} {size : Nat} (h : s.scratchSize g = 0) (hsize : 0 < size) (addr : Nat) :
    s.clusterReach g addr size = .bad .cluBounds := by
  have hlt : s.scratchSize g < bits addr 0 21 + size := by omega
  unfold State.clusterReach
  simp only [if_pos hlt, ite_self]

/-- On a host core every address of an access lies beyond its level's allocation, but for the thread's lane slice. -/
theorem State.reach_host {s : State} {g : Group} {lv : Level4} {size : Nat} (h : g.isHost = true) (hlv : lv ≠ .lane) (hsize : 0 < size)
    (l addr : Nat) : s.reach g lv l addr size = .bad lv.boundsCause := by
  have hscr := s.scratchSize_host h
  cases lv with
  | lane => exact absurd rfl hlv
  | scratch => exact if_pos (by omega)
  | cluster => exact State.clusterReach_of_empty hscr hsize addr
  | die =>
    have hdie := s.dieScratchSize_host h
    exact if_pos (by omega)

/-! ### The fault of a word from its lanes (R198) -/

/-- The fault of a word of which these lanes fail a check of theirs. -/
def lanesTrap (c : Cause) (once : Bool) (lanes : List Nat) : Trap :=
  { trap c with tval := if once then 1 else maskOf lanes, byLanes := true }

/-- The lanes whose addresses are out of bounds, with their faults. -/
def Ctx.outOfBounds (x : Ctx) (lv : Level4) (lanes : List Nat) (addr : Nat → Nat) (size : Nat) : List (Nat × Cause) :=
  lanes.filterMap fun l => (x.s.reach x.g lv l (addr l) size).cause?.map fun c => (l, c)

section
variable {x : Ctx} {lv : Level4} {lanes : List Nat} {addr : Nat → Nat} {size : Nat} (once : Bool) {c : Cause} {p : Nat → Bool}

theorem Ctx.filterMap_eq_outOfBounds {f : Nat → Option (Nat × Cause)}
    (hf : ∀ l, f l = (x.s.reach x.g lv l (addr l) size).cause?.map fun c => (l, c)) :
    lanes.filterMap f = x.outOfBounds lv lanes addr size := by
  rw [Ctx.outOfBounds, funext hf]

/-- With every lane aligned, the first lane out of bounds gives the word's fault. -/
theorem Ctx.levelFault_of_aligned (halign : ∀ l ∈ lanes, addr l % size = 0) :
    x.levelFault lv lanes addr size once = (x.outOfBounds lv lanes addr size).head?.map fun e =>
      lanesTrap e.2 once ((x.outOfBounds lv lanes addr size).map Prod.fst) := by
  have hmis : (lanes.filter fun l => addr l % size ≠ 0) = [] := List.filter_eq_nil_iff.mpr fun l hl => by simp [halign l hl]
  unfold Ctx.levelFault
  dsimp only
  rw [hmis, if_neg fun h => h rfl, Ctx.filterMap_eq_outOfBounds (x := x) (lv := lv) (addr := addr) (size := size)]
  · cases x.outOfBounds lv lanes addr size <;> rfl
  · intro l
    cases x.s.reach x.g lv l (addr l) size <;> rfl

theorem Ctx.outOfBounds_of_cause (hcause : ∀ l ∈ lanes, (x.s.reach x.g lv l (addr l) size).cause? = if p l then some c else none) :
    x.outOfBounds lv lanes addr size = (lanes.filter p).map fun l => (l, c) := by
  unfold Ctx.outOfBounds
  induction lanes with
  | nil => rfl
  | cons l t ih =>
    obtain ⟨hl, ht⟩ := List.forall_mem_cons.mp hcause
    rw [List.filterMap_cons, List.filter_cons, hl, ih ht]
    cases p l <;> rfl

/-- Of lanes that are aligned those of a predicate are out of bounds, all with one cause: the word raises it in those lanes. -/
theorem Ctx.levelFault_of_cause (halign : ∀ l ∈ lanes, addr l % size = 0)
    (hcause : ∀ l ∈ lanes, (x.s.reach x.g lv l (addr l) size).cause? = if p l then some c else none) (hex : ∃ l ∈ lanes, p l = true) :
    x.levelFault lv lanes addr size once = some (lanesTrap c once (lanes.filter p)) := by
  rw [Ctx.levelFault_of_aligned once halign, Ctx.outOfBounds_of_cause hcause, List.map_map]
  obtain ⟨l, hl, hp⟩ := hex
  obtain ⟨k, t, ht⟩ := List.exists_cons_of_ne_nil (List.ne_nil_of_mem (List.mem_filter.mpr ⟨hl, hp⟩))
  simp [ht, Function.comp_def]

end

/-! ### The words of the levels -/

theorem loadBytes_pos (w : LWidth) : 0 < loadBytes w := by cases w <;> decide

theorem storeSize_pos (w : SWidth) : 0 < storeSize w := by cases w <;> decide

theorem exec_of_levelLoad {i : Instr} {lv : Level4} {w : LWidth} {d a b : Operand} (h : levelLoad i = some (lv, w, d, a, b)) (s : State) :
    exec i s = issue i s fun x => x.loadLevel lv w d a b := by
  unfold levelLoad at h
  split at h <;> cases h <;> rfl

theorem exec_of_levelStore {i : Instr} {lv : Level4} {w : SWidth} {d a b : Operand} (h : levelStore i = some (lv, w, d, a, b)) (s : State) :
    exec i s = issue i s fun x => x.storeLevel lv w d a b := by
  unfold levelStore at h
  split at h <;> cases h <;> rfl

theorem exec_of_levelAtomic {i : Instr} {lv : Level4} {o : AtomicOp} {d a b : Operand} (h : levelAtomic i = some (lv, o, d, a, b)) (s : State) :
    exec i s = issue i s fun x => x.atomLevel lv o d a b := by
  unfold levelAtomic at h
  split at h <;> cases h <;> rfl

/-- A level load, store or atomic, with the bytes and the lanes of its accesses, and whether it acts once on the scalar pipe (R243). -/
def LevelAccess (i : Instr) (x : Ctx) (lv : Level4) (a b : Operand) (size : Nat) (lanes : List Nat) (once : Bool) : Prop :=
  (∃ w d, levelLoad i = some (lv, w, d, a, b) ∧ size = loadBytes w ∧ lanes = x.lanesFor d ∧ once = isScalar d) ∨
  (∃ w d, levelStore i = some (lv, w, d, a, b) ∧ size = storeSize w ∧ lanes = x.activeLanes ∧ once = false) ∨
  (∃ o d, levelAtomic i = some (lv, o, d, a, b) ∧ size = 4 ∧ lanes = x.lanesFor d ∧ once = isScalar d)

section
variable {i : Instr} {s : State} {x : Ctx} {lv : Level4} {a b : Operand} {size : Nat} {lanes : List Nat} {once : Bool}

theorem LevelAccess.size_pos (h : LevelAccess i x lv a b size lanes once) : 0 < size := by
  obtain ⟨w, -, -, rfl, -⟩ | ⟨w, -, -, rfl, -⟩ | ⟨-, -, -, rfl, -⟩ := h
  · exact loadBytes_pos w
  · exact storeSize_pos w
  · decide

/-- A level access whose checks fail raises their fault and has no other effect. -/
theorem LevelAccess.exec_fault (h : LevelAccess i x lv a b size lanes once) (hi : Issues i s x) {t : Trap}
    (hf : x.levelFault lv lanes (x.levelAddr a b) size once = some t) : exec i s = .next (s.raise x.g.id x.p.id t) := by
  obtain ⟨w, d, hform, rfl, rfl, rfl⟩ | ⟨w, d, hform, rfl, rfl, rfl⟩ | ⟨o, d, hform, rfl, rfl, rfl⟩ := h
  · rw [exec_of_levelLoad hform]
    exact issue_fault hi _ (by simp only [Ctx.loadLevel, hf])
  · rw [exec_of_levelStore hform]
    exact issue_fault hi _ (by simp only [Ctx.storeLevel, hf])
  · rw [exec_of_levelAtomic hform]
    exact issue_fault hi _ (by simp only [Ctx.atomLevel, hf])

variable (h : LevelAccess i x lv a b size lanes once) (hi : Issues i s x) (halign : ∀ l ∈ lanes, x.levelAddr a b l % size = 0)
include h hi halign

/-- A scratchpad access raises SCR_BOUNDS in the lanes whose address plus size exceeds SCRATCH. -/
theorem LevelAccess.exec_scrBounds (hlv : lv = .scratch) (hex : ∃ l ∈ lanes, x.s.scratchSize x.g < x.levelAddr a b l + size) :
    exec i s = .next (s.raise x.g.id x.p.id
      (lanesTrap .scrBounds once (lanes.filter fun l => x.s.scratchSize x.g < x.levelAddr a b l + size))) := by
  subst hlv
  refine h.exec_fault hi (Ctx.levelFault_of_cause once halign (fun l _ => ?_) (by simpa using hex))
  simp only [State.reach_scratch_cause, decide_eq_true_eq]

/-- On a host core an access of a bounded level raises the level's fault in every lane. -/
theorem LevelAccess.exec_host (hg : x.g.isHost = true) (hlv : lv ≠ .lane) (hne : lanes ≠ []) :
    exec i s = .next (s.raise x.g.id x.p.id (lanesTrap lv.boundsCause once lanes)) := by
  obtain ⟨l, hl⟩ := List.exists_mem_of_ne_nil lanes hne
  have hf := Ctx.levelFault_of_cause (c := lv.boundsCause) (p := fun _ => true) once halign
    (fun l _ => by rw [State.reach_host hg hlv h.size_pos]; rfl) ⟨l, hl, rfl⟩
  rw [List.filter_eq_self.mpr fun _ _ => rfl] at hf
  exact h.exec_fault hi hf

end

/-- Settles O33: in bounds or not is decided lane by lane, all lanes that fail fail with the level's one cause, and a host core's
allocations are empty. -/
theorem scratchBounds : Obligations.ScratchBounds := by
  intro s x i a b size lanes once lv hi hform halign
  have h : LevelAccess i x lv a b size lanes once := hform
  refine ⟨h.exec_scrBounds hi halign, fun hg hlv hne => ?_, fun hg => ⟨x.s.scratchSize_host hg, x.s.dieScratchSize_host hg⟩,
    x.s.scratchSize_core⟩
  rw [h.exec_host hi halign hg hlv hne]
  cases lv <;> rfl

end Sys2Proof.Machine
end

section
/-! The road of a pending fault (R352–R354, R357, R363): what aborting an unhardened region leaves of a group, which pending fault is the
oldest and which is fatal at once, the record of a fatal fault, and what a delivery does in each of its cases. -/

namespace Sys2Proof.Machine

open Sys2Proof

/-! ### Aborting a region (R363) -/

/-- What no step of a fold changes, the fold does not change. -/
theorem foldl_keeps {α β γ : Type} (k : α → γ) {f : α → β → α} (hf : ∀ a b, k (f a b) = k a) (l : List β) (a : α) :
    k (l.foldl f a) = k a := by
  induction l generalizing a with
  | nil => rfl
  | cons b t ih => rw [List.foldl_cons, ih, hf]

/-- The checkpoint's registers are written one by one, so what no register write changes stays. -/
theorem Group.restoreRegs_keeps {γ : Type} (k : Group → γ) (hk : ∀ g n l w, k (g.setReg n l w) = k g) (g : Group) (r : Region) :
    k (g.restoreRegs r) = k g :=
  foldl_keeps k (fun g l => foldl_keeps k (fun g _ => hk g _ l _) _ g) _ g

@[simp] theorem Group.restoreRegs_id (g : Group) (r : Region) : (g.restoreRegs r).id = g.id :=
  Group.restoreRegs_keeps Group.id Group.setReg_id g r
@[simp] theorem Group.restoreRegs_ctx (g : Group) (r : Region) : (g.restoreRegs r).ctx = g.ctx :=
  Group.restoreRegs_keeps Group.ctx Group.setReg_ctx g r
@[simp] theorem Group.restoreRegs_splits (g : Group) (r : Region) : (g.restoreRegs r).splits = g.splits :=
  Group.restoreRegs_keeps Group.splits Group.setReg_splits g r

@[simp] theorem Group.restorePreds_id (g : Group) (r : Region) : (g.restorePreds r).id = g.id :=
  foldl_keeps Group.id (fun g n => g.setPred_id n _ _) _ g
@[simp] theorem Group.restorePreds_ctx (g : Group) (r : Region) : (g.restorePreds r).ctx = g.ctx :=
  foldl_keeps Group.ctx (fun g n => g.setPred_ctx n _ _) _ g
@[simp] theorem Group.restorePreds_splits (g : Group) (r : Region) : (g.restorePreds r).splits = g.splits :=
  foldl_keeps Group.splits (fun g n => g.setPred_splits n _ _) _ g

/-- A split back at the VBEGIN of its region. -/
def Split.atCheckpoint (p : Split) (r : Region) : Split :=
  { p with pc := r.header, clause := none, wb := r.wb, pwb := none, join := r.join, opener := false, reissue := none, resume := none }

/-- A group whose region, opened by a split, has aborted. -/
def Group.aborted (g : Group) (r : Region) (pid : Nat) : Group :=
  let h := (g.restoreRegs r).restorePreds r
  { h with region := none, last := 2, aborts := incSat h.aborts }.modSplit pid fun p => p.atCheckpoint r

@[simp] theorem Group.aborted_id (g : Group) (r : Region) (pid : Nat) : (g.aborted r pid).id = g.id := by simp [Group.aborted]
@[simp] theorem Group.aborted_ctx (g : Group) (r : Region) (pid : Nat) : (g.aborted r pid).ctx = g.ctx := by simp [Group.aborted]

theorem Group.split?_aborted (g : Group) (r : Region) (pid : Nat) :
    (g.aborted r pid).split? pid = (g.split? pid).map fun p => p.atCheckpoint r := by
  refine (Group.split?_modSplit_same _ pid (fun p => p.atCheckpoint r) fun _ h => h).trans ?_
  simp [Group.split?]

theorem State.context_abortRegion (s : State) (gid pid c : Nat) : (s.abortRegion gid pid).context c = s.context c := by
  unfold State.abortRegion
  repeat' split
  all_goals rfl

/-- The test by which an abort is passed over, for a group that has a region. -/
theorem Group.hard_or_not_opener {g : Group} {r : Region} (hr : g.region = some r) (p : Split) :
    (r.hard || !p.opener) = !g.unhardened p := by
  simp [Group.unhardened, hr, Bool.or_comm]

section
variable {s : State} {g : Group} {p : Split} {gid pid : Nat} (hg : s.group? gid = some g) (hp : g.split? pid = some p)
include hg hp

theorem State.abortRegion_of_not_unhardened (h : g.unhardened p = false) : s.abortRegion gid pid = s := by
  simp only [State.abortRegion, hg, hp]
  cases hr : g.region with
  | none => rfl
  | some r => exact if_pos (by rw [Group.hard_or_not_opener hr, h]; rfl)

theorem State.abortRegion_of_unhardened (h : g.unhardened p = true) :
    ∃ r, g.region = some r ∧ s.abortRegion gid pid = s.modGroup gid fun g => g.aborted r pid := by
  simp only [State.abortRegion, hg, hp]
  cases hr : g.region with
  | none => simp [Group.unhardened, hr] at h
  | some r => exact ⟨r, rfl, if_neg (by rw [Group.hard_or_not_opener hr, h]; exact Bool.false_ne_true)⟩

/-- Whether or not a region aborts, its group and split are still there, in the same context. -/
theorem State.group?_abortRegion :
    ∃ h q, (s.abortRegion gid pid).group? gid = some h ∧ h.split? pid = some q ∧ h.ctx = g.ctx := by
  cases hu : g.unhardened p with
  | false => exact ⟨g, p, by rw [State.abortRegion_of_not_unhardened hg hp hu, hg], hp, rfl⟩
  | true =>
    obtain ⟨r, -, he⟩ := State.abortRegion_of_unhardened hg hp hu
    refine ⟨g.aborted r pid, p.atCheckpoint r, ?_, by rw [Group.split?_aborted, hp]; rfl, g.aborted_ctx r pid⟩
    rw [he, State.group?_modGroup_same s gid _ (fun k hk => (k.aborted_id r pid).trans hk), hg]
    rfl

end

/-! ### Pending faults (R352, R353) -/

/-- The splits of a group whose pending fault can still be delivered. -/
def Group.pendings (g : Group) : List Split := g.splits.filter fun p => p.pend.isSome && !p.dead && !p.escalated

theorem Group.mem_pendings {g : Group} {p : Split} :
    p ∈ g.pendings ↔ p ∈ g.splits ∧ p.pend.isSome = true ∧ p.dead = false ∧ p.escalated = false := by
  simp [Group.pendings, and_assoc]

/-- Of a split and a list of others, the one with the oldest fault (the earlier in the list where two are as old). -/
def oldestOf (p : Split) (ps : List Split) : Split := ps.foldl (fun a b => if b.pendSeq < a.pendSeq then b else a) p

theorem oldestOf_cons (p b : Split) (ps : List Split) :
    oldestOf p (b :: ps) = oldestOf (if b.pendSeq < p.pendSeq then b else p) ps := rfl

theorem oldestOf_mem (p : Split) (ps : List Split) : oldestOf p ps ∈ p :: ps := by
  induction ps generalizing p with
  | nil => exact List.mem_singleton_self p
  | cons b t ih =>
    rw [oldestOf_cons]
    split
    · exact List.mem_cons_of_mem p (ih b)
    · exact List.cons_subset_cons p (List.subset_cons_self b t) (ih p)

theorem oldestOf_le (p : Split) (ps : List Split) : ∀ q ∈ p :: ps, (oldestOf p ps).pendSeq ≤ q.pendSeq := by
  induction ps generalizing p with
  | nil => exact fun q hq => (List.mem_singleton.mp hq) ▸ Nat.le_refl _
  | cons b t ih =>
    rw [oldestOf_cons, List.forall_mem_cons, List.forall_mem_cons]
    split
    · next hlt =>
      obtain ⟨hb, ht⟩ := List.forall_mem_cons.mp (ih b)
      exact ⟨Nat.le_trans hb (Nat.le_of_lt hlt), hb, ht⟩
    · next hge =>
      obtain ⟨hp, ht⟩ := List.forall_mem_cons.mp (ih p)
      exact ⟨hp, Nat.le_trans hp (Nat.not_lt.mp hge), ht⟩

/-- The oldest pending fault of a group is a split's own, and no pending fault of the group is older. -/
theorem Group.oldestPend?_spec {g : Group} {p : Split} {t : Trap} (h : g.oldestPend? = some (p, t)) :
    p ∈ g.pendings ∧ p.pend = some t ∧ ∀ q ∈ g.pendings, p.pendSeq ≤ q.pendSeq := by
  unfold Group.oldestPend? at h
  dsimp only at h
  split at h
  · cases h
  · next a rest hps =>
    simp only [Option.map_eq_some_iff, Prod.mk.injEq] at h
    obtain ⟨t', hpend, rfl, rfl⟩ := h
    change g.pendings = a :: rest at hps
    exact ⟨hps ▸ oldestOf_mem a rest, hpend, hps ▸ oldestOf_le a rest⟩

/-- The pending fault of a split is fatal at once: raised in handler mode, or of class F (R352). -/
def Split.fatalAtOnce (p : Split) : Bool := p.handler || (p.pend.map fun t => t.cause.cls) = some .f

theorem Group.fatalPend?_eq (g : Group) :
    g.fatalPend? = (g.pendings.find? Split.fatalAtOnce).bind fun p => p.pend.map fun t => (p, t) := rfl

theorem Group.fatalPend?_eq_none {g : Group} (h : g.fatalPend? = none) {p : Split} (hp : p ∈ g.pendings) : p.fatalAtOnce = false := by
  cases hf : g.pendings.find? Split.fatalAtOnce with
  | none => simpa using List.find?_eq_none.mp hf p hp
  | some q =>
    obtain ⟨-, hpend, -⟩ := Group.mem_pendings.mp (List.mem_of_find?_eq_some hf)
    obtain ⟨t, ht⟩ := Option.isSome_iff_exists.mp hpend
    simp [Group.fatalPend?_eq, hf, ht] at h

theorem Group.fatalPend?_eq_some {g : Group} {p : Split} {t : Trap} (h : g.fatalPend? = some (p, t)) :
    p ∈ g.pendings ∧ p.pend = some t ∧ p.fatalAtOnce = true := by
  rw [Group.fatalPend?_eq, Option.bind_eq_some_iff] at h
  obtain ⟨q, hq, h⟩ := h
  simp only [Option.map_eq_some_iff, Prod.mk.injEq] at h
  obtain ⟨t', ht, rfl, rfl⟩ := h
  exact ⟨List.mem_of_find?_eq_some hq, ht, List.find?_some hq⟩

theorem Split.fatalAtOnce_iff {p : Split} {t : Trap} (h : p.pend = some t) :
    p.fatalAtOnce = true ↔ p.handler = true ∨ t.cause.cls = .f := by
  simp [Split.fatalAtOnce, h]

/-- A group with a pending fault that is fatal at once delivers such a fault. -/
theorem Group.exists_fatalPend? {g : Group} {p : Split} (hp : p ∈ g.pendings) (hf : p.fatalAtOnce = true) :
    ∃ q u, g.fatalPend? = some (q, u) := by
  cases h : g.fatalPend? with
  | none => rw [Group.fatalPend?_eq_none h hp] at hf; cases hf
  | some e => exact ⟨e.1, e.2, rfl⟩

/-! ### Fatal faults (R357) -/

theorem State.fatal_fatals (s : State) (g : Group) (p : Split) (t : Trap) (nested : Bool) :
    (s.fatal g p t nested).fatals = s.fatals ++ [s.recordFor g p t 1 nested] := rfl

/-- A fatal fault of an instruction's lanes adds one record of kind 1, whether or not a split still holds the lanes. -/
theorem State.fatalFor_fatals (s : State) (g : Group) (mask : LaneMask) (t : Trap) :
    ∃ r, (s.fatalFor g mask t).fatals = s.fatals ++ [r] ∧ r.kind = 1 := by
  unfold State.fatalFor
  split <;> exact ⟨_, rfl, rfl⟩

/-- An engine fault that no lane is left to take is fatal (R268). -/
theorem exec_engineFault_of_orphan {s : State} {g : Group} {e : EngineFault} (h : s.orphan? = some (g, e)) :
    exec .engineFault s = .next ((s.fatalFor g e.mask (engineTrap e)).modGroup g.id fun g =>
      { g with efaults := removeFirst g.efaults e }) := by
  change execEngineFault s = _
  simp only [execEngineFault, h]

/-! ### Delivery (R352, R353) -/

section
variable {s : State} {g : Group} {p : Split} {t : Trap} {gid : Nat} (hg : s.group? gid = some g)
include hg

theorem State.deliver_of_fatalPend? (h : g.fatalPend? = some (p, t)) : s.deliver gid = s.fatal g p t p.handler := by
  simp only [State.deliver, hg, h]

variable (hf : g.fatalPend? = none)
include hf

theorem State.deliver_of_handler (h : g.handler ≠ none) : s.deliver gid = s := by
  simp [State.deliver, hg, hf, Option.isSome_iff_ne_none.mpr h]

/-- With no handler running, the oldest pending fault takes its road when nothing keeps it waiting. -/
theorem State.deliver_of_oldestPend? (hh : g.handler = none) (ho : g.oldestPend? = some (p, t)) :
    s.deliver gid = if s.stoppingGroup g || s.awaits g p t then s else s.takeRoad gid p.id t := by
  simp [State.deliver, hg, hf, hh, ho]

end

/-- The road of a fault of class H or P, once an unhardened region of its split has aborted. -/
theorem State.takeRoad_eq {s : State} {h : Group} {q : Split} {t : Trap} {gid pid : Nat} (hc : t.cause.cls = .h ∨ t.cause.cls = .p)
    (hh : (s.abortRegion gid pid).group? gid = some h) (hq : h.split? pid = some q) :
    s.takeRoad gid pid t =
      if bit (s.context h.ctx).tvec.toNat 0 then (s.abortRegion gid pid).enterHandler h q t
      else if t.cause.cls = .p then ((s.abortRegion gid pid).modGroup gid fun g => g.writeTrap q t).escalate gid pid t
      else (s.abortRegion gid pid).fatal h q t false := by
  have hroad : (decide (t.cause.cls = .h) || decide (t.cause.cls = .p)) = true := by simpa using hc
  simp only [State.takeRoad, if_pos hroad, hh, hq, State.context_abortRegion]

/-- Settles O14: a delivery is a fatal fault, a wait or the oldest fault's road, and an abort before the road leaves the group, its split
and its context in place. -/
theorem faultRoads : Obligations.FaultRoads := by
  refine ⟨?_, ?_, ?_, ?_⟩
  · intro s g p t hg hp hf ho hc
    obtain ⟨hpend, hpt, hle⟩ := Group.oldestPend?_spec ho
    have hnot := Group.fatalPend?_eq_none hf hpend
    refine ⟨⟨hpt, ?_, ?_⟩, State.deliver_of_handler hg hf, ?_, State.abortRegion_of_not_unhardened hg hp, ?_⟩
    · exact Bool.eq_false_iff.mpr fun hh => Bool.eq_false_iff.mp hnot ((Split.fatalAtOnce_iff hpt).mpr (.inl hh))
    · exact fun q hq hqp hdead hesc => hle q (Group.mem_pendings.mpr ⟨hq, hqp, hdead, hesc⟩)
    · intro hh hwait
      rw [State.deliver_of_oldestPend? hg hf hh ho]
      exact if_pos (by simpa using hwait)
    · intro hh hstop hawait
      obtain ⟨h, q, hgu, hpu, hctx⟩ := State.group?_abortRegion hg hp
      have hroad : s.deliver g.id = s.takeRoad g.id p.id t := by
        rw [State.deliver_of_oldestPend? hg hf hh ho, hstop, hawait]
        rfl
      rw [State.takeRoad_eq hc hgu hpu, hctx] at hroad
      refine ⟨h, q, hgu, hpu, fun hen => ?_, fun hen hcls => ?_, fun hen hcls => ?_⟩
      · rw [hroad, if_pos hen]
      · rw [hroad, hen, if_neg Bool.false_ne_true, if_pos hcls]
      · rw [hroad, hen, if_neg Bool.false_ne_true, if_neg (by simp [hcls])]
  · intro s g p t hg hf
    have hd := State.deliver_of_fatalPend? hg hf
    exact ⟨hd, s.recordFor g p t 1 p.handler, by rw [hd, State.fatal_fatals], rfl, rfl⟩
  · intro g p t hp hpt hdead hesc hroad
    have hpend := Group.mem_pendings.mpr ⟨hp, hpt ▸ rfl, hdead, hesc⟩
    obtain ⟨q, u, hqu⟩ := Group.exists_fatalPend? hpend ((Split.fatalAtOnce_iff hpt).mpr hroad)
    obtain ⟨hq, hu, hatOnce⟩ := Group.fatalPend?_eq_some hqu
    exact ⟨q, u, hqu, (Group.mem_pendings.mp hq).1, hu, (Split.fatalAtOnce_iff hu).mp hatOnce⟩
  · intro s g e ho
    obtain ⟨r, hr, hkind⟩ := s.fatalFor_fatals g e.mask (engineTrap e)
    exact ⟨_, r, exec_engineFault_of_orphan ho, hr, hkind⟩

end Sys2Proof.Machine
end
